-- ==== Sys2Proof/Word.lean ====
section
/-!
DEFINITION. The plain data types every other file is written in: bytes, words, sparse maps, and the tables' notion
of a register field (R6, R7, R10 of spec/00_scope.md). No operation stands here: operations live under Machine/.
-/
namespace Sys2Proof

/-- A byte (R6: little-endian throughout). -/
abbrev Byte := BitVec 8
/-- A doubleword: a scalar register, a system value, half an instruction word. -/
abbrev Word64 := BitVec 64
/-- An instruction word of 128 bits (R124, R149). -/
abbrev IWord := BitVec 128
/-- An AF48 accumulator word (R78). -/
abbrev AccWord := BitVec 48

/-- Sparse data by key: a list of (key, value) pairs in one canonical form, keys strictly rising and no entry equal to
the value an unlisted key reads as. -/
abbrev SMap (ν : Type) := List (Nat × ν)

/-- The access types of R7. -/
inductive Acc where
  | rw | ro | wo | w1c | w1s | rc | rwl
  deriving DecidableEq, Repr

/-- A register field of the spec's register tables: the byte offset of its register in its unit's page, its lowest
bit, its width, its reset value, the distance in bits between two instances of one index, and its access type. A reset
value the spec gives as "—" or leaves to bring-up stands here as 0 (log entry 5). -/
structure Fld where
  off  : Nat
  lo   : Nat
  w    : Nat
  rst  : Nat := 0
  step : Nat := 0
  acc  : Acc := .ro
  deriving DecidableEq, Repr

/-- A register of the spec's register tables: offset, distance in bytes between instances, their number, width in bits,
the LOCK field its RWL fields obey, and its fields. -/
structure RegDef where
  name   : String
  off    : Nat
  stride : Nat
  count  : Nat
  width  : Nat
  lock   : Option Fld
  flds   : List Fld
  deriving DecidableEq, Repr

/-- The units of R4, each by its number: physical core, engine of a core, bobbin of a core, queue of a core (EQ0-EQ3, BQ0,
BQ1, VQ, NQ), partition, stack, bride port, die, cluster, link complex, receptacle. -/
abbrev PCore := Fin 64
abbrev Eng := Fin 4
abbrev Bob := Fin 2
abbrev Queue := Fin 8
abbrev Part := Fin 16
abbrev Stack := Fin 20
abbrev Port := Fin 24
abbrev Die := Fin 4
abbrev Cluster := Fin 16
abbrev Complex := Fin 8
abbrev Recept := Fin 12
/-- A CXL function (R339, R342): 0 is PF0, n is VF n. -/
abbrev Func := Fin 17

end Sys2Proof
end

