-- ==== Sys2Proof/Syntax.lean ====
section
/-!
DEFINITION. The commands of the block: one constructor of `Instr` per row of spec/opcode_table.json, with the operands a row
needs to say which unit acts and what reaches it from outside. The kinds of outside events stand first.
-/
namespace Sys2Proof

/-! ### What an event brings -/

/-- What a pass is declared faulted for (R60): a residue mismatch, or a parity error of an operand path. -/
inductive PassErr where
  | residue | parA | parB | parW
  deriving DecidableEq, Repr

/-- The course of an in-service known-answer pass: it starts, ends clean, or fails at a row and column (R391). -/
inductive KatEvent where
  | start | clean | fail (row col : Fin 128)
  deriving DecidableEq, Repr

/-- What the controller's ECC finds when a line is read (R246): nothing, a corrected symbol, an uncorrectable line that a
re-read repairs (HBM_REREAD), or one that fails it. -/
inductive LineEcc where
  | clean | corrected | reread | lost
  deriving DecidableEq, Repr

/-- A stack that serves a request, with what its ECC finds at the lines the request reads, in their order; lines past the list's end are
clean (R246). -/
structure Served where
  stack : Stack
  ecc   : List LineEcc
  deriving DecidableEq, Repr

/-- The packet at the front of a port, with what the ECC of the HBM finds at the lines that the packet has read, in their order; lines past the list's
end are clean (R246). -/
structure PortRead where
  port : Port
  ecc  : List LineEcc
  deriving DecidableEq, Repr

/-- A running fill, with what the ECC of the HBM finds at the lines of the page it sends (R246). -/
structure FillRead where
  fill : Fin 2
  ecc  : List LineEcc
  deriving DecidableEq, Repr

/-- A flit of a bride link by its header and its 240 bytes of payload (R289); its CRC and FEC are formed where it is sent and checked where it arrives. -/
structure BFlit where
  kind    : Nat
  cls     : Nat
  seq     : Nat
  ack     : Nat
  replay  : Bool
  payload : List Byte
  deriving DecidableEq, Repr

/-- What the secure element of a cable end holds, and the end itself (R308 to R312): its serial number, type (1 copper, 2
optical, 0 an end with no secure element), whether it would pass authentication, its counters, its last host (identity and receptacle), and whether it refuses
counter writes. -/
structure CableEnd where
  serial  : Nat
  kind    : Nat
  genuine : Bool
  matings : Nat
  hours   : Nat
  host    : Nat × Nat
  refuses : Bool
  deriving DecidableEq, Repr

/-- An upset of a core's memories other than its scratchpad (R96, R386): a bit of a word pair of an accumulator row flips, two where `double`; or an
uncorrectable error in an instruction, by bank × 8,192 + index. -/
inductive MemUpset where
  | acc (c : PCore) (e : Eng) (row : Fin 4096) (pair : Fin 64) (double : Bool)
  | imem (c : PCore) (i : Fin 16384)
  deriving DecidableEq, Repr

/-- What a self-test finds (R386): the unit passes, or it fails; for an engine, at a row or a column; for a scratchpad bank, after an error in the
spare it was copied to (R398). -/
inductive TestResult where
  | pass | fail | failRow (row : Fin 128) | failCol (col : Fin 128) | failCopy
  deriving DecidableEq, Repr

/-- What the other end of the CXL link offers (R338): its widest width (a code of `CXL_LINK`.WIDTH), 32.0 and 64.0 GT/s, 256-byte flit mode,
and whether the ends agree on latency-optimised flits. -/
structure CxlOffer where
  width   : Nat
  g32     : Bool
  g64     : Bool
  flit256 : Bool
  lopt    : Bool
  deriving DecidableEq, Repr

/-- What bring-up meets that is not the module's to decide (R421 to R423, R430, R432): whether die 0's clock, control processor and security
engine work and the boot flash can be read; what the CXL link's other end offers where the port works; as bit masks, the physical
cores, stacks, bridges and dies' control processors that fail or cannot be reached; and the failures found in units of R386 (unit, unit number,
location and result). -/
structure BootTest where
  core0   : Bool
  flash   : Bool
  cxl     : Option CxlOffer
  cores   : Nat
  stackBad : Nat
  bridges : Nat
  dies    : Nat
  fails   : List (Nat × Nat × Nat × TestResult)
  deriving DecidableEq, Repr

/-- The IDE streams of the port (R358): the link stream and the four selective streams of CXL.io, and the stream of CXL.cache and CXL.mem, in
containment or in skid mode. -/
inductive IdeStream where
  | ioLink
  | ioSel (n : Fin 4)
  | cm (skid : Bool)
  deriving DecidableEq, Repr

/-- An SPDM request (R441), with the certificate slot or the session it names. -/
inductive SpdmReq where
  | getVersion | getCapabilities | negotiate
  | getDigests | getCertificate (slot : Nat)
  | challenge (slot : Nat) | getMeasurements (slot index : Nat) (signed : Bool)
  | keyExchange (slot session : Nat) | endSession (session : Nat)
  | heartbeat (session : Nat) | keyUpdate (session : Nat)
  | ideKeys (session : Nat) (stream : IdeStream)
  deriving DecidableEq, Repr

/-- The answers to an SPDM request (R441). -/
inductive SpdmAns where
  | ok | invalidRequest | busy | sessionLimitExceeded
  deriving DecidableEq, Repr

/-- What the governor measures in 100 µs (R459 to R461, R472): the averages over the last window and the last millisecond (W), the
input (mV), the junctions of the dies and the hottest stack with its number (°C), and each rail's voltage, current and state. -/
structure Readings where
  window : Nat
  peak   : Nat
  vin    : Nat
  tj     : List Nat
  hbm    : Nat
  stack  : Nat
  rails  : List (Nat × Nat × Nat)
  deriving DecidableEq, Repr

/-- The capabilities and the algorithms that the module's SPDM responder has (R441). -/
inductive SpdmCap where
  | cert | chal | measSig | keyEx | encrypt | mac | hbeat | keyUpd
  deriving DecidableEq, Repr
@[inherit_doc SpdmCap] inductive SpdmAlg where
  | rsassa4096 | rsapss4096 | sha512 | secp384r1 | aes256Gcm
  deriving DecidableEq, Repr

/-- What an answer to an SPDM request carries (R439, R441): a version, capabilities, algorithms, the digests of the slots' chains, a chain,
measurements, or a session. -/
inductive SpdmData where
  | empty
  | version (v : Nat)
  | capabilities (l : List SpdmCap)
  | algorithms (l : List SpdmAlg)
  | digests (l : List (Nat × Nat))
  | chain (bytes : List Byte)
  | measurements (l : List Nat)
  | session (n : Nat)
  deriving DecidableEq, Repr

/-- What a window of training measures (R433): in the port's receive direction the bit errors of lanes 0 to 7 among the `bits` counted on each,
and the flits that failed their CRC after FEC among those received; and the lanes whose BER passed at the other end. -/
structure LaneTest where
  errors : List Nat
  bits   : Nat
  fails  : Nat
  flits  : Nat
  peer   : BitVec 8
  deriving DecidableEq, Repr

/-- The four demands of the governor for the duty (R459): power, peak, junction, HBM. -/
structure Demands where
  power    : Fin 16
  peak     : Fin 16
  junction : Fin 16
  hbm      : Fin 16
  deriving DecidableEq, Repr

/-- A CLASS_CONFIRM (R451): class, MOD_ID, serial, nonce, chassis certificate chain and signature. -/
structure ClassMsg where
  cls    : Nat
  modId  : Nat
  serial : Nat
  nonce  : Nat
  chain  : List Byte
  sig    : List Byte
  deriving DecidableEq, Repr

/-- What a host write of a register with no command of its own reaches (R10, R340, R341): a register at a local address, with the width
of the access in bytes; an offset of one of the function's BARs, with the width; or configuration of a function: its MSI-X enable and function
mask, the mask of a vector, VF Enable, BI Enable (R344, R355); or the page tables of a partition: device address, length, physical address and
whether it is uncached (R226, R349). -/
inductive RegTarget where
  | reg (addr bytes : Nat)
  | bar (bar off bytes : Nat)
  | msix (enable mask : Bool)
  | vector (n : Nat) (masked : Bool)
  | vfEnable (on : Bool)
  | biEnable (on : Bool)
  | pages (p : Part) (entries : List (Nat × Nat × Nat × Bool))
  deriving DecidableEq, Repr

/-! ### The commands -/

/-- A command of the block: one constructor per row of the table, in the table's order. -/
inductive Instr where
  /-- Sequencer instruction that has no effect and takes one cycle (R150). -/
  | nop (c : PCore)
  /-- Writes RS1 + RS2 modulo 2^64 to RD (R150). -/
  | add (c : PCore)
  /-- Writes RS1 − RS2 modulo 2^64 to RD (R150). -/
  | sub (c : PCore)
  /-- Writes the bitwise and of RS1 and RS2 to RD (R150). -/
  | and (c : PCore)
  /-- Writes the bitwise or of RS1 and RS2 to RD (R150). -/
  | or (c : PCore)
  /-- Writes the bitwise exclusive or of RS1 and RS2 to RD (R150). -/
  | xor (c : PCore)
  /-- Shifts RS1 left by RS2[5:0] into RD (R150). -/
  | shl (c : PCore)
  /-- Shifts RS1 right by RS2[5:0] with zero fill into RD (R150). -/
  | shr (c : PCore)
  /-- Shifts RS1 right by RS2[5:0] with sign fill into RD (R150). -/
  | sra (c : PCore)
  /-- Writes the low 64 bits of RS1 × RS2 to RD in three cycles (R150). -/
  | mul (c : PCore)
  /-- Writes RS1 + IMM modulo 2^64 to RD (R150). -/
  | addi (c : PCore)
  /-- Loads the immediate into RD (R150). -/
  | li (c : PCore)
  /-- Compares RS1 with RS2 and sets the Z, S and U condition bits (R151). -/
  | cmp (c : PCore)
  /-- Compares RS1 with the immediate and sets the condition state (R151). -/
  | cmpi (c : PCore)
  /-- Branches to the immediate instruction index (R150). -/
  | br (c : PCore)
  /-- Writes the next index to RD and branches to the immediate (R150). -/
  | jal (c : PCore)
  /-- Branches to the index held in RS1 (R150). -/
  | jr (c : PCore)
  /-- Loads 8 B from the scratchpad into RD, stalling the sequencer until the data returns (R152). -/
  | ld (c : PCore)
  /-- Stores RS2 as 8 B at a scratchpad offset through the vector port (R152). -/
  | st (c : PCore)
  /-- Reads the system value selected by the immediate into RD (R153). -/
  | rdsys (c : PCore)
  /-- Reads a flag's value into RD without consuming it (R150). -/
  | rdflag (c : PCore)
  /-- Blocks the sequencer until a queue holds n or fewer entries (R134). -/
  | qwait (c : PCore)
  /-- A blocked QWAIT finds its queue at or below n and the sequencer continues (R134). -/
  | qwaitSatisfied (c : PCore)
  /-- Begins waiting for all eight queues to empty before swapping instruction banks (R126). -/
  | swapi (c : PCore)
  /-- Once the queues are empty, the active bank is inverted and the PC set to the target (R126). -/
  | swapiSwap (c : PCore)
  /-- Holds the sequencer until all queues are empty and every issued operation is complete (R154). -/
  | endTask (c : PCore)
  /-- The waited-for work has completed and the core enters state 3 (R154). -/
  | endComplete (c : PCore)
  /-- A fetch past index 8,191 of the active bank aborts the task with cause 6 (R132). -/
  | fetchPastBankEnd (c : PCore)
  /-- A WAIT reaches its head and starts its timeout, acquiring n from flag f when it can (R135). -/
  | wait (c : PCore) (who : Fin 9)
  /-- A WAITC reaches its head and waits on an arrival counter with the rules of WAIT (R156). -/
  | waitc (c : PCore) (who : Fin 9)
  /-- A waiting WAIT or WAITC finds its flag or counter at least N, subtracts N and leaves its head (R135). -/
  | waitSatisfied (c : PCore) (who : Fin 9)
  /-- An unsatisfied WAIT's timeout expires and the task aborts with cause 1 (R138). -/
  | waitTimeout (c : PCore) (who : Fin 9)
  /-- Once the queue's earlier writes are visible, adds n to a flag of this or another core (R136). -/
  | signal (c : PCore) (who : Fin 9)
  /-- A remote SIGNAL reaches its target core and is applied or absorbed by core state (R137). -/
  | remoteSignalArrival (i : Nat)
  /-- Advances the head of a slot ring after the queue's earlier scratchpad reads complete (R157). -/
  | release (c : PCore) (who : Fin 9)
  /-- Checks the epoch and appends a cut marker to every queue (R158). -/
  | cut (c : PCore)
  /-- All cores' markers are at their heads and earlier writes visible, so the markers leave (R159). -/
  | cutComplete (p : Part)
  /-- A cut marker waits past the wait limit and the task aborts with cause 1 (R160). -/
  | cutTimeout (c : PCore) (q : Queue)
  /-- After 4,096 quiescent cycles with no operation in flight, the partition's task is aborted with cause 2 (R140). -/
  | deadlockDeclare (p : Part)
  /-- Every core of the task stops fetching, discards its queues and enters state 4 while units stop their work (R144). -/
  | taskAbort (p : Part) (host : Bool)
  /-- An outer-product pass reaches its engine and streams its operands once its start cycle allows (R29). -/
  | pass (c : PCore) (e : Eng)
  /-- A pass declared clean folds its pass register into the tile row by row and lowers the pending count (R34). -/
  | passFold (c : PCore) (e : Eng) (err : Option (Fin 128 × Fin 128))
  /-- A pass declared faulted is abandoned with later streaming passes and the task aborts or replays (R50). -/
  | passFault (c : PCore) (e : Eng) (n : Nat) (k : PassErr) (row col : Fin 128)
  /-- A weight load reaches its engine and schedules its moving front (R40). -/
  | loadw (c : PCore) (e : Eng)
  /-- A waiting LOADW front starts once the previous front has run 128 cycles (R41). -/
  | loadwFrontStart (c : PCore) (e : Eng)
  /-- At the engine queue head, swaps a tile's halves and binds a drain request to the former live half (R39). -/
  | close (c : PCore) (e : Eng)
  /-- At the engine queue head, binds a drain request to the live half without a swap (R99). -/
  | drain (c : PCore) (e : Eng)
  /-- A write of PREEMPT requests the engine to stop issuing passes and LOADW fronts (R48). -/
  | opePreempt (f : Func) (c : PCore) (e : Eng)
  /-- The stream in progress ends and the engine enters PREEMPTED (R48). -/
  | enginePreemptBoundary (c : PCore) (e : Eng)
  /-- A write of RESUME returns the engine to issuing from its queue (R49). -/
  | opeResume (f : Func) (c : PCore) (e : Eng)
  /-- After a successful replay, 2,048 idle cycles or task end quarantine the engine for test (R51). -/
  | engineIdleQuarantine (c : PCore) (e : Eng)
  /-- An in-service known-answer pass starts on an engine idle for 2,048 cycles (R61). -/
  | knownAnswerPass (c : PCore) (e : Eng) (ev : KatEvent)
  /-- A drain request begins once its pending count is zero, the previous request has read out and any FENCE is met (R100). -/
  | drainRequestBegin (c : PCore) (e : Eng)
  /-- The scale record's SCALE arrives and the drain reads row 0 in the next cycle (R86). -/
  | scaleRecordReadReturn (c : PCore) (e : Eng) (k : Stack)
  /-- The drain reads one tile row and carries it through stages S1 to S7 and reductions (R103). -/
  | drainRowRead (c : PCore) (e : Eng)
  /-- After its last row the drain emits reductions and sends the norm and record updates (R113). -/
  | drainRequestEnd (c : PCore) (e : Eng)
  /-- A write to a drain profile is applied, or discarded whole if illegal (R116). -/
  | drainProfileWrite (f : Func) (c : PCore) (e : Eng) (n : Fin 8) (k : Fin 5) (v : Word64)
  /-- Vector elementwise addition (R167). -/
  | vadd (c : PCore)
  /-- Vector elementwise subtraction (R167). -/
  | vsub (c : PCore)
  /-- Vector elementwise multiplication (R167). -/
  | vmul (c : PCore)
  /-- Vector fused multiply-add with one rounding (R167). -/
  | vfma (c : PCore)
  /-- Vector elementwise maximum (R167). -/
  | vmax (c : PCore)
  /-- Vector elementwise minimum (R167). -/
  | vmin (c : PCore)
  /-- Vector elementwise magnitude (R167). -/
  | vabs (c : PCore)
  /-- Vector elementwise negation (R167). -/
  | vneg (c : PCore)
  /-- Vector exponential (R168). -/
  | vexp (c : PCore)
  /-- Vector natural logarithm (R168). -/
  | vln (c : PCore)
  /-- Vector reciprocal (R168). -/
  | vrcp (c : PCore)
  /-- Vector reciprocal square root (R168). -/
  | vrsq (c : PCore)
  /-- Vector format conversion with a scale (R168). -/
  | vcvt (c : PCore)
  /-- Vector reduction of all elements in a fixed tree (R168). -/
  | vred (c : PCore)
  /-- Writes 32-bit random words from a counter-based stream (R168). -/
  | vrng (c : PCore)
  /-- Starts a copy, gather or scatter transfer from a 128 B descriptor (R228). -/
  | bxfer (c : PCore) (b : Bob)
  /-- Starts a dispatch that sends token rows to expert windows and writes placements and counts (R232). -/
  | bxferDispatch (c : PCore) (b : Bob)
  /-- Copies a byte range between two addresses as a one-dimensional transfer (R170). -/
  | bcopy (c : PCore) (b : Bob)
  /-- A ring transfer waiting at the queue head reserves a released slot (R240). -/
  | ringSlotReserve (c : PCore) (b : Bob)
  /-- A bobbin issues one request, after tags, allotment and regulator allow, translating its address (R223). -/
  | bobbinRequestIssue (c : PCore) (b : Bob)
  /-- A request's data becomes visible or its completion returns, freeing its tag and noting any refusal (R225). -/
  | bobbinRequestComplete (c : PCore) (b : Bob) (tag : Nat) (host : List Byte) (poison : Bool)
  /-- Every request of a transfer is complete; the ring tail, record and completion pair follow in order (R234). -/
  | transferComplete (c : PCore) (b : Bob) (n : Fin 4)
  /-- Memory-side region add of a source region into a destination region (R260). -/
  | mopRegionAdd (c : PCore) (b : Bob)
  /-- Memory-side region maximum with index (R260). -/
  | mopRegionMax (c : PCore) (b : Bob)
  /-- Memory-side region minimum with index (R260). -/
  | mopRegionMin (c : PCore) (b : Bob)
  /-- Memory-side optimiser step on an FP32 master with moments and working copy (R261). -/
  | mopOptimiserStep (c : PCore) (b : Bob)
  /-- Memory-side accumulation of a region's squares into a norm entry (R260). -/
  | mopNormAccumulation (c : PCore) (b : Bob)
  /-- Memory-side zero-fill with fresh check bits and cleared poison (R260). -/
  | mopZeroFill (c : PCore) (b : Bob)
  /-- Copies norm-table entries to a destination, optionally clearing them (R265). -/
  | mopNormFetch (c : PCore) (b : Bob)
  /-- Carries a scale-commit operation for a record and step number to its picot (R88). -/
  | scommit (c : PCore) (b : Bob)
  /-- Applies a single atomic add, max or min at one address (R171). -/
  | matom (c : PCore) (b : Bob)
  /-- Sends scratchpad bytes on a pricking stream (R173). -/
  | nsend (c : PCore)
  /-- Writes scratchpad bytes into a window of another logical core as 512 B requests (R173). -/
  | nput (c : PCore)
  /-- The last request's verdict returns; the record is written and the completion pair signalled (R192). -/
  | nputVerdictReturn (c : PCore)
  /-- Sends a credit request for bytes of a window on another core (R189). -/
  | ncredit (c : PCore)
  /-- Opens a window, binds and zeroes its arrival counter (R173). -/
  | wopen (c : PCore)
  /-- Closes a window, raises its generation and begins draining accepted writes (R190). -/
  | wclose (c : PCore)
  /-- The last accepted line of a closed window is counted and the counter unbinds (R190). -/
  | windowDrainEnd (c : PCore) (w : Fin 16)
  /-- A window write request's first line reaches the core and is checked, accepted or refused (R186). -/
  | windowWriteRequest (i : Nat)
  /-- A credit request reaches the window owner and is granted, queued or refused (R189). -/
  | creditRequestArrival (i : Nat)
  /-- A stream line is delivered into a sink window and counted, or refused (R207). -/
  | sinkDelivery (c : PCore)
  /-- A read of another core's scratchpad line is served whole (R183). -/
  | remoteScratchpadRead (c : PCore) (b : Bob) (tag : Nat)
  /-- A write of GO starts fetching at SEQ_START (R123). -/
  | seqGo (f : Func) (c : PCore)
  /-- A write of STOP halts the sequencer at the end of the cycle and abandons a blocked instruction (R476). -/
  | seqStop (f : Func) (c : PCore)
  /-- A write of RESUME leaves state 2 and continues at the program counter (R123). -/
  | seqResume (f : Func) (c : PCore)
  /-- A host write adds COUNT to a flag of the core (R137). -/
  | seqFlagsig (f : Func) (c : PCore) (v : BitVec 32)
  /-- A host write to instruction memory is checked and written whole or refused (R125). -/
  | imemHostWrite (f : Func) (c : PCore) (off : BitVec 18) (data : List Byte)
  /-- A host write to the scratchpad aperture is accepted unless the core is running (R184). -/
  | scratchpadApertureWrite (f : Func) (c : PCore) (off : BitVec 24) (data : List Byte)
  /-- A host write to the accumulator debug aperture is accepted only while the core is halted (R98). -/
  | accApertureWrite (f : Func) (c : PCore) (off : BitVec 24) (data : List Byte)
  /-- A write to a register with no behaviour of its own sets its fields under their access types (R10). -/
  | registerWrite (f : Func) (t : RegTarget) (v : Word64)
  /-- A write of a bobbin's tag reservation, discarded if the reservations would exceed 512 (R225). -/
  | bobCtrlWrite (f : Func) (c : PCore) (b : Bob) (v : Word64)
  /-- A write of a stream's flit allotment, discarded above 4,096 (R225). -/
  | bobAllotWrite (f : Func) (c : PCore) (k : Fin 32) (v : Word64)
  /-- Configures or disables a slot ring, or is discarded with RING_REJ (R242). -/
  | bobRingCfgWrite (f : Func) (c : PCore) (r : Fin 16) (v : Word64)
  /-- Sets a regulator's rate and burst and fills its bucket (R239). -/
  | bobRegWrite (f : Func) (c : PCore) (b : Bob) (n : Fin 8) (v : Word64)
  /-- A COMMIT checks the inactive bank for a partition and queues the switch or refuses it (R217). -/
  | prickingCommit (f : Func) (p : Part) (commit : Bool)
  /-- At the next period boundary NET_ACTIVE switches and the new bank is copied back (R217). -/
  | prickingSwitch
  /-- A write of the frame length is accepted or discarded (R218). -/
  | netFrameWrite (f : Func) (len : BitVec 9)
  /-- At the next period boundary the new frame length takes effect on all dies (R218). -/
  | frameLengthChange
  /-- In each slot every router output sends the flit its slot-table entry names (R202). -/
  | networkSlot (parity : List (Die × Fin 16 × Fin 64))
  /-- A frame selected by the duty is suppressed and every core-side unit holds its state (R214). -/
  | frameSuppress
  /-- An uncorrectable bridge flit is re-sent once and delivered 48 cycles late (R210). -/
  | bridgeFlitResend (i : Nat) (lost : Bool)
  /-- In a response slot the controller sends the oldest ready response or a not-ready marker (R212). -/
  | stackResponseSlot (k : Stack) (i : Nat)
  /-- A request arrives at a picot, takes its arrival position and is applied to its line (R253). -/
  | picotRequestApply (k : Stack) (ecc : List LineEcc)
  /-- The picot applies a single atomic add, max or min at its arrival position (R256). -/
  | atomicApply (q : Served)
  /-- The picot applies one part of a memory-side operation element by element (R259). -/
  | regionPartApply (q : Served)
  /-- The picot applies an amax, overflow and NaN update to a scale record (R86). -/
  | scaleRecordUpdate (q : Served)
  /-- The picot chooses a new SCALE, advances HIST_PTR and writes STEP (R88). -/
  | scaleCommitApply (q : Served)
  /-- The owning picot adds a norm update into its norm-table entry (R264). -/
  | normUpdate (k : Stack)
  /-- A host read of the selected norm entry at one arrival position, clearing it if asked (R265). -/
  | mseNormdataRead (f : Func)
  /-- Starts an owner change of a page range, moving changing pages to scrubbing (R262). -/
  | mseOwncmdGo (f : Func) (v : Word64)
  /-- Once every picot has zero-filled a page, it takes its new owner and MIRROR value (R262). -/
  | ownerPageComplete
  /-- Sets the die-local size before the first GO, or is discarded after lock (R248). -/
  | hbmMapWrite (f : Func) (n : BitVec 6)
  /-- A patrol read checks and corrects one line in an idle command slot (R250). -/
  | hbmPatrolRead (k : Stack) (ecc : LineEcc)
  /-- The controller issues a per-bank refresh at its interval (R244). -/
  | hbmRefresh (k : Stack) (temp : BitVec 8)
  /-- Firmware starts moving a stack page to a free spare, or flags NOSPARE (R251). -/
  | pageRetirementStart (k : Stack) (page : Fin 32768)
  /-- One line of a retiring page is copied indivisibly, and after the last the remap switches (R251). -/
  | retirementLineCopy (q : Served)
  /-- A bride flit is FEC-corrected, CRC-checked and delivered in SEQ order or held (R290). -/
  | brideFlitReceive (p : Port) (f : BFlit) (errors : Fin 129 × Fin 129) (crcOk : Bool)
  /-- A NAK run starts retransmission of the named flits from the history (R292). -/
  | nakReceive (p : Port) (first : BitVec 16) (count : Fin 17)
  /-- A run still missing after 64 flit times is NAKed again (R292). -/
  | nakResendTimer (p : Port) (i : Nat)
  /-- After 64 flit times a link-management flit is sent with credit returns (R297). -/
  | linkMgmtFlitTimer (p : Port)
  /-- At the end of a 100 ms window a lane over threshold or CRC excess triggers a retrain (R293). -/
  | laneBerWindow (p : Port) (errors : List Nat) (bits : Nat)
  /-- Setting or clearing a port's ENABLE lets it train or takes it down (R294). -/
  | portEnableWrite (f : Func) (p : Port) (en : Bool)
  /-- A write of RETRAIN re-authenticates the cable end and retrains the port (R309). -/
  | hostRetrain (f : Func) (p : Port)
  /-- A 100 ms PRBS window ends and the width passes or the next width is tried (R433). -/
  | trainingWindowEnd (p : Port) (m : LaneTest) (peerQ : Bool)
  /-- Locking the module ID allows payload traffic on the bride ports (R305). -/
  | brdModidLock (f : Func) (id : BitVec 16)
  /-- A packet for another module takes its route member, or is dropped at the hop limit or without a route (R302). -/
  | packetForward (p : Port) (c : Fin 4)
  /-- An arriving HBM write is matched to a partition, translated and applied (R306). -/
  | writePacket (p : Port)
  /-- An arriving read request is served from HBM or refused (R306). -/
  | readRequestPacket (p : Port)
  /-- An arriving atomic or region-add part is translated and applied at the picot (R331). -/
  | atomicPacket (p : Port)
  /-- An arriving window write is checked and answered with its verdict (R306). -/
  | windowWritePacket (p : Port) (seq : Nat)
  /-- A read response arrives for its source unit's tag (R306). -/
  | readResponsePacket (p : Port)
  /-- A completion with its STATUS arrives for its source unit's tag (R306). -/
  | completionPacket (p : Port)
  /-- No response within the response limit ends the request as a remote page fault (R306). -/
  | remoteResponseTimeout (c : PCore) (b : Bob) (tag : Nat)
  /-- A credit request from another module reaches an EXT window (R189). -/
  | creditRequestPacket (p : Port) (core : Fin 64) (w : Fin 16) (bytes : Nat) (flag : Fin 64) (inc : BitVec 16)
  /-- A credit grant from another module adds N to the requester's flag (R189). -/
  | creditGrantPacket (p : Port) (flag : Fin 64) (inc : BitVec 16)
  /-- A multicast packet is replicated to its branches or held when a branch cannot take it (R319). -/
  | multicastPacket (p : Port)
  /-- A link complex packs a multicast source stream's lines into packets with SEQ (R318). -/
  | multicastPacketForm (x : Complex)
  /-- Writes a multicast source entry and restarts its SEQ at 0 (R318). -/
  | brdTxmapWrite (f : Func) (x : Complex) (k : Fin 64) (v : BitVec 64)
  /-- A branch full for LIMIT µs is expelled and a DETACHED notice issued (R324). -/
  | multicastExpel (g : BitVec 8) (b : Fin 25)
  /-- A DETACHED notice arrives and is forwarded on the group's branches (R325). -/
  | detachedNotice (p : Port)
  /-- Once earlier packets are delivered, the local branch sets DETACHED and signals NOTE_FLAG (R325). -/
  | detachedApply (g : BitVec 8)
  /-- The host clears an EXPELLED bit and the branch takes packets again (R325). -/
  | expelledClear (f : Func) (g : BitVec 8) (v : BitVec 64)
  /-- Configures a barrier context, resetting EPOCH, or is discarded (R327). -/
  | barrierConfigWrite (f : Func) (b : Fin 32) (v : BitVec 64)
  /-- A core arrives at a barrier context by writing BRD_BARRIVE (R328). -/
  | barrierArrive (f : Func) (c : PCore) (b : Fin 32)
  /-- A child's arrive packet is counted or dropped (R329). -/
  | barrierArrivePacket (p : Port)
  /-- A parent's release packet releases the context to children and local cores (R330). -/
  | barrierReleasePacket (p : Port)
  /-- PRSNT_N falls; the end is authenticated, its mating counter raised and its ports trained (R310). -/
  | cableInsertion (n : Recept) (e : CableEnd)
  /-- PRSNT_N rises; VCC3 goes off and both ports go down (R468). -/
  | cableRemoval (n : Recept)
  /-- The receptacle's up-time accumulator reaches 3,600 s and the end's hour counter rises (R311). -/
  | cableHour (n : Recept)
  /-- A host CXL.mem read of device memory is checked and served (R345). -/
  | cxlMemRead (tag line : Nat) (grant : Bool)
  /-- A host CXL.mem write is applied at its arrival position before completion (R348). -/
  | cxlMemWrite (tag addr : Nat) (data : List Byte) (poison : Bool)
  /-- The host's response and data are applied and the waiting request proceeds (R346). -/
  | biSnoopResponse (line : Nat) (data : Option (List Byte))
  /-- No response within the limit poisons the line and drops the filter entry (R347). -/
  | biSnoopTimeout (line : Nat)
  /-- A host snoop of the device cache is answered from clean state (R349). -/
  | hostSnoop (line : Nat) (inv : Bool)
  /-- A host-memory response missing past the limit ends the request as a page fault (R350). -/
  | cxlResponseTimeout (c : PCore) (b : Bob) (tag : Nat)
  /-- A decoder commit succeeds or fails without BI Enable (R344). -/
  | hdmDecoderCommit (d : Fin 2)
  /-- An IDE integrity failure sends the stream insecure and discards failing flits (R358). -/
  | ideIntegrityFailure (stream : IdeStream)
  /-- A doorbell with a non-zero COUNT adds it to a flag of a logical core (R351). -/
  | doorbellCount (f : Func) (p : Part) (v : BitVec 64)
  /-- A doorbell GO starts every idle or ended core of the partition (R351). -/
  | doorbellGo (f : Func) (p : Part) (v : BitVec 64)
  /-- Configures a completion queue; enabling it zeroes head, tail and SEQNO (R353). -/
  | cqCfgWrite (f : Func) (p : Part) (v : BitVec 32)
  /-- The host advances the head and held records are written in order (R352). -/
  | cqHeadWrite (f : Func) (p : Part) (v : BitVec 32)
  /-- A program's write posts a KIND 0x03 record with its value (R354). -/
  | cxlPost (c : PCore) (v : BitVec 64)
  /-- FLR of a VF resets its partition and configuration state (R343). -/
  | flrVf (p : Part)
  /-- FLR of PF0 resets every partition and every function (R343). -/
  | flrPf0
  /-- CXL Reset acts as FLR of PF0 and empties the cache and snoop filter (R343). -/
  | cxlReset
  /-- Hot reset, link down or PERST_N assertion causes a module reset (R343). -/
  | cxlLinkDown
  /-- Creates a partition from clusters after checks, resetting and zero-filling them (R367). -/
  | partitionForm (f : Func) (p : Part) (clusters : BitVec 16)
  /-- Gives clusters to an existing partition after reset and zero-fill (R367). -/
  | partitionMove (f : Func) (p : Part) (clusters : BitVec 16)
  /-- Ends a partition, returning its clusters to partition 0 and clearing its settings (R367). -/
  | partitionDissolve (f : Func) (p : Part)
  /-- A core reset aborts its task and starts the core reset sequence (R370). -/
  | resetCore (f : Func) (c : PCore)
  /-- Applies the core reset to every enabled core of a cluster (R372). -/
  | resetCluster (f : Func) (k : Fin 64)
  /-- Starts a partition reset, holding its traffic and resetting its cores (R373). -/
  | resetPartition (f : Func) (p : Fin 64)
  /-- Stops every unit and runs bring-up from its first step (R376). -/
  | resetModule (f : Func)
  /-- After 9,400 cycles the core is in state 0 or 5 and its INRESET bit clears (R370). -/
  | coreResetComplete (c : PCore)
  /-- Once every row has ended, INRESET clears and a KIND 0x04 record is written (R373). -/
  | partitionResetComplete (p : Part)
  /-- A quarantined unit's self-test starts at its start point (R386). -/
  | selfTestStart (i : Nat)
  /-- A self-test ends and the unit returns to service or takes its lasting action (R386). -/
  | selfTestEnd (i : Nat) (r : TestResult)
  /-- Firmware takes a spare or retires a unit at a point where no ordering promise is pending (R390). -/
  | spareTake (i : Nat)
  /-- A patrol read and write-back of one scratchpad line or accumulator row (R391), after the upsets since the last: `words` of a core's
  scratchpad, and word pairs of `rows` of an engine's accumulator, of one bit or of two (log entry 93). -/
  | scratchpadPatrol (words : List (PCore × Fin 1572864 × Bool)) (rows : List MemUpset)
  /-- Every 100 ms each active lane's margin is checked (R391). -/
  | laneMarginCheck (p : Port) (lane : Fin 8) (code : BitVec 8)
  /-- At each hour ERR_HOURCUR is copied to ERR_HOURLAST (R399). -/
  | errorHourRollover
  /-- Enables mirroring, marking every mirrored page dirty unless adopting (R400). -/
  | mirrorEnable (f : Func) (p : Part) (v : BitVec 64) (store : Nat)
  /-- Clears EN, failing any epoch in transit and clearing both bitmaps (R400). -/
  | mirrorDisable (f : Func) (p : Part)
  /-- Configures a store context, or discards its copy when VALID clears (R419). -/
  | mirrorStoreWrite (f : Func) (n : Fin 16) (v : BitVec 64)
  /-- A picot sends one granule of the closing epoch as mirror packets and frees its reserve slot (R406). -/
  | granuleSend (p : Part) (q : Served)
  /-- When every page digest has been sent, die 0 sends the manifest (R407). -/
  | manifestSend (p : Part)
  /-- The partner or spare stores arriving page data in a free data page (R408). -/
  | mirrorPageData (q : PortRead)
  /-- An arriving page digest is checked against the stored data (R408). -/
  | mirrorPageDigest (q : PortRead)
  /-- A manifest chunk arrives; when complete and matching, the epoch is verified and answered (R408). -/
  | mirrorManifestChunk (q : PortRead)
  /-- The source receives VERIFIED, COMMITTED or a failure and commits or fails the epoch (R408). -/
  | mirrorEpochStatus (port : Port)
  /-- No answer or progress within ACKLIMIT fails the epoch and marks the partner lost (R410). -/
  | mirrorAckTimeout (p : Part)
  /-- The host releases a held epoch and the source sends RELEASE (R408). -/
  | mirrorRelease (f : Func) (p : Part)
  /-- The partner switches its map to the held epoch and answers COMMITTED (R408). -/
  | mirrorReleasePacket (port : Port)
  /-- Starts a restore of the partition to an epoch, or refuses it (R411). -/
  | mirrorRestore (f : Func) (p : Part) (epoch : BitVec 16) (rnorms rngchk : Bool)
  /-- The partner returns the requested page from the target epoch's map (R412). -/
  | restoreRequestPacket (q : PortRead)
  /-- The spare arms a partition to accept a fill from a named partner (R413). -/
  | fillArm (f : Func) (p : Part) (src : BitVec 16) (arm : Bool)
  /-- The partner starts or queues a fill of a store to a spare (R413). -/
  | fillGo (f : Func) (store : Fin 16) (target : BitVec 16)
  /-- Pauses the running fill (R414). -/
  | fillStop (f : Func)
  /-- The spare's confirmation of a page advances the fill watermark (R414). -/
  | fillPageConfirm (port : Port)
  /-- The spare applies the manifest and answers fill complete (R414). -/
  | fillComplete (p : Part)
  /-- A route lost for longer than ACKLIMIT stops or ends the fill (R414). -/
  | fillRouteTimeout (spare : Bool) (i : Fin 16)
  /-- The release of PERST_N starts bring-up from step 1 (R421). -/
  | bringUpStart (t : BootTest)
  /-- The attestation key and its alias certificate become ready (R440). -/
  | aliasKeyReady
  /-- An SPDM 1.3 request over I3C or DOE is answered in arrival order (R441). -/
  | spdmRequest (doe : Bool) (r : SpdmReq)
  /-- Writes a 4 KiB chunk to the staging slot (R427). -/
  | fwWrite (f : Func) (chunk : BitVec 12) (fails : Bool)
  /-- Checks the staged slot and makes it valid and preferred (R427). -/
  | fwVerify (f : Func) (fails : Bool)
  /-- Starts a module reset with cause 5 into the new firmware (R427). -/
  | fwActivate (f : Func)
  /-- Raises the anti-rollback count to the booted SVN one fuse at a time (R428). -/
  | commitSvn (f : Func)
  /-- Marks the other valid slot preferred (R427). -/
  | fwPrefer (f : Func) (fails : Bool)
  /-- Empties the repair record for the next module reset (R432). -/
  | clearRepair (f : Func) (fails : Bool)
  /-- Checks a licence and stores it in the lowest free entry (R445). -/
  | licenceInstall (f : Func) (fails : Bool)
  /-- Removes a stored licence entry (R445). -/
  | licenceRemove (f : Func) (i : Fin 16) (fails : Bool)
  /-- 54 V is applied and the module sequences its rails and releases PWRGD (R465). -/
  | powerInputApply (straps : Fin 4) (modId : Fin 64) (holds : Bool)
  /-- PERST_N is asserted and the module quiesces its stacks and domains (R465). -/
  | perstNAssert
  /-- The input falls below 46 V and PWRGD is pulled low (R465). -/
  | inputUndervoltage (mv : BitVec 16)
  /-- Loss of the reference or a PLL unlock is fatal error 0x1A (R458). -/
  | referenceClockLoss (pll : Option Die)
  /-- A rail below 97 % sets the duty to 15 for 20 µs (R460). -/
  | railWarning (rail : Fin 33)
  /-- After 20 µs the 100 µs governor loop resumes (R460). -/
  | railWarningEnd
  /-- A rail out of its fault limits is fatal error 0x1B (R460). -/
  | railFault (rail : Fin 33) (mv : BitVec 16)
  /-- Every 100 µs the governor sets the duty to the largest of its demands (R459). -/
  | governorInterval (d : Demands) (r : Readings)
  /-- A 10 ms window over the limit at duty 15 is counted and vector 3 sent (R460). -/
  | governorWindowEnd (w : BitVec 16)
  /-- An over-temperature condition asserts THERM_N and is fatal error 0x1C (R461). -/
  | thermalTrip (stack : Bool) (die : Die) (i : Fin 32) (temp : BitVec 8)
  /-- A strap change in service is reported and the class is unchanged (R453). -/
  | strapChange (straps : Fin 4)
  /-- The baseboard asks for, and the module returns, a fresh nonce (R451). -/
  | classNonce
  /-- A signed class confirmation is verified and settles the class in force (R452). -/
  | classConfirm (m : ClassMsg)
  /-- With no confirmation by 220 ms the class settles at A (R452). -/
  | classSettleTimeout
  /-- A cluster domain is switched off, or the write is refused (R455). -/
  | clusterPowerOff (f : Func) (k : Cluster)
  /-- A cluster domain is switched on and its rails ramp (R455). -/
  | clusterPowerOn (f : Func) (k : Cluster)
  /-- After the ramp each core is reset and zero-filled before state 0 (R455). -/
  | domainRampComplete (k : Cluster)
  /-- Firmware switches a link complex domain off or on with its ports' state (R456). -/
  | linkComplexDomainSwitch (x : Complex)
  /-- The partner fails an epoch with INCOMPLETE when a page that the manifest lists is still missing ACKLIMIT after the manifest arrived (R409). -/
  | mirrorIncompleteTimeout (n : Fin 16)
  /-- A restore whose partner gives no answer within ACKLIMIT, or is lost, ends refused with REASON 0x6 (R411). -/
  | restoreAnswerTimeout (p : Part)
  /-- The partner sends the next page of the committed copy to the spare as KIND 0 and KIND 1 packets, and after the last page sends the manifest (R414). -/
  | fillPageSend (q : FillRead)
  /-- The spare's KIND 2 fill-complete answer reaches the partner, which marks the fill complete and starts the next queued fill (R413). -/
  | fillCompleteAnswer (port : Port)
  /-- The 4,160-cycle zero-fill of handed-over cores ends, so the cores become usable and the partition command reports done with vector 2 (R196). -/
  | zeroFillComplete
  /-- Bring-up reaches step 6: the readiness report is written, BOOTSTATE becomes ready, configuration requests are answered normally and vector 2 is sent (R421). -/
  | bringUpReady
  /-- The module reference returns and every root PLL locks, so bring-up leaves step 1 (R458). -/
  | referenceClockRestored (t : BootTest)
  /-- After a thermal trip, every junction falls below 90 °C and every stack below 85 °C, so bring-up leaves step 1 and THERM_N is released (R461). -/
  | junctionCooled (t : BootTest)
  /-- A stack fails in service with its array or controller lost, which is fatal error 0x18 and resets the module (R249). -/
  | stackLost (k : Stack)
  /-- A control processor or the security engine faults, which is fatal error 0x19 and resets the module (R396). -/
  | controlProcessorFault (d : Die)
  deriving DecidableEq, Repr

end Sys2Proof
end

