-- ==== Sys2Proof/Decode.lean ====
section
/-!
DEFINITION. The commands of a block have no encoding: no row of spec/opcode_table.json gives bits, so no word spells a command.
The instruction words a core's sequencer reads from its instruction memory (R146) are state of the block; what reads them is
Machine/Operands.lean.
-/
namespace Sys2Proof

/-- The command that a word spells by the table's bits: none, since the table gives no row any bits. -/
def decodeTableWord (_nbits _w : Nat) : Option Instr := none

end Sys2Proof
end

