-- ==== Sys2Proof/Machine/Store.lean ====
section
/-!
DEFINITION. Sparse maps in canonical form (reading, writing, keeping the form), bit fields, and little-endian bytes
(R6). Memories, register files and tables are all held in `SMap`s: keys strictly rising, no entry equal to the default
`d` that an unlisted key reads as.
-/
namespace Sys2Proof

/-- What key `k` reads as; `d` is what an unlisted key reads as. -/
def SMap.get {ν : Type} (d : ν) : SMap ν → Nat → ν
  | [], _ => d
  | (a, v) :: m, k => if k = a then v else SMap.get d m k

/-- Put a listed value into place, in rising order of keys. -/
def SMap.put {ν : Type} (k : Nat) (v : ν) : SMap ν → SMap ν
  | [] => [(k, v)]
  | (a, w) :: m => if k < a then (k, v) :: (a, w) :: m else if k = a then (k, v) :: m else (a, w) :: SMap.put k v m

/-- Take a key out, so that it reads as the default again. -/
def SMap.del {ν : Type} (k : Nat) : SMap ν → SMap ν
  | [] => []
  | (a, w) :: m => if k = a then SMap.del k m else (a, w) :: SMap.del k m

/-- Write `v` at `k`, keeping the canonical form: writing the default takes the entry out. -/
def SMap.set {ν : Type} [DecidableEq ν] (d : ν) (m : SMap ν) (k : Nat) (v : ν) : SMap ν :=
  if v = d then SMap.del k m else SMap.put k v m

/-- Take out every key for which `p` holds. -/
def SMap.wipe {ν : Type} (p : Nat → Bool) (m : SMap ν) : SMap ν := m.filter fun e => !p e.1

/-- Every listed key lies above `lo`, keys rise strictly, and no value is the default. -/
def SMap.wfFrom {ν : Type} [DecidableEq ν] (d : ν) : Nat → SMap ν → Bool
  | _, [] => true
  | lo, (a, v) :: m => decide (lo ≤ a) && decide (v ≠ d) && SMap.wfFrom d (a + 1) m

/-- The canonical form (guide, Memory). -/
def SMap.wf {ν : Type} [DecidableEq ν] (d : ν) (m : SMap ν) : Bool := SMap.wfFrom d 0 m

/-- Bits [lo + n − 1 : lo] of a natural number. -/
def bits (w lo n : Nat) : Nat := (w >>> lo) % 2 ^ n

/-- Bit `i` of a natural number. -/
def bit (w i : Nat) : Bool := w.testBit i

/-- The number with bit `i` set or cleared. -/
def putBit (w i : Nat) (b : Bool) : Nat :=
  if b then w ||| 2 ^ i else if w.testBit i then w ^^^ 2 ^ i else w

/-- `n` bytes of a number, lowest first (R6). -/
def leBytes (n v : Nat) : List Byte := (List.range n).map fun i => BitVec.ofNat 8 (v >>> (8 * i))

/-- The number that bytes spell, lowest first (R6). -/
def leNat : List Byte → Nat
  | [] => 0
  | b :: bs => b.toNat + 256 * leNat bs

/-- `n` bytes of a memory from address `a` up. -/
def readBytes (m : SMap Byte) (a n : Nat) : List Byte := (List.range n).map fun i => SMap.get 0 m (a + i)

/-- Write bytes at `a`, `a + 1`, and so on. -/
def writeBytes (m : SMap Byte) (a : Nat) : List Byte → SMap Byte
  | [] => m
  | b :: bs => writeBytes (SMap.set 0 m a b) (a + 1) bs

/-- Read a little-endian number of `n` bytes. -/
def readLE (m : SMap Byte) (a n : Nat) : Nat := leNat (readBytes m a n)

/-- Write a little-endian number of `n` bytes. -/
def writeLE (m : SMap Byte) (a n v : Nat) : SMap Byte := writeBytes m a (leBytes n v)

/-- The larger of a count plus an increment and the saturation bound of a `w`-bit field. -/
def satAdd (w a b : Nat) : Nat := min (a + b) (2 ^ w - 1)

/-- A signed number of `n` bits. -/
def signed (n v : Nat) : Int := if v % 2 ^ n < 2 ^ (n - 1) then (v % 2 ^ n : Nat) else ((v % 2 ^ n : Nat) : Int) - 2 ^ n

/-- The `n`-bit two's complement pattern of an integer. -/
def unsignedOf (n : Nat) (i : Int) : Nat := (i % (2 ^ n : Int)).toNat

/-- Division rounded up. -/
def ceilDiv (a b : Nat) : Nat := (a + b - 1) / b

/-- Replace element `i` of a list by `f` of it. -/
def updAt {α : Type} (l : List α) (i : Nat) (f : α → α) : List α :=
  match l, i with
  | [], _ => []
  | x :: xs, 0 => f x :: xs
  | x :: xs, k + 1 => x :: updAt xs k f

/-- Replace the element of a vector at an index by `f` of it. -/
def vupd {α : Type} {n : Nat} (v : Vector α n) (i : Fin n) (f : α → α) : Vector α n := v.set i.val (f v[i]) i.isLt

end Sys2Proof
end

