-- ==== Sys2Proof/Machine/Digest.lean ====
section
/-!
DEFINITION. SHA-512 (R221, R406, R439): the spec names the function and does not write it out; it is that of FIPS 180-4 (PRESUMED, log entry 25).
-/
namespace Sys2Proof.Machine

/-- The 80 constants of the rounds, sixteen at a time. -/
def shaKs : List (BitVec 64) :=
  [0x428a2f98d728ae22, 0x7137449123ef65cd, 0xb5c0fbcfec4d3b2f, 0xe9b5dba58189dbbc,
   0x3956c25bf348b538, 0x59f111f1b605d019, 0x923f82a4af194f9b, 0xab1c5ed5da6d8118,
   0xd807aa98a3030242, 0x12835b0145706fbe, 0x243185be4ee4b28c, 0x550c7dc3d5ffb4e2,
   0x72be5d74f27b896f, 0x80deb1fe3b1696b1, 0x9bdc06a725c71235, 0xc19bf174cf692694] ++
  [0xe49b69c19ef14ad2, 0xefbe4786384f25e3, 0x0fc19dc68b8cd5b5, 0x240ca1cc77ac9c65,
   0x2de92c6f592b0275, 0x4a7484aa6ea6e483, 0x5cb0a9dcbd41fbd4, 0x76f988da831153b5,
   0x983e5152ee66dfab, 0xa831c66d2db43210, 0xb00327c898fb213f, 0xbf597fc7beef0ee4,
   0xc6e00bf33da88fc2, 0xd5a79147930aa725, 0x06ca6351e003826f, 0x142929670a0e6e70] ++
  [0x27b70a8546d22ffc, 0x2e1b21385c26c926, 0x4d2c6dfc5ac42aed, 0x53380d139d95b3df,
   0x650a73548baf63de, 0x766a0abb3c77b2a8, 0x81c2c92e47edaee6, 0x92722c851482353b,
   0xa2bfe8a14cf10364, 0xa81a664bbc423001, 0xc24b8b70d0f89791, 0xc76c51a30654be30,
   0xd192e819d6ef5218, 0xd69906245565a910, 0xf40e35855771202a, 0x106aa07032bbd1b8] ++
  [0x19a4c116b8d2d0c8, 0x1e376c085141ab53, 0x2748774cdf8eeb99, 0x34b0bcb5e19b48a8,
   0x391c0cb3c5c95a63, 0x4ed8aa4ae3418acb, 0x5b9cca4f7763e373, 0x682e6ff3d6b2b8a3,
   0x748f82ee5defb2fc, 0x78a5636f43172f60, 0x84c87814a1f0ab72, 0x8cc702081a6439ec,
   0x90befffa23631e28, 0xa4506cebde82bde9, 0xbef9a3f7b2c67915, 0xc67178f2e372532b] ++
  [0xca273eceea26619c, 0xd186b8c721c0c207, 0xeada7dd6cde0eb1e, 0xf57d4f7fee6ed178,
   0x06f067aa72176fba, 0x0a637dc5a2c898a6, 0x113f9804bef90dae, 0x1b710b35131c471b,
   0x28db77f523047d84, 0x32caab7b40c72493, 0x3c9ebe0a15c9bebc, 0x431d67c49c100d4c,
   0x4cc5d4becb3e42b6, 0x597f299cfc657e2a, 0x5fcb6fab3ad6faec, 0x6c44198c4a475817]

/-- The initial hash value. -/
def shaInit : List (BitVec 64) :=
  [0x6a09e667f3bcc908, 0xbb67ae8584caa73b, 0x3c6ef372fe94f82b, 0xa54ff53a5f1d36f1,
   0x510e527fade682d1, 0x9b05688c2b3e6c1f, 0x1f83d9abfb41bd6b, 0x5be0cd19137e2179]

/-- A message schedule of 16 words, the newest first, with `n` more words before it. -/
def shaSchedule (l : List (BitVec 64)) : Nat → List (BitVec 64)
  | 0 => l
  | n + 1 =>
    let w (i : Nat) : BitVec 64 := l.getD i 0
    let s0 := (w 14).rotateRight 1 ^^^ (w 14).rotateRight 8 ^^^ (w 14) >>> 7
    let s1 := (w 1).rotateRight 19 ^^^ (w 1).rotateRight 61 ^^^ (w 1) >>> 6
    shaSchedule ((s1 + w 6 + s0 + w 15) :: l) n

/-- The eight working variables of a round. -/
structure ShaVars where
  a : BitVec 64
  b : BitVec 64
  c : BitVec 64
  d : BitVec 64
  e : BitVec 64
  f : BitVec 64
  g : BitVec 64
  h : BitVec 64
  deriving DecidableEq, Repr

/-- One round, with its constant and its word of the schedule. -/
def ShaVars.round (v : ShaVars) (k w : BitVec 64) : ShaVars :=
  let s1 := v.e.rotateRight 14 ^^^ v.e.rotateRight 18 ^^^ v.e.rotateRight 41
  let ch := (v.e &&& v.f) ^^^ (~~~v.e &&& v.g)
  let t1 := v.h + s1 + ch + k + w
  let s0 := v.a.rotateRight 28 ^^^ v.a.rotateRight 34 ^^^ v.a.rotateRight 39
  let maj := (v.a &&& v.b) ^^^ (v.a &&& v.c) ^^^ (v.b &&& v.c)
  ⟨t1 + (s0 + maj), v.a, v.b, v.c, v.d + t1, v.e, v.f, v.g⟩

/-- A hash value after one block of 16 words. -/
def shaBlock (hash block : List (BitVec 64)) : List (BitVec 64) :=
  let x (i : Nat) : BitVec 64 := hash.getD i 0
  let v := (shaKs.zip (shaSchedule block.reverse 64).reverse).foldl (fun (v : ShaVars) y => v.round y.1 y.2)
    ⟨x 0, x 1, x 2, x 3, x 4, x 5, x 6, x 7⟩
  [x 0 + v.a, x 1 + v.b, x 2 + v.c, x 3 + v.d, x 4 + v.e, x 5 + v.f, x 6 + v.g, x 7 + v.h]

/-- The padded message: a one bit, zeros, and the length in bits in 16 bytes, the most significant first. -/
def shaPad (bs : List Byte) : List Byte :=
  let n := bs.length
  bs ++ (0x80 : Byte) :: List.replicate ((239 - n % 128) % 128) 0 ++ (leBytes 16 (8 * n)).reverse

/-- The SHA-512 digest of some bytes, as the number that its 64 bytes spell, the first the least significant. -/
def sha512 (bs : List Byte) : Nat :=
  let m := shaPad bs
  let word (i : Nat) : BitVec 64 := BitVec.ofNat 64 (leNat ((m.drop (8 * i)).take 8).reverse)
  let hash := (List.range (m.length / 128)).foldl (fun h b => shaBlock h ((List.range 16).map fun i => word (16 * b + i))) shaInit
  leNat (hash.flatMap fun x => (leBytes 8 x.toNat).reverse)

/-- HMAC-SHA-512 of a message under a key (R440), that of RFC 2104 (PRESUMED, log entry 25). -/
def hmac512 (key msg : List Byte) : Nat :=
  let k := if key.length > 128 then leBytes 64 (sha512 key) else key
  let pad (x : Byte) : List Byte := (k ++ List.replicate (128 - k.length) 0).map (· ^^^ x)
  sha512 (pad 0x5C ++ leBytes 64 (sha512 (pad 0x36 ++ msg)))

end Sys2Proof.Machine
end

