-- ==== Sys2Proof/Config.lean ====
section
/-!
DEFINITION. What the spec leaves to stepping A0 or does not state: the values of functions whose bits "software takes from a
module" (R104, R168), of sums whose fixed adder tree it does not give (R110, R111, R168), of signatures
and codes whose keys or polynomials it does not give, and the free values of results it leaves undefined. Nothing here has a body: no
proof can use a value, so a statement holds for every one (log entries 4, 22, 23 and 25).
-/
namespace Sys2Proof

/-- The `n`-th free value drawn (log entry 4). -/
opaque Config.freeValue : Nat → Nat

/-- The shape of the fixed adder tree that adds `n` terms (R110, R111, R168; log entry 22): which two of the sums and terms that are left its
add number `k` takes, by their places. -/
opaque Config.adderTree : Nat → Nat → Nat × Nat

/-- The input channel of a stack's picot on which the requests of a unit arrive (R253; log entry 101). -/
opaque Config.inputChannel : Nat → Nat → Nat

/-- The scale byte of MX block `k` of row `i` of a drain, which the row does not have: from the row's scales and codes (R92, R112; log entry 84). -/
opaque Config.absentScale : Nat → Nat → List Nat → Nat

/-- Which value within the 2 units of R104 stage S5 returns for a finite input: function, derivative mode, the patterns of u and
v, and α (log entry 23). -/
opaque Config.activation : Nat → Bool → Nat → Nat → Nat → Nat

/-- Which value within the 2 units of R168 VEXP, VLN, VRCP and VRSQ return (opcode, precision, pattern; log entry 23). -/
opaque Config.vectorFn : Nat → Nat → Nat → Nat

/-- A firmware image as its 4 KiB chunks: its version, its SVN, and whether its chain and signature verify (R425, R426; log entry 25). -/
opaque Config.imageVersion : List (Nat × List Byte) → Nat
@[inherit_doc Config.imageVersion] opaque Config.imageSvn : List (Nat × List Byte) → Nat
@[inherit_doc Config.imageVersion] opaque Config.imageOk : List (Nat × List Byte) → Bool

/-- CRC-32 over bytes 0 to 245 of a bride flit, and the three Reed-Solomon parity symbols of 125 symbols, the first in the low byte (R289,
R290): the spec gives neither polynomial (log entry 25). -/
opaque Config.crc32 : List Byte → BitVec 32
@[inherit_doc Config.crc32] opaque Config.fecParity : List Byte → BitVec 24

/-- Whether a licence's signature verifies against Olficel's licence key (R442; log entry 25). -/
opaque Config.licenceOk : List Byte → Bool

/-- Whether a CLASS_CONFIRM's chain and signature verify: class, MOD_ID, serial, nonce, chain, signature (R451; log entry 25). -/
opaque Config.confirmOk : Nat → Nat → Nat → Nat → List Byte → List Byte → Bool

/-- Whether a chassis certificate permits a class (R451; log entry 25). -/
opaque Config.chassisPermits : List Byte → Nat → Bool

/-- The digest of the boot ROM (R439; log entry 25). -/
opaque Config.bootRom : Nat

/-- The alias certificate that the device identity key signs: identity serial, seed of the attestation key, the measurements it carries (R440;
log entry 25). -/
opaque Config.aliasCert : Nat → Nat → List (Nat × Nat) → List Byte

/-- The bits of the I3C provisional ID above its low 6 (R450; log entry 121). -/
opaque Config.provisionalHigh : Nat

end Sys2Proof
end

