-- ==== Sys2Proof/Machine/Formats.lean ====
section
/-!
DEFINITION. Number formats and conversion: R64 to R84 of spec/03_formats_and_accumulation.md. A value is an exact dyadic
number, an infinity or a NaN; arithmetic is exact, and `Fmt.convert` rounds once to a format.
-/
namespace Sys2Proof

/-- A value: NaN, a signed infinity, or (−1)^neg × m × 2^e; m = 0 keeps its sign (R67, R68). -/
inductive Num where
  | nan
  | inf (neg : Bool)
  | fin (neg : Bool) (m : Nat) (e : Int)
  deriving DecidableEq, Repr

/-- How a floating format treats its largest exponent (R67). -/
inductive Special where
  | ieee | e4m3 | none
  deriving DecidableEq, Repr

/-- The shape of a format: a floating layout or an integer range (R64). -/
inductive Shape where
  | flt (ebits fbits : Nat) (bias : Nat) (sp : Special)
  | int (bitsN : Nat) (sgn : Bool)
  | scale
  | reserved
  deriving DecidableEq, Repr

/-- The sixteen format codes of R64. -/
def Fmt.shape (code : Nat) : Shape :=
  match code with
  | 0x0 => .flt 11 52 1023 .ieee
  | 0x1 => .flt 8 23 127 .ieee
  | 0x2 => .flt 11 36 1023 .ieee
  | 0x3 => .flt 8 7 127 .ieee
  | 0x4 => .flt 5 10 15 .ieee
  | 0x5 => .flt 4 3 7 .e4m3
  | 0x6 => .flt 5 2 15 .ieee
  | 0x7 => .flt 3 2 3 .none
  | 0x8 => .flt 2 3 1 .none
  | 0x9 => .flt 2 1 1 .none
  | 0xA => .int 8 true
  | 0xB => .int 8 false
  | 0xC => .int 4 true
  | 0xD => .int 32 true
  | 0xE => .scale
  | _ => .reserved

/-- The width of an element in bits (R64). -/
def Fmt.width (code : Nat) : Nat :=
  match Fmt.shape code with
  | .flt e f _ _ => 1 + e + f
  | .int n _ => n
  | .scale => 8
  | .reserved => 0

/-- Whether a code names a floating format. -/
def Fmt.isFloat (code : Nat) : Bool :=
  match Fmt.shape code with
  | .flt .. => true
  | _ => false

/-- Whether a code names an integer format. -/
def Fmt.isInt (code : Nat) : Bool :=
  match Fmt.shape code with
  | .int .. => true
  | _ => false

/-- The value of an integer. -/
def Num.ofInt (i : Int) : Num := .fin (decide (i < 0)) i.natAbs 0

/-- The value a pattern stands for (R64, R67). -/
def Fmt.decode (code v : Nat) : Num :=
  match Fmt.shape code with
  | .flt eb fb bias sp =>
    let f := bits v 0 fb
    let e := bits v fb eb
    let s := bit v (fb + eb)
    if e = 2 ^ eb - 1 ∧ sp = .ieee then (if f = 0 then .inf s else .nan)
    else if e = 2 ^ eb - 1 ∧ sp = .e4m3 ∧ f = 2 ^ fb - 1 then .nan
    else if e = 0 then .fin s f (1 - (bias : Int) - fb)
    else .fin s (2 ^ fb + f) ((e : Int) - bias - fb)
  | .int n sgn => if sgn then Num.ofInt (signed n v) else .fin false (bits v 0 n) 0
  | .scale => if bits v 0 8 = 0xFF then .nan else .fin false 1 ((bits v 0 8 : Int) - 127)
  | .reserved => .nan

/-- The canonical NaN of a floating format, +0 where it has none (R67, R83). -/
def Fmt.nanBits (code : Nat) : Nat :=
  match Fmt.shape code with
  | .flt eb fb _ .ieee => (2 ^ eb - 1) <<< fb ||| 2 ^ (fb - 1)
  | .flt _ _ _ .e4m3 => 0x7F
  | _ => 0

/-- The largest finite magnitude of a floating format, as a significand and an exponent (R67). -/
def Fmt.maxFin (code : Nat) : Nat × Int :=
  match Fmt.shape code with
  | .flt eb fb bias .ieee => (2 ^ (fb + 1) - 1, (2 ^ eb - 2 : Int) - bias - fb)
  | .flt eb fb bias .e4m3 => (2 ^ (fb + 1) - 2, (2 ^ eb - 1 : Int) - bias - fb)
  | .flt eb fb bias .none => (2 ^ (fb + 1) - 1, (2 ^ eb - 1 : Int) - bias - fb)
  | .int n sgn => (if sgn then 2 ^ (n - 1) - 1 else 2 ^ n - 1, 0)
  | _ => (0, 0)

/-- m × 2^k for k of either sign, exact where k ≥ 0 or the low bits are zero. -/
def shl (m : Nat) (k : Int) : Nat := if 0 ≤ k then m <<< k.toNat else m >>> (-k).toNat

/-- Compare m1 × 2^e1 with m2 × 2^e2: whether the first is smaller. -/
def ltMag (m1 : Nat) (e1 : Int) (m2 : Nat) (e2 : Int) : Bool :=
  if e1 ≤ e2 then decide (m1 < m2 <<< (e2 - e1).toNat) else decide (m1 <<< (e1 - e2).toNat < m2)

/-- Signed exact sum of two finite values at the smaller exponent. -/
def addFin (s1 : Bool) (m1 : Nat) (e1 : Int) (s2 : Bool) (m2 : Nat) (e2 : Int) : Num :=
  let e := min e1 e2
  let i1 : Int := (m1 <<< (e1 - e).toNat : Nat)
  let i2 : Int := (m2 <<< (e2 - e).toNat : Nat)
  let i := (if s1 then -i1 else i1) + (if s2 then -i2 else i2)
  if i = 0 then .fin (s1 && s2 && decide (m1 = 0) && decide (m2 = 0)) 0 e
  else .fin (decide (i < 0)) i.natAbs e

/-- Exact addition with the IEEE 754 rules for infinities and NaNs; an exact zero sum is +0 except (−0) + (−0) (R68). -/
def Num.add : Num → Num → Num
  | .nan, _ => .nan
  | _, .nan => .nan
  | .inf a, .inf b => if a = b then .inf a else .nan
  | .inf a, .fin .. => .inf a
  | .fin .., .inf b => .inf b
  | .fin s1 m1 e1, .fin s2 m2 e2 => addFin s1 m1 e1 s2 m2 e2

/-- Negation. -/
def Num.neg : Num → Num
  | .nan => .nan
  | .inf a => .inf (!a)
  | .fin s m e => .fin (!s) m e

/-- Magnitude. -/
def Num.abs : Num → Num
  | .nan => .nan
  | .inf _ => .inf false
  | .fin _ m e => .fin false m e

/-- Exact difference. -/
def Num.sub (a b : Num) : Num := a.add b.neg

/-- Exact product with the IEEE 754 rules; infinity times zero is NaN. -/
def Num.mul : Num → Num → Num
  | .nan, _ => .nan
  | _, .nan => .nan
  | .inf a, .inf b => .inf (a != b)
  | .inf a, .fin s m _ => if m = 0 then .nan else .inf (a != s)
  | .fin s m _, .inf b => if m = 0 then .nan else .inf (s != b)
  | .fin s1 m1 e1, .fin s2 m2 e2 => .fin (s1 != s2) (m1 * m2) (e1 + e2)

/-- Multiplication by 2^k. -/
def Num.scale2 (k : Int) : Num → Num
  | .fin s m e => .fin s m (e + k)
  | x => x

/-- Whether a value is a NaN. -/
def Num.isNan : Num → Bool
  | .nan => true
  | _ => false

/-- Whether a value is finite. -/
def Num.isFin : Num → Bool
  | .fin .. => true
  | _ => false

/-- Whether a value is a zero of either sign. -/
def Num.isZero : Num → Bool
  | .fin _ m _ => decide (m = 0)
  | _ => false

/-- `a < b`; false when either is a NaN. −0 and +0 are equal. -/
def Num.lt : Num → Num → Bool
  | .nan, _ => false
  | _, .nan => false
  | .inf a, .inf b => a && !b
  | .inf a, .fin .. => a
  | .fin .., .inf b => !b
  | .fin s1 m1 e1, .fin s2 m2 e2 =>
    if m1 = 0 ∧ m2 = 0 then false
    else match s1 && decide (m1 ≠ 0), s2 && decide (m2 ≠ 0) with
      | false, false => ltMag m1 e1 m2 e2
      | true, false => true
      | false, true => false
      | true, true => ltMag m2 e2 m1 e1

/-- Equal as numbers; false when either is a NaN. -/
def Num.eqv (a b : Num) : Bool := !a.isNan && !b.isNan && !a.lt b && !b.lt a

/-- The position of a number's highest set bit, plus one. -/
def bitLen (m : Nat) : Nat := if m = 0 then 0 else m.log2 + 1

/-- A magnitude in units of a target: m × 2^e divided by 2^q, rounded under a mode (0 nearest even, 1 toward zero,
2 stochastic with the 16 random bits `u`): R80, R82. -/
def roundUnits (rnd u m : Nat) (e q : Int) : Nat :=
  if q ≤ e then m <<< (e - q).toNat
  else
    let k := (q - e).toNat
    let lo := m >>> k
    let rem := m % 2 ^ k
    match rnd with
    | 0 => if 2 * rem > 2 ^ k ∨ (2 * rem = 2 ^ k ∧ lo % 2 = 1) then lo + 1 else lo
    | 2 => if rem * 65536 / 2 ^ k + u ≥ 65536 then lo + 1 else lo
    | _ => lo

/-- A pattern from sign, significand in units of 2^q, and q (q at or above the format's smallest unit). -/
def encodeFlt (eb fb bias : Nat) (s : Bool) (m : Nat) (q : Int) : Nat :=
  let (m, q) := if m = 2 ^ (fb + 1) then (2 ^ fb, q + 1) else (m, q)
  let body := if m < 2 ^ fb then m else ((q + fb + bias).toNat) <<< fb ||| (m - 2 ^ fb)
  (if s then 2 ^ (eb + fb) else 0) ||| body

/-- The value of a finite number rounded to a floating format's precision, unbounded above: significand and unit. -/
def roundFlt (fb bias rnd u m : Nat) (e : Int) : Nat × Int :=
  let q := max ((bitLen m : Int) - 1 + e - fb) (1 - (bias : Int) - fb)
  (roundUnits rnd u m e q, q)

/-- Clamp a magnitude and sign to an integer range of `n` bits. -/
def clampInt (n : Nat) (sgn s : Bool) (m : Nat) : Nat :=
  if sgn then
    if s then unsignedOf n (-(min m (2 ^ (n - 1)) : Nat)) else min m (2 ^ (n - 1) - 1)
  else if s then 0 else min m (2 ^ n - 1)

/-- Convert a value to a format with rounding mode, saturation control and 16 random bits: R80 to R83. The flag says
whether the value overflowed the target. -/
def Fmt.convert (code rnd sat u : Nat) (x : Num) : Nat × Bool :=
  match Fmt.shape code with
  | .flt eb fb bias sp =>
    let sgnBit (s : Bool) : Nat := if s then 2 ^ (eb + fb) else 0
    let mx := Fmt.maxFin code
    let maxBits (s : Bool) : Nat := encodeFlt eb fb bias s mx.1 mx.2
    let infBits (s : Bool) : Nat := sgnBit s ||| (2 ^ eb - 1) <<< fb
    match x with
    | .nan => (Fmt.nanBits code, false)
    | .inf s =>
      match sp with
      | .ieee => (if sat = 1 then maxBits s else infBits s, false)
      | .e4m3 => (if sat = 2 then Fmt.nanBits code else maxBits s, false)
      | .none => (maxBits s, false)
    | .fin s m e =>
      if m = 0 then (sgnBit s, false)
      else
        let r := roundFlt fb bias rnd u m e
        if ltMag mx.1 mx.2 r.1 r.2 then
          (if rnd = 1 then maxBits s
           else match sp with
            | .ieee => if sat = 1 then maxBits s else infBits s
            | .e4m3 => if sat = 2 then Fmt.nanBits code else maxBits s
            | .none => maxBits s, true)
        else (encodeFlt eb fb bias s r.1 r.2, false)
  | .int n sgn =>
    match x with
    | .nan => (0, false)
    | .inf s => (clampInt n sgn s (2 ^ n), false)
    | .fin s m e =>
      let i := roundUnits rnd u m e 0
      (clampInt n sgn s i, decide (if s then (if sgn then i > 2 ^ (n - 1) else i > 0)
        else i > (if sgn then 2 ^ (n - 1) - 1 else 2 ^ n - 1)))
  | _ => (0, false)

/-- The pattern of a value in a format, rounded to nearest even with the format's default on overflow. -/
def Fmt.rne (code : Nat) (x : Num) : Nat := (Fmt.convert code 0 0 0 x).1

/-- A value rounded to a floating format's precision and range, nearest even (one rounding of an operation). -/
def Num.roundTo (code : Nat) (x : Num) : Num := Fmt.decode code (Fmt.rne code x)

/-- Round once to AF48 (R76, R79, R104). -/
def Num.af48 (x : Num) : Num := Num.roundTo 0x2 x

/-- A conversion's scale: the value times 2^−(s − 127); a scale of 0xFF makes the value NaN (R69, R81). -/
def Num.unscale (s : Nat) (x : Num) : Num := if s = 0xFF then .nan else x.scale2 (127 - (s : Int))

/-- The value of an element under an E8M0 scale: element × 2^(s − 127) (R64, R69, R85). -/
def Num.withScale (s : Nat) (x : Num) : Num := if s = 0xFF then .nan else x.scale2 ((s : Int) - 127)

/-- The saturating 48-bit sum of R78. -/
def sat48 (i : Int) : Int := max (-(2 ^ 47 : Int)) (min i (2 ^ 47 - 1))

/-- The exact quotient of two values to 128 bits below the larger magnitude, with the last bit sticky, so that one rounding
to any format of the table is exact (IEEE 754 division). -/
def Num.div : Num → Num → Num
  | .nan, _ => .nan
  | _, .nan => .nan
  | .inf _, .inf _ => .nan
  | .inf a, .fin s _ _ => .inf (a != s)
  | .fin s _ _, .inf b => .fin (s != b) 0 0
  | .fin s1 m1 e1, .fin s2 m2 e2 =>
    if m2 = 0 then (if m1 = 0 then .nan else .inf (s1 != s2))
    else if m1 = 0 then .fin (s1 != s2) 0 0
    else
      let k := 128 + bitLen m2
      let q := (m1 <<< k) / m2
      let r := (m1 <<< k) % m2
      .fin (s1 != s2) (2 * q + (if r = 0 then 0 else 1)) (e1 - e2 - k - 1)

/-- Integer square root, bit by bit from bit `b` down. -/
def isqrtFrom (n : Nat) : Nat → Nat → Nat
  | 0, r => if (r + 1) * (r + 1) ≤ n then r + 1 else r
  | b + 1, r => isqrtFrom n b (if (r + 2 ^ (b + 1)) * (r + 2 ^ (b + 1)) ≤ n then r + 2 ^ (b + 1) else r)

/-- The integer square root. -/
def isqrt (n : Nat) : Nat := isqrtFrom n (bitLen n / 2 + 1) 0

/-- The square root to 128 bits or more, with the last bit sticky (IEEE 754 square root). -/
def Num.sqrt : Num → Num
  | .nan => .nan
  | .inf s => if s then .nan else .inf false
  | .fin s m e =>
    if m = 0 then .fin s 0 0
    else if s then .nan
    else
      let odd : Bool := decide (e % 2 ≠ 0)
      let m' := (if odd then 2 * m else m) <<< 256
      let e' := (if odd then e - 1 else e) - 256
      let r := isqrt m'
      .fin false (2 * r + (if r * r = m' then 0 else 1)) (e' / 2 - 1)

/-- The larger of two values; a NaN loses (R167). Equal values keep the first. -/
def Num.max (a b : Num) : Num := if a.isNan then b else if b.isNan then a else if a.lt b then b else a

/-- The smaller of two values; a NaN loses (R167). Equal values keep the first. -/
def Num.min (a b : Num) : Num := if a.isNan then b else if b.isNan then a else if b.lt a then b else a

/-- floor(log2 of a non-zero magnitude). -/
def floorLog2 (m : Nat) (e : Int) : Int := (bitLen m : Int) - 1 + e

/-- ceil(log2 of a non-zero magnitude). -/
def ceilLog2 (m : Nat) (e : Int) : Int := if m = 2 ^ (bitLen m - 1) then floorLog2 m e else floorLog2 m e + 1

/-- A magnitude rounded toward +∞ to BF16, as its pattern: the amax of R86. -/
def bf16Up (x : Num) : Nat :=
  match x with
  | .fin _ m e =>
    if m = 0 then 0
    else
      let t := roundFlt 7 127 1 0 m e
      let m' := if ltMag t.1 t.2 m e then t.1 + 1 else t.1
      if ltMag (Fmt.maxFin 3).1 (Fmt.maxFin 3).2 m' t.2 then 0x7F80
      else encodeFlt 8 7 127 false m' t.2
  | _ => 0

end Sys2Proof
end

