-- ==== Sys2Proof/Machine/State.lean ====
section
/-!
DEFINITION. The state of the module as plain data, and the state right after a module reset (`State.reset`). Registers
of the spec's tables live in one sparse map keyed by the bit address of each field (`State.regs`, Machine/Registers.lean);
everything else the spec gives the machine has a field of its own. The form is the one INVENTORY.md lists.
-/
namespace Sys2Proof.Machine

/-- What the machine stops with. No command of the table ends in a fault: every condition the spec names is a next
state (log entry 1). -/
inductive Fault where
  /-- Raised by no meaning; the host's interface asks for the type. Safe. -/
  | none
  deriving DecidableEq, Repr

/-- Why a command has no meaning. -/
inductive Refusal where
  /-- Raised by an arm of `exec` whose command has no meaning yet; the mnemonic is the table's. Safe. -/
  | notModelled (mnemonic : String)
  deriving DecidableEq, Repr

/-- What the module sends to the outside, in order: an MSI-X vector of a function (R355), bytes written to host memory
(R349, R352; `full` where WOWrInvF carries a whole line, else WOWrInv), a credit grant (R189), a back-invalidate snoop (R346), a payload flit of a bride port (R289), a
link-management flit with its NAK run and credit returns (R292), a read of host memory (R349), the answer to a CXL.mem request (R345,
R348), to a host snoop (R349), to an SPDM request over DOE or I3C (R441), and to a class message (R451). -/
inductive Out where
  | msix (func vec : Nat)
  | hostWrite (addr : Nat) (bytes : List Byte) (full : Bool)
  | creditGrant (modId core flag inc : Nat)
  | biSnoop (line : Nat) (inv : Bool)
  | flit (port : Nat) (bytes : List Byte)
  | hostRead (addr len : Nat) (shared : Bool)
  | memData (tag : Nat) (bytes : List Byte) (poison ok : Bool)
  | snoopAnswer (line : Nat) (hit : Bool)
  | cleanEvict (line : Nat)
  | spdm (doe : Bool) (answer : SpdmAns) (data : SpdmData)
  | cxlFailed
  | sideband (ok : Bool) (data : Nat)
  deriving DecidableEq, Repr

/-! ### The core -/

/-- An entry of a queue (R128, R130, R158): a copy of an instruction taken at dispatch with its instruction address, or
a cut marker with its EPOCH and the address of its CUT. -/
inductive QItem where
  | instr (word : IWord) (ia : Nat)
  | marker (epoch : Nat) (ia : Nat)
  deriving DecidableEq, Repr

/-- A WAIT or WAITC that waits at its head (R135, R138, R156): its unit (0 sequencer, 1-8 the queues in the order of
R135), whether it waits on an arrival counter, the number of the flag or counter, how much it asks for, the cycle in
which it reached its head, its timeout in core cycles, and its instruction address. -/
structure Waiter where
  unit  : Nat
  ctr   : Bool
  num   : Nat
  need  : Nat
  since : Nat
  limit : Nat
  ia    : Nat
  deriving DecidableEq, Repr

/-- An operand in the scratchpad: base, pitch, element width, whether it is read transposed, its vectors and their elements
(R162, R163, R181). -/
structure Opnd where
  base : Nat
  pitch : Nat
  w : Nat
  tr : Bool
  vecs : Nat
  elems : Nat
  deriving DecidableEq, Repr

/-- What a pass took from its scalar registers and the weight registers when it was issued: its operands, XS, and for a WS pass the weight
columns and entries it uses (R131, R161, R162). -/
structure PassOps where
  a     : Opnd
  b     : Opnd
  xs    : Nat
  wN    : Nat
  wData : List Nat
  deriving DecidableEq, Repr

/-- A pass that has been issued and whose fold is not complete (R29 to R39): its word and address, first and last
stream cycle, stream length, fold length, tile half, what it computes (row-major AF48 words, integers or value-and-index
pairs of the active rows and columns) and from what, the scratchpad ranges it read, the first marked offset it consumed (R384), what
replay needs (R51, R52), the ramp window of its stream (0 where it does not ramp, R43), and the rows of its fold written so far
(R34). -/
structure Issued where
  word     : IWord
  ia       : Nat
  first    : Nat
  last     : Nat
  foldLen  : Nat
  tile     : Nat
  half     : Nat
  res      : List AccWord
  ops      : PassOps
  ranges   : List (Nat × Nat)
  steps    : Nat
  poisonAt : Option Nat
  injected : Bool
  replayed : Bool
  unguard  : Bool
  ramp     : Nat := 0
  rows     : Nat := 0
  deriving DecidableEq, Repr

/-- A LOADW that has reached its engine and whose front has not started, with the operand it kept from its dispatch (R131) and the
cycle R40 lets the front start in when no earlier front holds it (R40, R41). -/
structure PendingLoad where
  word     : IWord
  opnd     : Opnd
  ia       : Nat
  arrived  : Nat
  earliest : Nat
  deriving DecidableEq, Repr

/-- A replay under way (R51): the error it repairs (cause, row, column, address of the faulted pass), and how many of the passes that stream
again for it have not folded. -/
structure Redo where
  cause : Nat
  row   : Nat
  col   : Nat
  ia    : Nat
  left  : Nat
  deriving DecidableEq, Repr

/-- A self-test of an engine that is put off (R51, R398): location, cause and SEQNO of the error it is for (R394). -/
structure DeferredTest where
  loc   : Nat
  cause : Nat
  seqno : Nat
  deriving DecidableEq, Repr

/-- One engine (R27 to R63) beside its registers: the weight registers (format, KW, N, codes entry by entry, R28), the
LOADWs waiting, the start of the last front and the operand it loads (R41), the last stream cycle and fold length (R36), the passes issued
(R34), the ranges of the last LOADW and whether one was written (R52), the cycle after the last fold row (R474), a running
in-service test pass, the self-test that is put off (R51, R398), whether a known-answer pass was abandoned whose outcome is still to come (R398), the cycle of a pre-emption request whose boundary has not come (R48), the
replays under way (R51), for each half the cycle after its last drained row (R101) and the one
after its last folded row (R39), the cycle before which nothing starts (that of the last RESUME, R49), the lines of weights that a write
reached while a LOADW waited, and those one reached while the last front moved, with their bytes before it (R41), a pre-emption
request that waits for a self-test to end (R25), and the cycles from which a staging buffer of the a-operand, the b-operand and the weights is
free (R182). -/
structure EngRec where
  wFmt      : Nat
  wKW       : Nat
  wN        : Nat
  wData     : List Nat
  loads     : List PendingLoad
  front     : Option Nat
  wOpnd     : Option Opnd
  lastE     : Option Nat
  lastF     : Nat
  issued    : List Issued
  wRange    : List (Nat × Nat)
  wUnguard  : Bool
  foldEnd   : Nat
  testSince : Option Nat
  deferTest : Option DeferredTest
  leftTest  : Bool
  preemptAt : Option Nat
  repairing : List Redo
  halfRead  : SMap Nat
  halfFold  : SMap Nat
  floor     : Nat
  raced     : SMap (List Byte)
  racedF    : SMap (List Byte)
  askedStop : Bool
  bufA      : Nat
  bufB      : Nat
  bufW      : Nat
  deriving DecidableEq, Repr

/-- A drain request bound to a physical half (R99): the instruction, its address, tile and half. -/
structure DrainReq where
  word  : IWord
  ia    : Nat
  tile  : Nat
  half  : Nat
  deriving DecidableEq, Repr

/-- The result one reduction unit keeps for one row (R109, R110): the sum in AF48, or the value and index entries. -/
structure RedRow where
  sum    : AccWord
  ents   : List (AccWord × Nat)
  poison : Bool
  deriving DecidableEq, Repr

/-- The request a drain unit is executing (R100 to R118): the settings read when it began (profile words, scalar
operands, the step and layer of `SEQ_RNGPOS`, R282), the cycle from which it may read its next row, that row, the scale in use (none
while the record read of R86 is out), the record's norm tag, what its norm and record updates have gathered (the sum in AF48, the
largest magnitudes as the FP32 and BF16 patterns they are sent as, and counts), whether the next row is
to be marked uncorrectable (`DRN_CTRL`.INJECT), whether it met poison, and from its last row on the cycle of its last output. -/
structure DrainRun where
  req     : DrainReq
  prof    : List Nat
  xd      : Nat
  xa0     : Nat
  xa1     : Nat
  xv      : Nat
  xr      : Nat
  step    : Nat
  layer   : Nat
  nextAt  : Nat
  row     : Nat
  scale   : Option Nat
  recTag  : Nat
  sumSq   : AccWord
  finite  : Nat
  nonfin  : Nat
  amax    : Nat
  recAmax : Nat
  recOvf  : Nat
  recNan  : Bool
  inject  : Bool
  poison  : Bool
  outAt   : Nat
  deriving DecidableEq, Repr

/-- A reduction result on its way to the scratchpad (R103, R109): the cycle it is written in, its offset, its bytes and its mark. -/
structure Emission where
  due    : Nat
  off    : Nat
  bytes  : List Byte
  poison : Bool
  deriving DecidableEq, Repr

/-- A row on its way through S7 to the scratchpad or a picot (R103, R114): the cycle it leaves in, its request and number, the codes S6 wrote,
its block scales and its mark. -/
structure RowOut where
  due    : Nat
  run    : DrainRun
  row    : Nat
  codes  : List Nat
  scales : List Nat
  poison : Bool
  deriving DecidableEq, Repr

/-- One drain unit (R99 to R118): its queue of bound requests, the running request, those that have read their last row
and not yet sent their updates, the results of RED0 and RED1, the results and the rows on their way out, the last cycle in which an entry of
the queue was freed and how many were in it (R99), the cycle of the last row read, the cycle at which everything written by earlier requests is out (FENCE, R100), and whether the row that its
stream sends next has been counted in `DRN_NR` (R106). -/
structure DrainRec where
  queue    : List DrainReq
  run      : Option DrainRun
  ended    : List DrainRun
  red0     : List RedRow
  red1     : List RedRow
  emits    : List Emission
  outs     : List RowOut
  freedAt  : Nat
  freed    : Nat
  lastRead : Nat
  allOut   : Nat
  marked   : Bool
  deriving DecidableEq, Repr

/-- What a request asks of a picot (R253 to R266): a read or write within a line or lines, atomics of consecutive elements,
one of an element whose bytes past a 4 KiB granule lie from the local address `rest` on, one part of a region operation of a memory-side descriptor (`len` bytes of DST from `off` on) with the source bytes its bobbin read, a scale-record update, commit or read, a norm update or fetch. -/
inductive MemOp where
  | read (len : Nat)
  | write (bytes : List Byte) (poison : Bool)
  | atomic (op fmt : Nat) (vals : List Nat) (poison : Bool)
  | atomicOver (op fmt v : Nat) (poison : Bool) (rest : Nat)
  | part (desc : List Nat) (off len : Nat) (src : Option (List Byte)) (poison : Bool)
  | recRead
  | recUpdate (amax ovf : Nat) (nan : Bool)
  | recCommit (step : Nat)
  | norm (tag sumSq finite nonfin amax : Nat)
  | normFetch (tag : Nat) (clear : Bool)
  deriving DecidableEq, Repr

/-- Where a request's bytes come from or go to, after translation (R223, R226): nowhere, its own scratchpad, HBM, a
control slot, another core's scratchpad, an accumulator or instruction memory, host memory, a window, another module, a norm
entry that is fetched, an operation a picot is to apply, or one that another module's picot is. -/
inductive Place where
  | nothing
  | spad (off : Nat)
  | hbm (addr : Nat)
  | slot (core off : Nat)
  | remSpad (core off : Nat)
  | accAp (core off : Nat)
  | imem (core off : Nat)
  | host (addr : Nat) (unc : Bool)
  | window (modId core win gen off : Nat)
  | remote (modId addr : Nat)
  | norm (tag : Nat) (clear : Bool)
  | picot (op : MemOp) (addr : Nat)
  | remoteOp (modId op fmt addr : Nat)
  deriving DecidableEq, Repr

/-- A request a bobbin has issued and that is not complete (R223 to R225): its transfer, its number in visiting order, tag,
source and destination, the two addresses or offsets as the program names them, length, coordinates, stream, data once read, whether its write is on its way, its status once `done`
(R192, R234; 0x80 a miss or owner refusal, 0x82 marked data consumed), the microsecond it was issued in, and where its source crosses a
multiple of 4 KiB the places after the first with their lengths, and the bytes read so far (log entry 31). -/
structure BobReq where
  xfer   : Nat
  num    : Nat
  tag    : Nat
  src    : Place
  dst    : Place
  addrs  : Nat × Nat
  len    : Nat
  coord  : List Nat
  stream : Nat
  data   : Option (List Byte)
  poison : Bool
  sent   : Bool
  status : Nat
  done   : Bool
  since  : Nat
  more   : List (Place × Nat)
  got    : List Byte
  deriving DecidableEq, Repr

/-- What a context carries: a transfer (its descriptor's sixteen words), a BCOPY, or an M-family operation. -/
inductive XferKind where
  | desc | copy | mop | scommit | matom
  deriving DecidableEq, Repr

/-- One transfer context of a bobbin (R223): its number among the four, the instruction's word and address, its kind and
descriptor words, the completion pair, the cycle it entered, the walk's next coordinates and request number, whether its last request has
been issued, the ring, slot and slot base, the dispatch counts and the windows that refused, and the result so far: status and
number of the first refused request, its destination, marks, bytes, rows dropped (R228 to R237). -/
structure Xfer where
  id       : Nat
  ctxNo    : Nat
  word     : IWord
  ia       : Nat
  kind     : XferKind
  desc     : List Nat
  flag     : Nat
  inc      : Nat
  entered  : Nat
  next     : List Nat
  num      : Nat
  allSent  : Bool
  ring     : Option (Nat × Nat × Nat)
  counts   : SMap Nat
  refusedW : List Nat
  status   : Nat
  refAt    : Nat
  refDest  : Nat
  poisoned : Bool
  bytes    : Nat
  dropped  : Nat
  deriving DecidableEq, Repr

/-- One bobbin (R223 to R239) beside its registers: its contexts in queue order, the requests outstanding, each regulator's
bucket (1/256 bytes, and the cycle they were counted in), a fault whose record awaits its last tag (transfer and bytes), the next
transfer's number, the ring its queue's head waits for, the cycle of its last issue, what holds its next request (0
nothing, 1 the regulator, 2 a tag or an allotment), the tags given up whose responses may still arrive (R306, R370), and the transfers the last abort discarded, the head its queue lost and the cycle of it
(R237). -/
structure BobRec where
  ctxs     : List Xfer
  reqs     : List BobReq
  buckets  : List (Nat × Nat)
  fault    : Option (Nat × Nat)
  nextId   : Nat
  ringWait : Option Nat
  issuedAt : Option Nat
  hold     : Nat
  stale    : List Nat
  gone     : List Xfer
  goneHead : Option (IWord × Nat)
  goneAt   : Nat
  deriving DecidableEq, Repr

/-- A credit request that waits in a core's credit queue (R189): window, bytes, where it came from (module and logical
core), and the flag and increment of its grant. -/
structure CreditReq where
  win   : Nat
  bytes : Nat
  srcM  : Nat
  srcC  : Nat
  flag  : Nat
  inc   : Nat
  deriving DecidableEq, Repr

/-- A network instruction in progress (R173, R192, R475): an NPUT or NSEND that its port is forming into requests or
lines: the word, source offset, bytes left, target, what has been accepted, and the first refusal. -/
structure NetOp where
  id      : Nat
  word    : IWord
  ia      : Nat
  isPut   : Bool
  src     : Nat
  total   : Nat
  formed  : Nat
  done    : Nat
  okBytes : Nat
  verdict : Nat
  genSeen : Nat
  target  : Nat
  win     : Nat
  gen     : Nat
  woff    : Nat
  flag    : Nat
  inc     : Nat
  recOff  : Option Nat
  stream  : Nat
  deriving DecidableEq, Repr

/-- Everything a core holds that is not a register of a table: instruction memory, scratchpad and its poison marks, the 8-byte words of
the scratchpad and the word pairs of the accumulators (engine × 2^18 + tile-row address × 64 + pair) that hold an error their code has
not met yet (true where two bits are wrong; R96, R177),
condition state, queues and the cycle each head became the head, waits in their order, when the sequencer may go on, the
cycle of the last GO, the address of the last CUT, the engines, accumulators, drains and bobbins, each window's credit
table, the credit queue, the lines that wait in the landing buffer (window or 16, bank), the sequences refused (R187),
network instructions, when a reset or zero-fill of the core ends, each sink stream's next offset (window × 4096 + stream,
R207), the ring slots whose transfers completed before an earlier slot's (R240), whether a zero-fill follows the running core
reset (R367, R455), whether the running reset has reset the registers (cycle 1,463, R370), and the cycle in which its last reset ended
(`OPE_CYCLES`, R62). -/
structure CoreRec where
  imem     : SMap IWord
  spad     : SMap Byte
  spadPois : SMap Bool
  spadBad  : List (Nat × Bool)
  accBad   : List (Nat × Bool)
  condZ    : Bool
  condS    : Bool
  condU    : Bool
  queues   : Vector (List QItem) 8
  headAt   : Vector Nat 8
  waiters  : List Waiter
  readyAt  : Nat
  goCycle  : Nat
  lastCut  : Nat
  engines  : Vector EngRec 4
  acc      : Vector (SMap AccWord) 4
  drains   : Vector DrainRec 4
  bobs     : Vector BobRec 2
  credits  : Vector (List (Nat × Nat × Nat)) 16
  creditQ  : List CreditReq
  landing  : List (Nat × Nat)
  refused  : List (Nat × Nat × Nat)
  netOps   : List NetOp
  netNext  : Nat
  resetEnd : Option Nat
  fillEnd  : Option Nat
  pastEnd  : Bool
  sinkOff  : SMap Nat
  ringDone : List (Nat × Nat)
  cutSince : Vector (Option Nat) 8
  wantFill : Bool
  regsDone : Bool
  bornAt   : Nat
  deriving DecidableEq, Repr

/-! ### Memory -/

/-- One translation of a partition's page tables (R23, R226, R349): a range of device virtual addresses, and the device
physical address, or the host physical address, it maps to, and whether it is marked uncached (R349). -/
structure PageEnt where
  va   : Nat
  len  : Nat
  pa   : Nat
  unc  : Bool := false
  deriving DecidableEq, Repr

/-- Who sent a request to a picot, and so where its response goes (R253, R306, R345); `work` is a picot that writes
the working copy of a part of a bobbin's optimiser step (R261), `hostNorm` a host read of `MSE_NORMDATA` (R265). -/
inductive MemSrc where
  | bobbin (core bob tag : Nat)
  | drain (core eng : Nat)
  | work (core bob tag : Nat)
  | host (tag line : Nat) (grant : Bool)
  | link (modId sunit tag job : Nat) (read : Bool)
  | hostNorm
  | firmware
  deriving DecidableEq, Repr

/-- A request on its way to a picot, in the order of its stack's arrivals (R253): its sender, the partition it acts for
(0x10 none), what it asks, and the HBM address. -/
structure MemReq where
  src  : MemSrc
  part : Nat
  op   : MemOp
  addr : Nat
  deriving DecidableEq, Repr

/-- What stands at the input channels of a picot (R253, R254): the picot cycle of the last arrival, the channels on which the requests at the end of
its list arrived in that cycle, the requests that wait because their channel is stopped, oldest first, and the bobbins' requests in the order in
which they arrived, for their responses (R212). -/
structure Arrival where
  cycle   : Nat
  chans   : List Nat
  waiting : List MemReq
  order   : List MemSrc
  deriving DecidableEq, Repr

/-- What a picot has answered and the controller has not yet returned (R212): the receiver, the data, whether it carries
poison, and a status (0 done, 1 refused by the owner check, 2 consumed poison, 3 a record error). -/
structure MemResp where
  dst    : MemSrc
  data   : List Byte
  poison : Bool
  status : Nat
  deriving DecidableEq, Repr

/-- A norm-table entry (R263): SUMSQ, COUNT, AMAX, NONFINITE, UPDATES. -/
structure NormEnt where
  sumSq   : AccWord
  count   : Nat
  amax    : Nat
  nonfin  : Nat
  updates : Nat
  deriving DecidableEq, Repr

/-- A stack beside its registers (R245, R250, R251): corrected counts of stack pages in this sweep, pages remapped to
spares, old pages returned to the spares after a test they passed (R388), the page being retired and its next line, and the next line the patrol reads. -/
structure StackRec where
  corr   : SMap Nat
  remap  : SMap Nat
  freed  : Nat
  retire : Option (Nat × Nat)
  patrol : Nat
  deriving DecidableEq, Repr

/-- A running owner change (R262): its range, new owner and MIRROR, the next page, the entries the pages had before, and how many of the
requests that had arrived at each picot at GO have not applied yet. -/
structure OwnCmd where
  first  : Nat
  count  : Nat
  owner  : Nat
  mirror : Bool
  next   : Nat
  was    : SMap Nat
  early  : Vector Nat 20
  deriving DecidableEq, Repr

/-- A back-invalidate that has been sent (R346, R347): the local line, when (microseconds), whether it invalidates, and
whether it has been answered. -/
structure Snoop where
  line     : Nat
  since    : Nat
  inv      : Bool
  answered : Bool
  deriving DecidableEq, Repr

/-- HBM and what the picots hold beside their registers: the bytes of every stack (stack × 2^36 + stack offset), poisoned
lines (stack × 2^30 + line), owner entries (OWNER + 32 × MIRROR), the norm table, the two dirty bitmaps (partition × 2^20 +
page), the lines captured for a closing epoch (R405), the stacks, a running owner change, whether the next read of
`MSE_NORMDATA` clears its entry (R265, R271), the lines the host has been granted (snoop filter, R346, by local line, with the order of
grant) and the back-invalidates sent (R347). -/
structure MemRec where
  bytes    : SMap Byte
  poison   : SMap Bool
  owners   : SMap Nat
  norms    : SMap NormEnt
  dirty    : SMap Bool
  closing  : SMap Bool
  captured : SMap (List Byte × Bool)
  granSent : SMap Bool
  perStack : Vector StackRec 20
  ownCmd   : Option OwnCmd
  normClr  : Bool
  filter   : List (Nat × Nat)
  snooped  : List Snoop
  deriving DecidableEq, Repr

/-! ### Mirroring -/

/-- An epoch in transit (R403 to R408): its number, the recorded step, seed and norm entries, its pages, the digests of the
granules sent (page × 512 + granule), the pages whose digest has been sent, when its cut completed, when its manifest was sent,
when it last made progress (microseconds), whether it is verified, and the lines captured. -/
structure Epoch where
  num      : Nat
  step     : Nat
  seed     : Nat
  norms    : List (Nat × NormEnt)
  pages    : List Nat
  digs     : SMap Nat
  done     : List Nat
  doneAt   : Nat
  sentAt   : Option Nat
  progress : Nat
  verified : Bool
  captures : Nat
  deriving DecidableEq, Repr

/-- What is recorded with a committed epoch (R403, R412). -/
structure EpochMark where
  num   : Nat
  step  : Nat
  seed  : Nat
  norms : List (Nat × NormEnt)
  deriving DecidableEq, Repr

/-- A running restore (R411, R412): the target, its pages, the next one, the requests of it made, when it last made
progress, and the parts of the page asked for that have arrived (granule × 8 + part). -/
structure Restore where
  target   : EpochMark
  forced   : Bool
  pages    : List Nat
  next     : Nat
  tries    : Nat
  progress : Nat
  parts    : SMap (List Byte × Bool)
  deriving DecidableEq, Repr

/-- What a partition's mirror holds beside its registers: the epoch in transit, what is recorded with the committed one, a
running restore, when the first marker of the cut in progress was placed (R403 to R412, `MIR_LAST`), and the EPOCH and start of the
cut that an abort found in progress (R160). -/
structure MirRec where
  epoch    : Option Epoch
  commit   : Option EpochMark
  restore  : Option Restore
  cutStart : Option Nat
  cutLost  : Option (Nat × Nat)
  deriving DecidableEq, Repr

/-- What a store context holds beside its registers and its region (R402, R408): the committed map (data page and digest of each
source page, as the region's map also holds them), the incoming epoch (low 14 bits), the data page it has given each incoming page,
the parts of each that have arrived (page × 4096 + granule × 8 + part), the digests that have arrived, whether one differs, the
manifest's chunks and when the last one came (microseconds), and the manifests of the committed and of the held epoch. -/
structure StoreRec where
  map     : SMap (Nat × Nat)
  epoch   : Option Nat
  staged  : SMap Nat
  parts   : SMap Bool
  digests : SMap Nat
  bad     : Bool
  chunks  : SMap (List Byte)
  manAt   : Option Nat
  commit  : List Byte
  held    : List Byte
  deriving DecidableEq, Repr

/-- A fill of a spare at the partner (R413, R414): the store context and the spare, the pages of the committed copy in order,
the next one to send, those confirmed, whether the manifest is out, whether it is paused, and when it last made progress. -/
structure Fill where
  store    : Nat
  target   : Nat
  pages    : List Nat
  next     : Nat
  sure     : List Nat
  manifest : Bool
  paused   : Bool
  progress : Nat
  deriving DecidableEq, Repr

/-- A fill at the spare (R414): the parts of each page that have arrived, the pages confirmed, the manifest's chunks, and when it
last made progress. -/
structure FillRx where
  parts    : SMap Bool
  sure     : List Nat
  chunks   : SMap (List Byte)
  progress : Nat
  deriving DecidableEq, Repr

/-! ### The pricking network -/

/-- A flit (R206): VALID, the not-ready marker, POISON, and its 128 bytes. -/
structure Flit where
  valid  : Bool
  nr     : Bool
  poison : Bool
  data   : List Byte
  deriving DecidableEq, Repr

/-- A flit of a stream, with the NSENDs (core, number) it belongs to, on input lane `lane` of a router in network cycle `time`;
`lane` − 32 is an output lane by which it leaves the mesh (R202, R205). -/
structure FlitAt where
  time   : Nat
  die    : Nat
  router : Nat
  lane   : Nat
  stream : Nat
  part   : Nat
  flit   : Flit
  ops    : List (Nat × Nat)
  deriving DecidableEq, Repr

/-- The pair of queues of a merge, by output lane and stream, and for each input whether its stream is poisoned until the partition's
next commit (R209). -/
structure MergeQ where
  die    : Nat
  router : Nat
  lane   : Nat
  stream : Nat
  part   : Nat
  qa     : List (Flit × List (Nat × Nat))
  qb     : List (Flit × List (Nat × Nat))
  badA   : Bool
  badB   : Bool
  deriving DecidableEq, Repr

/-- A flit that a unit of a core has handed to its port for a stream, and the network cycle it is there from (R202, R207). -/
structure SrcFlit where
  core   : Nat
  stream : Nat
  ready  : Nat
  flit   : Flit
  ops    : List (Nat × Nat)
  deriving DecidableEq, Repr

/-- A flit that has reached the far end of its stream: a core port (lane 8 or 9) or an attachment lane (R205, R207). -/
structure DstFlit where
  die    : Nat
  router : Nat
  lane   : Nat
  stream : Nat
  part   : Nat
  flit   : Flit
  ops    : List (Nat × Nat)
  deriving DecidableEq, Repr

/-- The network beside its registers: network cycles run, the slot tables, flits on their way, merge queues, source flits,
arrived flits, flits that follow a re-sent one over a bridge with the cycle they are due, a commit that awaits the period
boundary, the frame length still in force where a new one does, the frame's place in its period of 16, and the duty of this period (R201 to R219). -/
structure NetRec where
  cycle  : Nat
  tables : SMap Nat
  flits  : List FlitAt
  merges : List MergeQ
  src    : List SrcFlit
  dst    : List DstFlit
  late   : List (Nat × FlitAt)
  commit : Option Nat
  oldLen : Option Nat
  frame  : Nat
  duty   : Nat
  deriving DecidableEq, Repr

/-! ### Bride ports, routes, groups and barriers -/

/-- A packet of the bride fabric (R295): its header fields, LEN in units of 16 B, ADDR as one number, and its data. -/
structure Packet where
  dst    : Nat
  src    : Nat
  sunit  : Nat
  job    : Nat
  typ    : Nat
  hops   : Nat
  poison : Bool
  len    : Nat
  tag    : Nat
  addr   : Nat
  data   : List Byte
  deriving DecidableEq, Repr

/-- A packet received whole (R298, R301): the flits its taking frees, and its number among all the packets the module has received. -/
structure InPacket where
  pkt   : Packet
  frees : Nat
  num   : Nat
  deriving DecidableEq, Repr

/-- What a port holds beside its registers (R287 to R301). Sending: the chunk bytes waiting in each class, the next SEQ, the
transmit history, the credits of each class, the mirror and bulk flits sent in the running share. Receiving: the next SEQ, the
receive hold, the NAK runs outstanding, for each class the bytes of the packet that is arriving, the flits it has used and the
packets received, and the credits to return. Lanes: those in service, those that have not failed in the
running or last training and the width it tries, CRC failures of this second and when it began (microseconds), and the lanes dropped
with the time of each. -/
structure PortRec where
  txq     : Vector (List Byte) 4
  txSeq   : Nat
  history : List BFlit
  credits : Vector Nat 4
  share   : Nat
  rxNext  : Nat
  hold    : List BFlit
  naks    : List (Nat × Nat)
  part    : Vector (List Byte) 4
  opened  : Vector Nat 4
  inq     : Vector (List InPacket) 4
  back    : Vector Nat 4
  good    : Nat
  trial   : Nat
  tryW    : Nat
  crcSec  : Nat
  crcFrom : Nat
  drops   : List (Nat × Nat)
  deriving DecidableEq, Repr

/-- One branch of a multicast group that holds something (R322 to R325): group, branch (0-23 a port, 24 the local one), the
packets of its backlog, since when it has been full (microseconds), and the DETACHED notices that wait for earlier packets, each with the
port it arrived on (24 where this module issued it). -/
structure Branch where
  group  : Nat
  branch : Nat
  queue  : List Packet
  full   : Option Nat
  notices : List (Packet × Nat)
  deriving DecidableEq, Repr

/-- A receptacle beside its registers (R310, R311): the hours of its up-time that its end's counter has not had yet, and whether an insertion has
been detected that is not counted yet. -/
structure RecepRec where
  due   : Nat
  newly : Bool
  deriving DecidableEq, Repr

/-- What a barrier context records (R328, R329): the child modules and the cores that have arrived in this epoch. -/
structure BarRec where
  kids  : List Nat
  cores : List PCore
  deriving DecidableEq, Repr

/-! ### The host port -/

/-- A completion record of R352 that is held: kind, core, value and data. -/
structure CqRec where
  kind  : Nat
  core  : Nat
  value : Nat
  data  : Nat
  deriving DecidableEq, Repr

/-- A completion queue beside its registers (R352, R353): the phase, the records written since it was enabled, the
records held, and the number lost that a KIND 0x05 record must still carry. -/
structure Cq where
  phase : Bool
  seqno : Nat
  held  : List CqRec
  lost  : Nat
  deriving DecidableEq, Repr

/-- Configuration state of a CXL function (R343, R355): MSI-X Enable, the function mask, the vectors masked and those
pending. -/
structure FuncRec where
  msixEn  : Bool
  fnMask  : Bool
  vecMask : SMap Bool
  pend    : SMap Bool
  deriving DecidableEq, Repr

/-! ### Partitions -/

/-- What a partition holds beside its registers: the consecutive quiescent cycles (R140), the cycle of a DEADLOCK that has been declared
and whose abort has not begun (R141), a doorbell GO that waits for
self-tests (R387), when its running reset was accepted (R373), and the core and cause of an abort whose record waits for the units to
stop (R357). -/
structure PartRec where
  quiet    : Nat
  declared : Option Nat
  goHeld   : Bool
  resetAt  : Option Nat
  abortRec : Option (Nat × Nat)
  deriving DecidableEq, Repr

/-- A remote SIGNAL on its way (R136, R137): the physical core it goes to, the flag, the increment, and the partition that
sent it. -/
structure SigMsg where
  src  : PCore
  core : PCore
  flag : Nat
  inc  : Nat
  part : Nat
  deriving DecidableEq, Repr

/-- Who waits for the verdict of a window write (R186, R187): an NPUT of a core, or a bobbin's request by its tag. -/
inductive WinSrc where
  | nput (core op : Nat)
  | bobbin (core bob tag : Nat)
  deriving DecidableEq, Repr

/-- A window write request on its way to a core of this module (R186): who waits, the source it carries (module, logical
core) and the number of its sequence with the target window (R187), the target, the generation expected, the offset, the
data, and whether it carries poison. -/
structure WinReq where
  src    : WinSrc
  srcM   : Nat
  srcC   : Nat
  seq    : Nat
  target : PCore
  win    : Nat
  gen    : Nat
  off    : Nat
  data   : List Byte
  poison : Bool
  deriving DecidableEq, Repr

/-! ### Quarantine -/

/-- A unit under quarantine (R386): its type and number (R395), the error's class, location, cause and SEQNO, and the
microsecond its self-test started in, where it runs, what a test that failed found (R386), whether an error came in the unit while its
test ran (R398), and whether its quarantine has begun: a memory of a core in state 1 or 2 waits for the end or the abort of its task (R386). -/
structure QuarRec where
  unit    : Nat
  unitId  : Nat
  cls     : Nat
  loc     : Nat
  cause   : Nat
  seqno   : Nat
  started : Option Nat
  failed  : Option TestResult
  again   : Bool
  shut    : Bool
  deriving DecidableEq, Repr

/-- A host command that waits until a firmware action on the unit it names has ended (R25): GO of a core, or a core or cluster reset
(scope and target of `RST_CMD`). -/
inductive HeldCmd where
  | go (core : PCore)
  | reset (scope target : Nat)
  | part (p : Nat)
  | command (op p clusters : Nat)
  deriving DecidableEq, Repr

/-- A running partition command (R367): OP, the partition, and the affected clusters. -/
structure PartCmd where
  op       : Nat
  part     : Nat
  clusters : List Nat
  deriving DecidableEq, Repr

/-- The state of an IDE stream (R358): not keyed, secure, or insecure after an integrity failure. -/
inductive IdeState where
  | off | secure | insecure
  deriving DecidableEq, Repr

/-- An HDM decoder (R344): committed, or failed with Error Not Committed. -/
structure Hdm where
  committed : Bool
  error     : Bool
  deriving DecidableEq, Repr

/-! ### Fuses, flash, identity, pins and the governor -/

/-- A firmware slot of the boot flash (R425, R427): its 4 KiB chunks, and whether it is being staged. -/
structure FwSlot where
  chunks  : SMap (List Byte)
  staging : Bool
  deriving DecidableEq, Repr

/-- The lasting actions of earlier boots (R431, R432): spare rows (engine, physical row out of service) and spare banks (core,
bank replaced), engines disabled, cores reported down, and stack pages retired. -/
structure Repair where
  rows    : List (Nat × Nat)
  banks   : List (Nat × Nat)
  engines : List Nat
  cores   : List Nat
  pages   : List (Nat × Nat)
  deriving DecidableEq, Repr

/-- What survives without power, and what the security engine holds (R425 to R448): the spare rows and banks of the yield map,
the yield identity, the identity serial and the anti-rollback count from the fuses; the firmware slots and the preferred one, the
licence store and the repair record in flash; the device secret from the fuses and the identity chain of the directory (R438, R440); whether the
last firmware command was a WRITE; whether a COMMIT_SVN runs; the staging and licence buffers; the measurements by index; the seed of the
attestation key with the measurements its alias certificate carries (R440); the class nonce; the secured sessions; when PERST_N was released or
the module last reset (microseconds); the step of bring-up (0 not begun, 1 waiting for the reference or for the junctions to cool, 2 past step 1,
3 halted, R421, R430); and what the training of the CXL link leads to while it runs: rate, width code and flit format (R338, R360). -/
structure BootRec where
  fuses    : Repair
  yieldId  : Nat
  serial   : Nat
  svn      : Nat
  slotA    : FwSlot
  slotB    : FwSlot
  prefer   : Nat
  lics     : SMap (List Byte)
  repair   : Repair
  secret   : List Byte
  chain    : List Byte
  writing  : Bool
  committing : Bool
  stage    : SMap Byte
  licBuf   : SMap Byte
  meas     : SMap Nat
  aliasKey : Option (Nat × SMap Nat)
  nonce    : Option Nat
  sessions : List Nat
  released : Nat
  step     : Nat
  link     : Option (Nat × Nat × Nat)
  deriving DecidableEq, Repr

/-- The sideband pins and domains in motion (R451, R455, R461, R465): 54 V applied, PWRGD released, PERST_N asserted, ALERT_N and
THERM_N asserted, the straps CLASS_SEL and MOD_ID as the baseboard ties them and as they were last sampled (R450), whether a thermal trip or a
lost reference holds bring-up at step 1, whether no bring-up has run since 54 V was applied (R310), and the cluster domains that ramp. -/
structure PinRec where
  input   : Bool
  pwrgd   : Bool
  perst   : Bool
  alert   : Bool
  therm   : Bool
  straps  : Nat
  modId   : Nat
  seen    : Nat
  seenId  : Nat
  hot     : Bool
  noRef   : Bool
  cold    : Bool
  ramping : List Nat
  deriving DecidableEq, Repr

/-- The governor beside its registers (R459, R460): until when a rail warning holds the duty at 15 (microseconds), whether the duty
has stood at 15 through the whole running window, the 100 µs intervals with a duty above 0 not yet counted as a millisecond, and the duty
and source the 100 µs loop asks for. -/
structure GovRec where
  warnEnd : Option Nat
  full    : Bool
  tenths  : Nat
  loop    : Nat × Nat
  deriving DecidableEq, Repr

/-! ### The module -/

/-- The machine's state: every register (`regs`), and everything the spec gives the machine that is not a register.
`coresDown` has a bit for each physical core that is reported down (R22, R386); `mcLines` counts the lines taken since a multicast
source entry was written (R318), `rxNum` the packets received (R301), `mcSeen` holds, for each group, the SEQ after the last packet taken (R325), `corrHour` counts
corrected errors of this hour by unit (R386), `hourAt` is when the hour began (R399), `patrolAt` the next line or row of the patrol
(R391), `hostReset` are the running resets the host asked for, scope and target (R381), `held` the host commands that wait for a self-test of
their unit (R25), `report` the readiness report as last written, offset and bytes (R435, R436), and `ide` the streams of R358: 0 the link stream of CXL.io, 1 to
4 its selective streams, 5 the stream of CXL.cache and CXL.mem, in skid mode where `ideSkid` says so. -/
structure State where
  pending  : List Instr
  cycle    : Nat
  ticks    : Nat
  regs     : SMap Nat
  cores    : Vector CoreRec 64
  disabled : Vector (Fin 16) 4
  coresDown : Nat
  pages    : Vector (List PageEnt) 16
  funcs    : Vector FuncRec 17
  vfEnable : Bool
  hcache   : SMap (List Byte)
  cqs      : Vector Cq 16
  parts    : Vector PartRec 16
  ports    : Vector PortRec 24
  rxNum    : Nat
  routes   : SMap Nat
  branches : List Branch
  mcLines  : SMap Nat
  mcSeen   : SMap Nat
  bars     : Vector BarRec 32
  cables   : Vector (Option CableEnd) 12
  receps   : Vector RecepRec 12
  sigs     : List SigMsg
  winReqs  : List WinReq
  creditMs : List (PCore × CreditReq)
  memReqs  : Vector (List MemReq) 20
  arrivals : Vector Arrival 20
  memResps : Vector (List MemResp) 20
  mem      : MemRec
  mir      : Vector MirRec 16
  net      : NetRec
  mapLock  : Bool
  quar     : List QuarRec
  corrHour : SMap Nat
  hourAt   : Nat
  patrolAt : Nat
  hdm      : Vector Hdm 2
  partCmd  : Option PartCmd
  hostReset : List (Nat × Nat)
  held     : List HeldCmd
  stores   : Vector StoreRec 16
  fills    : List Fill
  fillQ    : List (Nat × Nat)
  fillRx   : Vector FillRx 16
  boot     : BootRec
  report   : List (Nat × List Byte)
  ide      : Vector IdeState 6
  ideSkid  : Bool
  pins     : PinRec
  gov      : GovRec
  fatalLog : List (List Nat)
  out      : List Out
  free     : Nat
  deriving DecidableEq, Repr

/-- An engine after a core reset (R49, R62, R163). -/
def EngRec.reset : EngRec where
  wFmt := 0
  wKW := 0
  wN := 0
  wData := []
  loads := []
  front := none
  wOpnd := none
  lastE := none
  lastF := 0
  issued := []
  wRange := []
  wUnguard := false
  foldEnd := 0
  testSince := none
  deferTest := none
  leftTest := false
  preemptAt := none
  repairing := []
  halfRead := []
  halfFold := []
  floor := 0
  raced := []
  racedF := []
  askedStop := false
  bufA := 0
  bufB := 0
  bufW := 0

/-- A drain unit after a core reset (R118). -/
def DrainRec.reset : DrainRec where
  queue := []
  run := none
  ended := []
  red0 := []
  red1 := []
  emits := []
  outs := []
  freedAt := 0
  freed := 0
  lastRead := 0
  allOut := 0
  marked := false

/-- A bobbin after a core reset: no context in use, every bucket full at the reset BURST (R239, R243). -/
def BobRec.reset : BobRec where
  ctxs := []
  reqs := []
  buckets := List.replicate 8 (0x100000, 0)
  fault := none
  nextId := 0
  ringWait := none
  issuedAt := none
  hold := 0
  stale := []
  gone := []
  goneHead := none
  goneAt := 0

/-- A core after a module reset: every memory zero-filled (R196), everything else as a core reset leaves it. -/
def CoreRec.reset : CoreRec where
  imem := []
  spad := []
  spadPois := []
  spadBad := []
  accBad := []
  condZ := false
  condS := false
  condU := false
  queues := Vector.replicate 8 []
  headAt := Vector.replicate 8 0
  waiters := []
  readyAt := 0
  goCycle := 0
  lastCut := 0
  engines := Vector.replicate 4 EngRec.reset
  acc := Vector.replicate 4 []
  drains := Vector.replicate 4 DrainRec.reset
  bobs := Vector.replicate 2 BobRec.reset
  credits := Vector.replicate 16 []
  creditQ := []
  landing := []
  refused := []
  netOps := []
  netNext := 0
  resetEnd := none
  fillEnd := none
  pastEnd := false
  sinkOff := []
  ringDone := []
  cutSince := Vector.replicate 8 none
  wantFill := false
  regsDone := false
  bornAt := 0

/-- A completion queue after reset (R353). -/
def Cq.reset : Cq := ⟨true, 0, [], 0⟩

/-- A function's configuration after reset: MSI-X disabled, nothing masked or pending (log entry 6). -/
def FuncRec.reset : FuncRec := ⟨false, false, [], []⟩

/-- A partition after reset. -/
def PartRec.reset : PartRec := ⟨0, none, false, none, none⟩

/-- A stack after reset: no page remapped or counted (R245). -/
def StackRec.reset : StackRec := ⟨[], [], 0, none, 0⟩

/-- HBM and the picots after reset: every byte zero, every page owned by partition 0 with MIRROR clear, every norm entry zero,
no bit dirty, nothing granted to the host (R262, R263, R346, R376). -/
def MemRec.reset : MemRec where
  bytes := []
  poison := []
  owners := []
  norms := []
  dirty := []
  closing := []
  captured := []
  granSent := []
  perStack := Vector.replicate 20 StackRec.reset
  ownCmd := none
  normClr := false
  filter := []
  snooped := []

/-- A partition's mirror after reset. -/
def MirRec.reset : MirRec := ⟨none, none, none, none, none⟩

/-- A store context after reset: nothing held (R402). -/
def StoreRec.reset : StoreRec := ⟨[], none, [], [], [], false, [], none, [], []⟩

/-- A fill receiver after reset. -/
def FillRx.reset : FillRx := ⟨[], [], [], 0⟩

/-- No lasting action. -/
def Repair.none : Repair := ⟨[], [], [], [], []⟩

/-- Fuses and flash as State.reset has them: blank (log entry 5). -/
def BootRec.reset : BootRec where
  fuses := Repair.none
  yieldId := 0
  serial := 0
  svn := 0
  slotA := ⟨[], false⟩
  slotB := ⟨[], false⟩
  prefer := 0
  lics := []
  repair := Repair.none
  secret := []
  chain := []
  writing := false
  committing := false
  stage := []
  licBuf := []
  meas := []
  aliasKey := Option.none
  nonce := Option.none
  sessions := []
  released := 0
  step := 0
  link := Option.none

/-- The pins right after a module reset under power: 54 V applied, PWRGD released, PERST_N asserted (log entry 5). -/
def PinRec.reset : PinRec where
  input := true
  pwrgd := true
  perst := true
  alert := false
  therm := false
  straps := 0
  modId := 0
  seen := 0
  seenId := 0
  hot := false
  noRef := false
  cold := false
  ramping := []

/-- The governor after reset: duty 0. -/
def GovRec.reset : GovRec := ⟨none, false, 0, (0, 0)⟩

/-- The network after reset: every table entry idle, no flit anywhere (R203). -/
def NetRec.reset : NetRec := ⟨0, [], [], [], [], [], [], none, none, 0, 0⟩

/-- A port after reset: every lane good, nothing sent or held, the peer's buffers empty (R287, R291, R298). -/
def PortRec.reset : PortRec where
  txq := Vector.replicate 4 []
  txSeq := 0
  history := []
  credits := #v[64, 1024, 512, 2048]
  share := 0
  rxNext := 0
  hold := []
  naks := []
  part := Vector.replicate 4 []
  opened := Vector.replicate 4 0
  inq := Vector.replicate 4 []
  back := Vector.replicate 4 0
  good := 0xFF
  trial := 0
  tryW := 0
  crcSec := 0
  crcFrom := 0
  drops := []

/-- A barrier context after reset. -/
def BarRec.reset : BarRec := ⟨[], []⟩

/-- The machine right after a module reset. The registers listed are those whose reset value differs by index: COUNT of
`MSE_NORMRANGE` 0 (R269), CORES and PAGES of `PRT_PSTAT` 0 (R380). -/
def State.reset : State where
  pending := []
  cycle := 0
  ticks := 0
  regs := [(1407377500801036, 4096), (1407377970563136, 60), (1407377970563143, 655360)]
  cores := Vector.replicate 64 CoreRec.reset
  disabled := Vector.replicate 4 0
  coresDown := 0
  pages := Vector.replicate 16 []
  funcs := Vector.replicate 17 FuncRec.reset
  vfEnable := false
  hcache := []
  cqs := Vector.replicate 16 Cq.reset
  parts := Vector.replicate 16 PartRec.reset
  ports := Vector.replicate 24 PortRec.reset
  rxNum := 0
  routes := []
  branches := []
  mcLines := []
  mcSeen := []
  bars := Vector.replicate 32 BarRec.reset
  cables := Vector.replicate 12 none
  receps := Vector.replicate 12 ⟨0, false⟩
  sigs := []
  winReqs := []
  creditMs := []
  memReqs := Vector.replicate 20 []
  arrivals := Vector.replicate 20 ⟨0, [], [], []⟩
  memResps := Vector.replicate 20 []
  mem := MemRec.reset
  mir := Vector.replicate 16 MirRec.reset
  net := NetRec.reset
  mapLock := false
  quar := []
  corrHour := []
  hourAt := 0
  patrolAt := 0
  hdm := Vector.replicate 2 ⟨false, false⟩
  partCmd := none
  hostReset := []
  held := []
  stores := Vector.replicate 16 StoreRec.reset
  fills := []
  fillQ := []
  fillRx := Vector.replicate 16 FillRx.reset
  boot := BootRec.reset
  report := []
  ide := Vector.replicate 6 .off
  ideSkid := false
  pins := PinRec.reset
  gov := GovRec.reset
  fatalLog := []
  out := []
  free := 0

end Sys2Proof.Machine
end

