-- ==== Sys2Proof/Machine/Layout.lean ====
section
/-!
DEFINITION. How operands lie in a scratchpad: lines, packed elements (R66), the vectors and the region of an operand (R162, R181),
the rate classes (R30), and the weight entries a LOADW's front takes, where a write may race with it (R28, R41).
-/
namespace Sys2Proof.Machine

/-- The lines of 64 B that a byte range touches. -/
def linesOf (off len : Nat) : List Nat :=
  if len = 0 then [] else (List.range ((off + len - 1) / 64 - off / 64 + 1)).map (· + off / 64)

/-- Whether a byte range meets another. -/
def overlaps (off len : Nat) (r : Nat × Nat) : Bool := decide (off < r.1 + r.2) && decide (r.1 < off + len)

/-- The rate classes of R30. -/
inductive RateClass where
  | sixteen | eight | narrow | split
  deriving DecidableEq, Repr

/-- The rate class of an operand format; none for a format no pass takes (R30, R65). -/
def rateClass (f : Nat) : Option RateClass :=
  match f with
  | 0x1 => some .split
  | 0x3 => some .sixteen
  | 0x4 => some .sixteen
  | 0x5 => some .eight
  | 0x6 => some .eight
  | 0xA => some .eight
  | 0xB => some .eight
  | 0x7 => some .narrow
  | 0x8 => some .narrow
  | 0x9 => some .narrow
  | 0xC => some .narrow
  | _ => none

/-- K steps per cycle of a rate class (R30); a split step takes three cycles. -/
def RateClass.steps : RateClass → Nat
  | .sixteen => 1 | .eight => 2 | .narrow => 4 | .split => 1

/-- Element `i` of a packed row at `base` (R66): `w` bits from bit i × w. -/
def readElem (mem : SMap Byte) (base i w : Nat) : Nat :=
  bits (readLE mem (base + i * w / 8) ((i * w % 8 + w + 7) / 8)) (i * w % 8) w

/-- The bytes of `n` packed elements. -/
def rowBytes (n w : Nat) : Nat := ceilDiv (n * w) 8

/-- The region of an operand of `vecs` vectors of `elems` elements (R162), or of its stored rows under a transposed
read (R181): from its base to its last vector's end. -/
def operandRegion (base pitch vecs elems w : Nat) (tr : Bool) : Nat × Nat :=
  let rows := if tr then elems else vecs
  let cols := if tr then vecs else elems
  (base, (rows - 1) * pitch + rowBytes cols w)

/-- Element `i` of operand vector `v` (R162, R181). -/
def operandElem (mem : SMap Byte) (base pitch w : Nat) (tr : Bool) (v i : Nat) : Nat :=
  if tr then readElem mem (base + i * pitch) v w else readElem mem (base + v * pitch) i w

/-- The scratchpad lines operand vector `v` of `n` elements lies in. -/
def vectorLines (base pitch w : Nat) (tr : Bool) (v n : Nat) : List Nat :=
  if tr then (List.range n).flatMap fun i => linesOf (base + i * pitch + v * w / 8) ((v * w % 8 + w + 7) / 8)
  else linesOf (base + v * pitch) (rowBytes n w)

/-- An operand from its register: base in the low half, pitch in the high half (R162, R163). -/
def opndOf (x : Word64) (fmt : Nat) (tr : Bool) (vecs elems : Nat) : Opnd :=
  ⟨bits x.toNat 0 32, bits x.toNat 32 32, Fmt.width fmt, tr, vecs, elems⟩

/-- The region of an operand (R162). -/
def Opnd.region (o : Opnd) : Nat × Nat := operandRegion o.base o.pitch o.vecs o.elems o.w o.tr

/-- The rows of the scratchpad an operand is read from, one by one: what lies between them is not read (R177, R181). -/
def Opnd.pieces (o : Opnd) : List (Nat × Nat) :=
  let n := rowBytes (if o.tr then o.vecs else o.elems) o.w
  (List.range (if o.tr then o.elems else o.vecs)).map fun r => (o.base + r * o.pitch, n)

/-- The format, KW, N and TW of a LOADW's word (R163). -/
def loadFmt (w : IWord) : Nat := bits w.toNat 108 4
@[inherit_doc loadFmt] def loadKW (w : IWord) : Nat := bits w.toNat 98 10
@[inherit_doc loadFmt] def loadN (w : IWord) : Nat := bits w.toNat 90 8
@[inherit_doc loadFmt] def loadTW (w : IWord) : Bool := decide (bits w.toNat 84 1 = 1)

/-- The scratchpad as array row `row` of a front takes it (R41): of each line that a write raced with, the bytes before the write or those
after it, as a free value's bits say. -/
def racedMem (mem : SMap Byte) (raced : SMap (List Byte)) (pick row : Nat) : SMap Byte :=
  raced.foldl (fun m r => if bit pick (row * 2 ^ 18 + r.1) then writeBytes m (r.1 * 64) r.2 else m) mem

/-- The weight entries of a LOADW, entry k of column j at k × N + j: array row k ÷ (entries of a cell) takes them (R28, R40, R41). -/
def loadEntries (mem : SMap Byte) (raced : SMap (List Byte)) (pick fmt : Nat) (o : Opnd) : List Nat :=
  let per := ((rateClass fmt).map RateClass.steps).getD 1
  (List.range o.vecs).flatMap fun k =>
    let m := racedMem mem raced pick (k / per)
    (List.range o.elems).map fun j => operandElem m o.base o.pitch o.w o.tr k j

end Sys2Proof.Machine
end

