-- ==== Sys2Proof/Machine/Registers.lean ====
section
/-!
DEFINITION. The register tables of the spec as data: one `Fld` per field (namespace-free names F.<REGISTER>_<FIELD>), one
`RegDef` per register (R.<REGISTER>), and the registers of each page. Offsets, bits, access types and reset values are
those of the tables of R62, R120, R121, R145, R193, R221, R243, R269-R271, R285, R314-R316, R336, R360-R362, R380, R381,
R399, R418-R420, R447, R448, R472 and R473; a reset value the spec leaves open stands as 0 (log entry 5).
-/
namespace Sys2Proof.Machine

/-- The `cnt` instances of a field packed side by side in one register; `step` is the distance in bits between two
instances of that register. -/
def F.pack (f : Fld) (cnt step : Nat) : List Fld :=
  (List.range cnt).map fun k => { f with lo := f.lo + k * f.step, step := step }

/-! `OPE_CTRL`: R62 of spec/02_outer_product_engine.md. -/
def F.OPE_CTRL_REPLAY : Fld := ⟨0x0, 0, 1, 0, 0, .rwl⟩
def F.OPE_CTRL_RAMP_SHORT : Fld := ⟨0x0, 1, 1, 0, 0, .rwl⟩
def F.OPE_CTRL_INJECT : Fld := ⟨0x0, 2, 1, 0, 0, .w1s⟩
def F.OPE_CTRL_PREEMPT : Fld := ⟨0x0, 3, 1, 0, 0, .wo⟩
def F.OPE_CTRL_RESUME : Fld := ⟨0x0, 4, 1, 0, 0, .wo⟩
def F.OPE_CTRL_LOCK : Fld := ⟨0x0, 63, 1, 0, 0, .w1s⟩
def R.OPE_CTRL : RegDef where
  name := "OPE_CTRL"
  off := 0x0
  stride := 0
  count := 1
  width := 64
  lock := some F.OPE_CTRL_LOCK
  flds := [F.OPE_CTRL_REPLAY, F.OPE_CTRL_RAMP_SHORT, F.OPE_CTRL_INJECT, F.OPE_CTRL_PREEMPT, F.OPE_CTRL_RESUME, F.OPE_CTRL_LOCK]

/-! `OPE_STATUS`: R62 of spec/02_outer_product_engine.md. -/
def F.OPE_STATUS_STATE : Fld := ⟨0x8, 0, 3, 0, 0, .ro⟩
def F.OPE_STATUS_SPARES_USED : Fld := ⟨0x8, 3, 2, 0, 0, .ro⟩
def F.OPE_STATUS_SPARE_ROW_A : Fld := ⟨0x8, 8, 8, 0xFF, 0, .ro⟩
def F.OPE_STATUS_SPARE_ROW_B : Fld := ⟨0x8, 16, 8, 0xFF, 0, .ro⟩
def F.OPE_STATUS_PENDING : Fld := ⟨0x8, 24, 8, 0, 0, .ro⟩
def R.OPE_STATUS : RegDef where
  name := "OPE_STATUS"
  off := 0x8
  stride := 0
  count := 1
  width := 64
  lock := none
  flds := [F.OPE_STATUS_STATE, F.OPE_STATUS_SPARES_USED, F.OPE_STATUS_SPARE_ROW_A, F.OPE_STATUS_SPARE_ROW_B, F.OPE_STATUS_PENDING]

/-! `OPE_TIMING`: R62 of spec/02_outer_product_engine.md. -/
def F.OPE_TIMING_LATENCY : Fld := ⟨0x10, 0, 8, 48, 0, .ro⟩
def F.OPE_TIMING_RAMP_LEN : Fld := ⟨0x10, 8, 8, 32, 0, .ro⟩
def F.OPE_TIMING_RAMP_GAP : Fld := ⟨0x10, 16, 8, 64, 0, .ro⟩
def R.OPE_TIMING : RegDef where
  name := "OPE_TIMING"
  off := 0x10
  stride := 0
  count := 1
  width := 32
  lock := none
  flds := [F.OPE_TIMING_LATENCY, F.OPE_TIMING_RAMP_LEN, F.OPE_TIMING_RAMP_GAP]

/-! `OPE_CYCLES`: R62 of spec/02_outer_product_engine.md. -/
def F.OPE_CYCLES_COUNT : Fld := ⟨0x18, 0, 64, 0, 0, .ro⟩
def R.OPE_CYCLES : RegDef where
  name := "OPE_CYCLES"
  off := 0x18
  stride := 0
  count := 1
  width := 64
  lock := none
  flds := [F.OPE_CYCLES_COUNT]

/-! `OPE_STREAM`: R62 of spec/02_outer_product_engine.md. -/
def F.OPE_STREAM_COUNT : Fld := ⟨0x20, 0, 64, 0, 0, .ro⟩
def R.OPE_STREAM : RegDef where
  name := "OPE_STREAM"
  off := 0x20
  stride := 0
  count := 1
  width := 64
  lock := none
  flds := [F.OPE_STREAM_COUNT]

/-! `OPE_PASSES`: R62 of spec/02_outer_product_engine.md. -/
def F.OPE_PASSES_COUNT : Fld := ⟨0x28, 0, 64, 0, 0, .ro⟩
def R.OPE_PASSES : RegDef where
  name := "OPE_PASSES"
  off := 0x28
  stride := 0
  count := 1
  width := 64
  lock := none
  flds := [F.OPE_PASSES_COUNT]

/-! `OPE_BUBBLES`: R62 of spec/02_outer_product_engine.md. -/
def F.OPE_BUBBLES_COUNT : Fld := ⟨0x30, 0, 64, 0, 0, .ro⟩
def R.OPE_BUBBLES : RegDef where
  name := "OPE_BUBBLES"
  off := 0x30
  stride := 0
  count := 1
  width := 64
  lock := none
  flds := [F.OPE_BUBBLES_COUNT]

/-! `OPE_RAMPS`: R62 of spec/02_outer_product_engine.md. -/
def F.OPE_RAMPS_COUNT : Fld := ⟨0x38, 0, 32, 0, 0, .ro⟩
def R.OPE_RAMPS : RegDef where
  name := "OPE_RAMPS"
  off := 0x38
  stride := 0
  count := 1
  width := 32
  lock := none
  flds := [F.OPE_RAMPS_COUNT]

/-! `OPE_FROZEN`: R62 of spec/02_outer_product_engine.md. -/
def F.OPE_FROZEN_COUNT : Fld := ⟨0x40, 0, 64, 0, 0, .ro⟩
def R.OPE_FROZEN : RegDef where
  name := "OPE_FROZEN"
  off := 0x40
  stride := 0
  count := 1
  width := 64
  lock := none
  flds := [F.OPE_FROZEN_COUNT]

/-! `OPE_ERR`: R62 of spec/02_outer_product_engine.md. -/
def F.OPE_ERR_RESIDUE : Fld := ⟨0x48, 0, 1, 0, 0, .w1c⟩
def F.OPE_ERR_PAR_A : Fld := ⟨0x48, 1, 1, 0, 0, .w1c⟩
def F.OPE_ERR_PAR_B : Fld := ⟨0x48, 2, 1, 0, 0, .w1c⟩
def F.OPE_ERR_PAR_W : Fld := ⟨0x48, 3, 1, 0, 0, .w1c⟩
def F.OPE_ERR_PAR_FOLD : Fld := ⟨0x48, 4, 1, 0, 0, .w1c⟩
def F.OPE_ERR_REPLAY_OK : Fld := ⟨0x48, 5, 1, 0, 0, .w1c⟩
def F.OPE_ERR_REPLAY_FAIL : Fld := ⟨0x48, 6, 1, 0, 0, .w1c⟩
def F.OPE_ERR_ROW : Fld := ⟨0x48, 8, 8, 0, 0, .ro⟩
def F.OPE_ERR_COL : Fld := ⟨0x48, 16, 8, 0, 0, .ro⟩
def F.OPE_ERR_IADDR : Fld := ⟨0x48, 24, 14, 0, 0, .ro⟩
def F.OPE_ERR_TILE : Fld := ⟨0x48, 40, 4, 0, 0, .ro⟩
def R.OPE_ERR : RegDef where
  name := "OPE_ERR"
  off := 0x48
  stride := 0
  count := 1
  width := 64
  lock := none
  flds := [F.OPE_ERR_RESIDUE, F.OPE_ERR_PAR_A, F.OPE_ERR_PAR_B, F.OPE_ERR_PAR_W, F.OPE_ERR_PAR_FOLD, F.OPE_ERR_REPLAY_OK, F.OPE_ERR_REPLAY_FAIL, F.OPE_ERR_ROW, F.OPE_ERR_COL, F.OPE_ERR_IADDR, F.OPE_ERR_TILE]

/-! `OPE_ERRCNT`: R62 of spec/02_outer_product_engine.md. -/
def F.OPE_ERRCNT_RESIDUE_CNT : Fld := ⟨0x50, 0, 16, 0, 0, .rc⟩
def F.OPE_ERRCNT_PARITY_CNT : Fld := ⟨0x50, 16, 16, 0, 0, .rc⟩
def R.OPE_ERRCNT : RegDef where
  name := "OPE_ERRCNT"
  off := 0x50
  stride := 0
  count := 1
  width := 32
  lock := none
  flds := [F.OPE_ERRCNT_RESIDUE_CNT, F.OPE_ERRCNT_PARITY_CNT]

/-! `OPE_REPLAYS`: R62 of spec/02_outer_product_engine.md. -/
def F.OPE_REPLAYS_DONE : Fld := ⟨0x58, 0, 16, 0, 0, .rc⟩
def F.OPE_REPLAYS_FAILED : Fld := ⟨0x58, 16, 16, 0, 0, .rc⟩
def R.OPE_REPLAYS : RegDef where
  name := "OPE_REPLAYS"
  off := 0x58
  stride := 0
  count := 1
  width := 32
  lock := none
  flds := [F.OPE_REPLAYS_DONE, F.OPE_REPLAYS_FAILED]

/-! `OPE_PREEMPT_WAIT`: R62 of spec/02_outer_product_engine.md. -/
def F.OPE_PREEMPT_WAIT_CYCLES : Fld := ⟨0x60, 0, 32, 0, 0, .ro⟩
def R.OPE_PREEMPT_WAIT : RegDef where
  name := "OPE_PREEMPT_WAIT"
  off := 0x60
  stride := 0
  count := 1
  width := 32
  lock := none
  flds := [F.OPE_PREEMPT_WAIT_CYCLES]

/-! `OPE_UNGUARD`: R62 of spec/02_outer_product_engine.md. -/
def F.OPE_UNGUARD_COUNT : Fld := ⟨0x68, 0, 32, 0, 0, .rc⟩
def R.OPE_UNGUARD : RegDef where
  name := "OPE_UNGUARD"
  off := 0x68
  stride := 0
  count := 1
  width := 32
  lock := none
  flds := [F.OPE_UNGUARD_COUNT]

/-! `ACC_LIVE`: R120 of spec/04_accumulators_and_drain.md. -/
def F.ACC_LIVE_LIVE : Fld := ⟨0x0, 0, 16, 0, 0, .ro⟩
def R.ACC_LIVE : RegDef where
  name := "ACC_LIVE"
  off := 0x0
  stride := 0
  count := 1
  width := 32
  lock := none
  flds := [F.ACC_LIVE_LIVE]

/-! `ACC_SHADOW_BUSY`: R120 of spec/04_accumulators_and_drain.md. -/
def F.ACC_SHADOW_BUSY_BUSY : Fld := ⟨0x8, 0, 16, 0, 0, .ro⟩
def R.ACC_SHADOW_BUSY : RegDef where
  name := "ACC_SHADOW_BUSY"
  off := 0x8
  stride := 0
  count := 1
  width := 32
  lock := none
  flds := [F.ACC_SHADOW_BUSY_BUSY]

/-! `ACC_PENDING`: R120 of spec/04_accumulators_and_drain.md. -/
def F.ACC_PENDING_COUNT : Fld := ⟨0x10, 0, 8, 0, 8, .ro⟩
def R.ACC_PENDING : RegDef where
  name := "ACC_PENDING"
  off := 0x10
  stride := 8
  count := 4
  width := 64
  lock := none
  flds := F.pack F.ACC_PENDING_COUNT 8 64

/-! `ACC_POISON`: R120 of spec/04_accumulators_and_drain.md. -/
def F.ACC_POISON_POISON : Fld := ⟨0x30, 0, 32, 0, 0, .ro⟩
def R.ACC_POISON : RegDef where
  name := "ACC_POISON"
  off := 0x30
  stride := 0
  count := 1
  width := 32
  lock := none
  flds := [F.ACC_POISON_POISON]

/-! `ACC_ECC`: R120 of spec/04_accumulators_and_drain.md. -/
def F.ACC_ECC_CORR : Fld := ⟨0x38, 0, 16, 0, 0, .rc⟩
def F.ACC_ECC_UNCORR : Fld := ⟨0x38, 16, 16, 0, 0, .rc⟩
def F.ACC_ECC_APERTURE_REJ : Fld := ⟨0x38, 32, 16, 0, 0, .rc⟩
def R.ACC_ECC : RegDef where
  name := "ACC_ECC"
  off := 0x38
  stride := 0
  count := 1
  width := 64
  lock := none
  flds := [F.ACC_ECC_CORR, F.ACC_ECC_UNCORR, F.ACC_ECC_APERTURE_REJ]

/-! `ACC_ECC_ADDR`: R120 of spec/04_accumulators_and_drain.md. -/
def F.ACC_ECC_ADDR_ROWADDR : Fld := ⟨0x40, 0, 12, 0, 0, .ro⟩
def F.ACC_ECC_ADDR_PAIR : Fld := ⟨0x40, 12, 6, 0, 0, .ro⟩
def R.ACC_ECC_ADDR : RegDef where
  name := "ACC_ECC_ADDR"
  off := 0x40
  stride := 0
  count := 1
  width := 32
  lock := none
  flds := [F.ACC_ECC_ADDR_ROWADDR, F.ACC_ECC_ADDR_PAIR]

/-! `ACC_DRAINQ`: R120 of spec/04_accumulators_and_drain.md. -/
def F.ACC_DRAINQ_DEPTH : Fld := ⟨0x48, 0, 5, 0, 0, .ro⟩
def R.ACC_DRAINQ : RegDef where
  name := "ACC_DRAINQ"
  off := 0x48
  stride := 0
  count := 1
  width := 32
  lock := none
  flds := [F.ACC_DRAINQ_DEPTH]

/-! `ACC_HOLD`: R120 of spec/04_accumulators_and_drain.md. -/
def F.ACC_HOLD_COUNT : Fld := ⟨0x50, 0, 64, 0, 0, .ro⟩
def R.ACC_HOLD : RegDef where
  name := "ACC_HOLD"
  off := 0x50
  stride := 0
  count := 1
  width := 64
  lock := none
  flds := [F.ACC_HOLD_COUNT]

/-! `DRN_CTRL`: R121 of spec/04_accumulators_and_drain.md. -/
def F.DRN_CTRL_INJECT : Fld := ⟨0x0, 0, 1, 0, 0, .w1s⟩
def F.DRN_CTRL_LOCK : Fld := ⟨0x0, 63, 1, 0, 0, .w1s⟩
def R.DRN_CTRL : RegDef where
  name := "DRN_CTRL"
  off := 0x0
  stride := 0
  count := 1
  width := 64
  lock := some F.DRN_CTRL_LOCK
  flds := [F.DRN_CTRL_INJECT, F.DRN_CTRL_LOCK]

/-! `DRN_STATUS`: R121 of spec/04_accumulators_and_drain.md. -/
def F.DRN_STATUS_STATE : Fld := ⟨0x8, 0, 2, 0, 0, .ro⟩
def F.DRN_STATUS_CUR_TILE : Fld := ⟨0x8, 2, 4, 0, 0, .ro⟩
def F.DRN_STATUS_CUR_HALF : Fld := ⟨0x8, 6, 1, 0, 0, .ro⟩
def F.DRN_STATUS_CUR_ROW : Fld := ⟨0x8, 7, 7, 0, 0, .ro⟩
def R.DRN_STATUS : RegDef where
  name := "DRN_STATUS"
  off := 0x8
  stride := 0
  count := 1
  width := 32
  lock := none
  flds := [F.DRN_STATUS_STATE, F.DRN_STATUS_CUR_TILE, F.DRN_STATUS_CUR_HALF, F.DRN_STATUS_CUR_ROW]

/-! `DRN_ROWS`: R121 of spec/04_accumulators_and_drain.md. -/
def F.DRN_ROWS_COUNT : Fld := ⟨0x10, 0, 64, 0, 0, .ro⟩
def R.DRN_ROWS : RegDef where
  name := "DRN_ROWS"
  off := 0x10
  stride := 0
  count := 1
  width := 64
  lock := none
  flds := [F.DRN_ROWS_COUNT]

/-! `DRN_WAIT`: R121 of spec/04_accumulators_and_drain.md. -/
def F.DRN_WAIT_COUNT : Fld := ⟨0x18, 0, 64, 0, 0, .ro⟩
def R.DRN_WAIT : RegDef where
  name := "DRN_WAIT"
  off := 0x18
  stride := 0
  count := 1
  width := 64
  lock := none
  flds := [F.DRN_WAIT_COUNT]

/-! `DRN_STALL`: R121 of spec/04_accumulators_and_drain.md. -/
def F.DRN_STALL_COUNT : Fld := ⟨0x20, 0, 64, 0, 0, .ro⟩
def R.DRN_STALL : RegDef where
  name := "DRN_STALL"
  off := 0x20
  stride := 0
  count := 1
  width := 64
  lock := none
  flds := [F.DRN_STALL_COUNT]

/-! `DRN_ERR`: R121 of spec/04_accumulators_and_drain.md. -/
def F.DRN_ERR_PROF_REJ : Fld := ⟨0x28, 0, 1, 0, 0, .w1c⟩
def F.DRN_ERR_POISON : Fld := ⟨0x28, 1, 1, 0, 0, .w1c⟩
def F.DRN_ERR_UPD_DROP : Fld := ⟨0x28, 2, 1, 0, 0, .w1c⟩
def F.DRN_ERR_ABORT_DISC : Fld := ⟨0x28, 3, 1, 0, 0, .w1c⟩
def R.DRN_ERR : RegDef where
  name := "DRN_ERR"
  off := 0x28
  stride := 0
  count := 1
  width := 32
  lock := none
  flds := [F.DRN_ERR_PROF_REJ, F.DRN_ERR_POISON, F.DRN_ERR_UPD_DROP, F.DRN_ERR_ABORT_DISC]

/-! `DRN_ERRCNT`: R121 of spec/04_accumulators_and_drain.md. -/
def F.DRN_ERRCNT_PROF_REJ_CNT : Fld := ⟨0x30, 0, 16, 0, 0, .rc⟩
def F.DRN_ERRCNT_POISON_CNT : Fld := ⟨0x30, 16, 16, 0, 0, .rc⟩
def R.DRN_ERRCNT : RegDef where
  name := "DRN_ERRCNT"
  off := 0x30
  stride := 0
  count := 1
  width := 32
  lock := none
  flds := [F.DRN_ERRCNT_PROF_REJ_CNT, F.DRN_ERRCNT_POISON_CNT]

/-! `DRN_NR`: R121 of spec/04_accumulators_and_drain.md. -/
def F.DRN_NR_COUNT : Fld := ⟨0x38, 0, 32, 0, 0, .ro⟩
def R.DRN_NR : RegDef where
  name := "DRN_NR"
  off := 0x38
  stride := 0
  count := 1
  width := 32
  lock := none
  flds := [F.DRN_NR_COUNT]

/-! `DRN_PROF_A`: R121 of spec/04_accumulators_and_drain.md. -/
def F.DRN_PROF_A_BIAS_MODE : Fld := ⟨0x100, 0, 2, 0, 512, .rw⟩
def F.DRN_PROF_A_VEC_FMT : Fld := ⟨0x100, 2, 4, 3, 512, .rw⟩
def F.DRN_PROF_A_BIAS_NEG : Fld := ⟨0x100, 6, 1, 0, 512, .rw⟩
def F.DRN_PROF_A_SCALE_MODE : Fld := ⟨0x100, 7, 2, 0, 512, .rw⟩
def F.DRN_PROF_A_RES_OP : Fld := ⟨0x100, 9, 2, 0, 512, .rw⟩
def F.DRN_PROF_A_ACT : Fld := ⟨0x100, 11, 5, 0, 512, .rw⟩
def F.DRN_PROF_A_ACT_DERIV : Fld := ⟨0x100, 16, 1, 0, 512, .rw⟩
def F.DRN_PROF_A_DERIV_SRC : Fld := ⟨0x100, 17, 1, 0, 512, .rw⟩
def F.DRN_PROF_A_AUX0_FMT : Fld := ⟨0x100, 18, 4, 3, 512, .rw⟩
def F.DRN_PROF_A_AUX1_FMT : Fld := ⟨0x100, 22, 4, 3, 512, .rw⟩
def F.DRN_PROF_A_SCALE_VAL : Fld := ⟨0x100, 32, 32, 0x3f800000, 512, .rw⟩
def R.DRN_PROF_A : RegDef where
  name := "DRN_PROF_A"
  off := 0x100
  stride := 64
  count := 8
  width := 64
  lock := none
  flds := [F.DRN_PROF_A_BIAS_MODE, F.DRN_PROF_A_VEC_FMT, F.DRN_PROF_A_BIAS_NEG, F.DRN_PROF_A_SCALE_MODE, F.DRN_PROF_A_RES_OP, F.DRN_PROF_A_ACT, F.DRN_PROF_A_ACT_DERIV, F.DRN_PROF_A_DERIV_SRC, F.DRN_PROF_A_AUX0_FMT, F.DRN_PROF_A_AUX1_FMT, F.DRN_PROF_A_SCALE_VAL]

/-! `DRN_PROF_B`: R121 of spec/04_accumulators_and_drain.md. -/
def F.DRN_PROF_B_RED0_OP : Fld := ⟨0x108, 0, 4, 0, 512, .rw⟩
def F.DRN_PROF_B_RED0_TAP : Fld := ⟨0x108, 4, 2, 0, 512, .rw⟩
def F.DRN_PROF_B_RED0_K : Fld := ⟨0x108, 6, 3, 0, 512, .rw⟩
def F.DRN_PROF_B_RED1_OP : Fld := ⟨0x108, 9, 4, 0, 512, .rw⟩
def F.DRN_PROF_B_RED1_TAP : Fld := ⟨0x108, 13, 2, 0, 512, .rw⟩
def F.DRN_PROF_B_RED1_K : Fld := ⟨0x108, 15, 3, 0, 512, .rw⟩
def F.DRN_PROF_B_ACT_ALPHA : Fld := ⟨0x108, 32, 32, 0x3c23d70a, 512, .rw⟩
def R.DRN_PROF_B : RegDef where
  name := "DRN_PROF_B"
  off := 0x108
  stride := 64
  count := 8
  width := 64
  lock := none
  flds := [F.DRN_PROF_B_RED0_OP, F.DRN_PROF_B_RED0_TAP, F.DRN_PROF_B_RED0_K, F.DRN_PROF_B_RED1_OP, F.DRN_PROF_B_RED1_TAP, F.DRN_PROF_B_RED1_K, F.DRN_PROF_B_ACT_ALPHA]

/-! `DRN_PROF_C`: R121 of spec/04_accumulators_and_drain.md. -/
def F.DRN_PROF_C_OUT_FMT : Fld := ⟨0x110, 0, 4, 3, 512, .rw⟩
def F.DRN_PROF_C_RND : Fld := ⟨0x110, 4, 2, 0, 512, .rw⟩
def F.DRN_PROF_C_SAT : Fld := ⟨0x110, 6, 2, 0, 512, .rw⟩
def F.DRN_PROF_C_SCALE_SRC : Fld := ⟨0x110, 8, 2, 0, 512, .rw⟩
def F.DRN_PROF_C_OUT_SCALE : Fld := ⟨0x110, 10, 8, 127, 512, .rw⟩
def F.DRN_PROF_C_NORM_EN : Fld := ⟨0x110, 18, 1, 0, 512, .rw⟩
def F.DRN_PROF_C_NORM_TAP : Fld := ⟨0x110, 19, 2, 0, 512, .rw⟩
def F.DRN_PROF_C_NORM_TAG : Fld := ⟨0x110, 21, 12, 0, 512, .rw⟩
def F.DRN_PROF_C_STREAM : Fld := ⟨0x110, 33, 16, 0, 512, .rw⟩
def F.DRN_PROF_C_TILE_KIND : Fld := ⟨0x110, 49, 2, 0, 512, .rw⟩
def F.DRN_PROF_C_COLS : Fld := ⟨0x110, 51, 7, 0, 512, .rw⟩
def R.DRN_PROF_C : RegDef where
  name := "DRN_PROF_C"
  off := 0x110
  stride := 64
  count := 8
  width := 64
  lock := none
  flds := [F.DRN_PROF_C_OUT_FMT, F.DRN_PROF_C_RND, F.DRN_PROF_C_SAT, F.DRN_PROF_C_SCALE_SRC, F.DRN_PROF_C_OUT_SCALE, F.DRN_PROF_C_NORM_EN, F.DRN_PROF_C_NORM_TAP, F.DRN_PROF_C_NORM_TAG, F.DRN_PROF_C_STREAM, F.DRN_PROF_C_TILE_KIND, F.DRN_PROF_C_COLS]

/-! `DRN_PROF_D`: R121 of spec/04_accumulators_and_drain.md. -/
def F.DRN_PROF_D_DEST_KIND : Fld := ⟨0x118, 0, 2, 1, 512, .rw⟩
def F.DRN_PROF_D_PICOT_OP : Fld := ⟨0x118, 2, 4, 0, 512, .rw⟩
def F.DRN_PROF_D_ROW_PITCH : Fld := ⟨0x118, 6, 12, 4, 512, .rw⟩
def F.DRN_PROF_D_AUX_PITCH : Fld := ⟨0x118, 18, 12, 4, 512, .rw⟩
def F.DRN_PROF_D_SCALE_OFF : Fld := ⟨0x118, 30, 12, 0, 512, .rw⟩
def R.DRN_PROF_D : RegDef where
  name := "DRN_PROF_D"
  off := 0x118
  stride := 64
  count := 8
  width := 64
  lock := none
  flds := [F.DRN_PROF_D_DEST_KIND, F.DRN_PROF_D_PICOT_OP, F.DRN_PROF_D_ROW_PITCH, F.DRN_PROF_D_AUX_PITCH, F.DRN_PROF_D_SCALE_OFF]

/-! `DRN_PROF_E`: R121 of spec/04_accumulators_and_drain.md. -/
def F.DRN_PROF_E_RECORD : Fld := ⟨0x120, 0, 42, 0, 512, .rw⟩
def R.DRN_PROF_E : RegDef where
  name := "DRN_PROF_E"
  off := 0x120
  stride := 64
  count := 8
  width := 64
  lock := none
  flds := [F.DRN_PROF_E_RECORD]

/-! `SEQ_CTRL`: R145 of spec/05_programs_and_queues.md. -/
def F.SEQ_CTRL_GO : Fld := ⟨0x0, 0, 1, 0, 0, .wo⟩
def F.SEQ_CTRL_STOP : Fld := ⟨0x0, 1, 1, 0, 0, .wo⟩
def F.SEQ_CTRL_RESUME : Fld := ⟨0x0, 2, 1, 0, 0, .wo⟩
def F.SEQ_CTRL_STRICT : Fld := ⟨0x0, 3, 1, 0, 0, .rwl⟩
def F.SEQ_CTRL_PATCH : Fld := ⟨0x0, 4, 1, 0, 0, .rwl⟩
def F.SEQ_CTRL_LOCK : Fld := ⟨0x0, 63, 1, 0, 0, .w1s⟩
def R.SEQ_CTRL : RegDef where
  name := "SEQ_CTRL"
  off := 0x0
  stride := 0
  count := 1
  width := 64
  lock := some F.SEQ_CTRL_LOCK
  flds := [F.SEQ_CTRL_GO, F.SEQ_CTRL_STOP, F.SEQ_CTRL_RESUME, F.SEQ_CTRL_STRICT, F.SEQ_CTRL_PATCH, F.SEQ_CTRL_LOCK]

/-! `SEQ_START`: R145 of spec/05_programs_and_queues.md. -/
def F.SEQ_START_PC : Fld := ⟨0x8, 0, 13, 0, 0, .rw⟩
def F.SEQ_START_BANK : Fld := ⟨0x8, 13, 1, 0, 0, .rw⟩
def R.SEQ_START : RegDef where
  name := "SEQ_START"
  off := 0x8
  stride := 0
  count := 1
  width := 32
  lock := none
  flds := [F.SEQ_START_PC, F.SEQ_START_BANK]

/-! `SEQ_STATUS`: R145 of spec/05_programs_and_queues.md. -/
def F.SEQ_STATUS_STATE : Fld := ⟨0x10, 0, 3, 0, 0, .ro⟩
def F.SEQ_STATUS_ACTIVE_BANK : Fld := ⟨0x10, 3, 1, 0, 0, .ro⟩
def F.SEQ_STATUS_PC : Fld := ⟨0x10, 4, 13, 0, 0, .ro⟩
def F.SEQ_STATUS_BLOCK : Fld := ⟨0x10, 17, 4, 0, 0, .ro⟩
def R.SEQ_STATUS : RegDef where
  name := "SEQ_STATUS"
  off := 0x10
  stride := 0
  count := 1
  width := 64
  lock := none
  flds := [F.SEQ_STATUS_STATE, F.SEQ_STATUS_ACTIVE_BANK, F.SEQ_STATUS_PC, F.SEQ_STATUS_BLOCK]

/-! `SEQ_QDEPTH`: R145 of spec/05_programs_and_queues.md. -/
def F.SEQ_QDEPTH_D : Fld := ⟨0x18, 0, 7, 0, 8, .ro⟩
def R.SEQ_QDEPTH : RegDef where
  name := "SEQ_QDEPTH"
  off := 0x18
  stride := 0
  count := 1
  width := 64
  lock := none
  flds := F.pack F.SEQ_QDEPTH_D 8 0

/-! `SEQ_WAITLIMIT`: R145 of spec/05_programs_and_queues.md. -/
def F.SEQ_WAITLIMIT_LIMIT : Fld := ⟨0x20, 0, 32, 0, 0, .rw⟩
def R.SEQ_WAITLIMIT : RegDef where
  name := "SEQ_WAITLIMIT"
  off := 0x20
  stride := 0
  count := 1
  width := 32
  lock := none
  flds := [F.SEQ_WAITLIMIT_LIMIT]

/-! `SEQ_FLAGEXT`: R145 of spec/05_programs_and_queues.md. -/
def F.SEQ_FLAGEXT_MASK : Fld := ⟨0x28, 0, 64, 0, 0, .rw⟩
def R.SEQ_FLAGEXT : RegDef where
  name := "SEQ_FLAGEXT"
  off := 0x28
  stride := 0
  count := 1
  width := 64
  lock := none
  flds := [F.SEQ_FLAGEXT_MASK]

/-! `SEQ_FLAGSIG`: R145 of spec/05_programs_and_queues.md. -/
def F.SEQ_FLAGSIG_FLAG : Fld := ⟨0x30, 0, 6, 0, 0, .wo⟩
def F.SEQ_FLAGSIG_COUNT : Fld := ⟨0x30, 16, 16, 0, 0, .wo⟩
def R.SEQ_FLAGSIG : RegDef where
  name := "SEQ_FLAGSIG"
  off := 0x30
  stride := 0
  count := 1
  width := 32
  lock := none
  flds := [F.SEQ_FLAGSIG_FLAG, F.SEQ_FLAGSIG_COUNT]

/-! `SEQ_ILLCNT`: R145 of spec/05_programs_and_queues.md. -/
def F.SEQ_ILLCNT_COUNT : Fld := ⟨0x38, 0, 32, 0, 0, .rc⟩
def R.SEQ_ILLCNT : RegDef where
  name := "SEQ_ILLCNT"
  off := 0x38
  stride := 0
  count := 1
  width := 32
  lock := none
  flds := [F.SEQ_ILLCNT_COUNT]

/-! `SEQ_ILLPTR`: R145 of spec/05_programs_and_queues.md. -/
def F.SEQ_ILLPTR_NEXT : Fld := ⟨0x40, 0, 5, 0, 0, .ro⟩
def F.SEQ_ILLPTR_WRAPPED : Fld := ⟨0x40, 5, 1, 0, 0, .ro⟩
def R.SEQ_ILLPTR : RegDef where
  name := "SEQ_ILLPTR"
  off := 0x40
  stride := 0
  count := 1
  width := 32
  lock := none
  flds := [F.SEQ_ILLPTR_NEXT, F.SEQ_ILLPTR_WRAPPED]

/-! `SEQ_STALL_FULL`: R145 of spec/05_programs_and_queues.md. -/
def F.SEQ_STALL_FULL_COUNT : Fld := ⟨0x48, 0, 64, 0, 0, .ro⟩
def R.SEQ_STALL_FULL : RegDef where
  name := "SEQ_STALL_FULL"
  off := 0x48
  stride := 0
  count := 1
  width := 64
  lock := none
  flds := [F.SEQ_STALL_FULL_COUNT]

/-! `SEQ_STALL_REG`: R145 of spec/05_programs_and_queues.md. -/
def F.SEQ_STALL_REG_COUNT : Fld := ⟨0x50, 0, 64, 0, 0, .ro⟩
def R.SEQ_STALL_REG : RegDef where
  name := "SEQ_STALL_REG"
  off := 0x50
  stride := 0
  count := 1
  width := 64
  lock := none
  flds := [F.SEQ_STALL_REG_COUNT]

/-! `SEQ_FETCH`: R145 of spec/05_programs_and_queues.md. -/
def F.SEQ_FETCH_COUNT : Fld := ⟨0x58, 0, 64, 0, 0, .ro⟩
def R.SEQ_FETCH : RegDef where
  name := "SEQ_FETCH"
  off := 0x58
  stride := 0
  count := 1
  width := 64
  lock := none
  flds := [F.SEQ_FETCH_COUNT]

/-! `SEQ_ABORT`: R145 of spec/05_programs_and_queues.md. -/
def F.SEQ_ABORT_CAUSE : Fld := ⟨0x60, 0, 4, 0, 0, .ro⟩
def F.SEQ_ABORT_QMASK : Fld := ⟨0x60, 4, 9, 0, 0, .ro⟩
def F.SEQ_ABORT_IADDR : Fld := ⟨0x60, 13, 14, 0, 0, .ro⟩
def R.SEQ_ABORT : RegDef where
  name := "SEQ_ABORT"
  off := 0x60
  stride := 0
  count := 1
  width := 64
  lock := none
  flds := [F.SEQ_ABORT_CAUSE, F.SEQ_ABORT_QMASK, F.SEQ_ABORT_IADDR]

/-! `SEQ_ABORTFLAG`: R145 of spec/05_programs_and_queues.md. -/
def F.SEQ_ABORTFLAG_WHO : Fld := ⟨0x68, 0, 6, 0, 6, .ro⟩
def R.SEQ_ABORTFLAG : RegDef where
  name := "SEQ_ABORTFLAG"
  off := 0x68
  stride := 0
  count := 1
  width := 64
  lock := none
  flds := F.pack F.SEQ_ABORTFLAG_WHO 9 0

/-! `SEQ_IMEMREJ`: R145 of spec/05_programs_and_queues.md. -/
def F.SEQ_IMEMREJ_COUNT : Fld := ⟨0x70, 0, 16, 0, 0, .rc⟩
def F.SEQ_IMEMREJ_OFFSET : Fld := ⟨0x70, 16, 18, 0, 0, .ro⟩
def F.SEQ_IMEMREJ_SOURCE : Fld := ⟨0x70, 34, 2, 0, 0, .ro⟩
def F.SEQ_IMEMREJ_KIND : Fld := ⟨0x70, 36, 1, 0, 0, .ro⟩
def R.SEQ_IMEMREJ : RegDef where
  name := "SEQ_IMEMREJ"
  off := 0x70
  stride := 0
  count := 1
  width := 64
  lock := none
  flds := [F.SEQ_IMEMREJ_COUNT, F.SEQ_IMEMREJ_OFFSET, F.SEQ_IMEMREJ_SOURCE, F.SEQ_IMEMREJ_KIND]

/-! `SEQ_ERR`: R145 of spec/05_programs_and_queues.md. -/
def F.SEQ_ERR_FLAG_OVF : Fld := ⟨0x78, 0, 1, 0, 0, .w1c⟩
def F.SEQ_ERR_IMEM_REJ : Fld := ⟨0x78, 1, 1, 0, 0, .w1c⟩
def F.SEQ_ERR_ILLEGAL : Fld := ⟨0x78, 2, 1, 0, 0, .w1c⟩
def F.SEQ_ERR_WR_REJ : Fld := ⟨0x78, 3, 1, 0, 0, .w1c⟩
def R.SEQ_ERR : RegDef where
  name := "SEQ_ERR"
  off := 0x78
  stride := 0
  count := 1
  width := 32
  lock := none
  flds := [F.SEQ_ERR_FLAG_OVF, F.SEQ_ERR_IMEM_REJ, F.SEQ_ERR_ILLEGAL, F.SEQ_ERR_WR_REJ]

/-! `SEQ_SIGDROP`: R145 of spec/05_programs_and_queues.md. -/
def F.SEQ_SIGDROP_COUNT : Fld := ⟨0x80, 0, 32, 0, 0, .rc⟩
def R.SEQ_SIGDROP : RegDef where
  name := "SEQ_SIGDROP"
  off := 0x80
  stride := 0
  count := 1
  width := 32
  lock := none
  flds := [F.SEQ_SIGDROP_COUNT]

/-! `SEQ_FLAG`: R145 of spec/05_programs_and_queues.md. -/
def F.SEQ_FLAG_VALUE : Fld := ⟨0x200, 0, 16, 0, 16, .rw⟩
def R.SEQ_FLAG : RegDef where
  name := "SEQ_FLAG"
  off := 0x200
  stride := 8
  count := 16
  width := 64
  lock := none
  flds := F.pack F.SEQ_FLAG_VALUE 4 64

/-! `SEQ_X`: R145 of spec/05_programs_and_queues.md. -/
def F.SEQ_X_VALUE : Fld := ⟨0x300, 0, 64, 0, 64, .rw⟩
def R.SEQ_X : RegDef where
  name := "SEQ_X"
  off := 0x300
  stride := 8
  count := 32
  width := 64
  lock := none
  flds := [F.SEQ_X_VALUE]

/-! `SPD_CTRL`: R193 of spec/07_scratchpads_and_windows.md. -/
def F.SPD_CTRL_INJECT : Fld := ⟨0x0, 0, 1, 0, 0, .w1s⟩
def F.SPD_CTRL_CREDIT_FORCE : Fld := ⟨0x0, 1, 1, 0, 0, .rwl⟩
def F.SPD_CTRL_LOCK : Fld := ⟨0x0, 63, 1, 0, 0, .w1s⟩
def R.SPD_CTRL : RegDef where
  name := "SPD_CTRL"
  off := 0x0
  stride := 0
  count := 1
  width := 64
  lock := some F.SPD_CTRL_LOCK
  flds := [F.SPD_CTRL_INJECT, F.SPD_CTRL_CREDIT_FORCE, F.SPD_CTRL_LOCK]

/-! `SPD_WINOPEN`: R193 of spec/07_scratchpads_and_windows.md. -/
def F.SPD_WINOPEN_OPEN : Fld := ⟨0x8, 0, 16, 0, 0, .ro⟩
def F.SPD_WINOPEN_DRAINING : Fld := ⟨0x8, 16, 16, 0, 0, .ro⟩
def R.SPD_WINOPEN : RegDef where
  name := "SPD_WINOPEN"
  off := 0x8
  stride := 0
  count := 1
  width := 32
  lock := none
  flds := [F.SPD_WINOPEN_OPEN, F.SPD_WINOPEN_DRAINING]

/-! `SPD_LATEDROP`: R193 of spec/07_scratchpads_and_windows.md. -/
def F.SPD_LATEDROP_COUNT : Fld := ⟨0x10, 0, 32, 0, 0, .rc⟩
def R.SPD_LATEDROP : RegDef where
  name := "SPD_LATEDROP"
  off := 0x10
  stride := 0
  count := 1
  width := 32
  lock := none
  flds := [F.SPD_LATEDROP_COUNT]

/-! `SPD_REFUSED`: R193 of spec/07_scratchpads_and_windows.md. -/
def F.SPD_REFUSED_NOTOPEN : Fld := ⟨0x18, 0, 16, 0, 0, .rc⟩
def F.SPD_REFUSED_EXTERNAL : Fld := ⟨0x18, 16, 16, 0, 0, .rc⟩
def F.SPD_REFUSED_RANGE : Fld := ⟨0x18, 32, 16, 0, 0, .rc⟩
def F.SPD_REFUSED_NOCREDIT : Fld := ⟨0x18, 48, 16, 0, 0, .rc⟩
def R.SPD_REFUSED : RegDef where
  name := "SPD_REFUSED"
  off := 0x18
  stride := 0
  count := 1
  width := 64
  lock := none
  flds := [F.SPD_REFUSED_NOTOPEN, F.SPD_REFUSED_EXTERNAL, F.SPD_REFUSED_RANGE, F.SPD_REFUSED_NOCREDIT]

/-! `SPD_RESETDROP`: R193 of spec/07_scratchpads_and_windows.md. -/
def F.SPD_RESETDROP_COUNT : Fld := ⟨0x20, 0, 32, 0, 0, .rc⟩
def R.SPD_RESETDROP : RegDef where
  name := "SPD_RESETDROP"
  off := 0x20
  stride := 0
  count := 1
  width := 32
  lock := none
  flds := [F.SPD_RESETDROP_COUNT]

/-! `SPD_LASTREF`: R193 of spec/07_scratchpads_and_windows.md. -/
def F.SPD_LASTREF_VERDICT : Fld := ⟨0x28, 0, 8, 0, 0, .ro⟩
def F.SPD_LASTREF_WINDOW : Fld := ⟨0x28, 8, 4, 0, 0, .ro⟩
def F.SPD_LASTREF_SRC_CORE : Fld := ⟨0x28, 12, 6, 0, 0, .ro⟩
def F.SPD_LASTREF_SRC_MODULE : Fld := ⟨0x28, 20, 16, 0, 0, .ro⟩
def F.SPD_LASTREF_OFFSET : Fld := ⟨0x28, 36, 24, 0, 0, .ro⟩
def R.SPD_LASTREF : RegDef where
  name := "SPD_LASTREF"
  off := 0x28
  stride := 0
  count := 1
  width := 64
  lock := none
  flds := [F.SPD_LASTREF_VERDICT, F.SPD_LASTREF_WINDOW, F.SPD_LASTREF_SRC_CORE, F.SPD_LASTREF_SRC_MODULE, F.SPD_LASTREF_OFFSET]

/-! `SPD_CREDIT`: R193 of spec/07_scratchpads_and_windows.md. -/
def F.SPD_CREDIT_QDEPTH : Fld := ⟨0x30, 0, 5, 0, 0, .ro⟩
def F.SPD_CREDIT_REFUSED : Fld := ⟨0x30, 16, 16, 0, 0, .rc⟩
def F.SPD_CREDIT_ISSUED_REF : Fld := ⟨0x30, 32, 16, 0, 0, .rc⟩
def R.SPD_CREDIT : RegDef where
  name := "SPD_CREDIT"
  off := 0x30
  stride := 0
  count := 1
  width := 64
  lock := none
  flds := [F.SPD_CREDIT_QDEPTH, F.SPD_CREDIT_REFUSED, F.SPD_CREDIT_ISSUED_REF]

/-! `SPD_CONFLICT`: R193 of spec/07_scratchpads_and_windows.md. -/
def F.SPD_CONFLICT_COUNT : Fld := ⟨0x38, 0, 64, 0, 0, .ro⟩
def R.SPD_CONFLICT : RegDef where
  name := "SPD_CONFLICT"
  off := 0x38
  stride := 0
  count := 1
  width := 64
  lock := none
  flds := [F.SPD_CONFLICT_COUNT]

/-! `SPD_ECC`: R193 of spec/07_scratchpads_and_windows.md. -/
def F.SPD_ECC_CORR : Fld := ⟨0x40, 0, 16, 0, 0, .rc⟩
def F.SPD_ECC_UNCORR : Fld := ⟨0x40, 16, 16, 0, 0, .rc⟩
def F.SPD_ECC_APERTURE_REJ : Fld := ⟨0x40, 32, 16, 0, 0, .rc⟩
def R.SPD_ECC : RegDef where
  name := "SPD_ECC"
  off := 0x40
  stride := 0
  count := 1
  width := 64
  lock := none
  flds := [F.SPD_ECC_CORR, F.SPD_ECC_UNCORR, F.SPD_ECC_APERTURE_REJ]

/-! `SPD_ECC_ADDR`: R193 of spec/07_scratchpads_and_windows.md. -/
def F.SPD_ECC_ADDR_OFFSET : Fld := ⟨0x48, 0, 24, 0, 0, .ro⟩
def F.SPD_ECC_ADDR_BANK : Fld := ⟨0x48, 24, 6, 0, 0, .ro⟩
def R.SPD_ECC_ADDR : RegDef where
  name := "SPD_ECC_ADDR"
  off := 0x48
  stride := 0
  count := 1
  width := 32
  lock := none
  flds := [F.SPD_ECC_ADDR_OFFSET, F.SPD_ECC_ADDR_BANK]

/-! `SPD_SPARE`: R193 of spec/07_scratchpads_and_windows.md. -/
def F.SPD_SPARE_BANK_A : Fld := ⟨0x50, 0, 6, 0x3F, 0, .ro⟩
def F.SPD_SPARE_BANK_B : Fld := ⟨0x50, 6, 6, 0x3F, 0, .ro⟩
def F.SPD_SPARE_USED : Fld := ⟨0x50, 12, 2, 0, 0, .ro⟩
def R.SPD_SPARE : RegDef where
  name := "SPD_SPARE"
  off := 0x50
  stride := 0
  count := 1
  width := 32
  lock := none
  flds := [F.SPD_SPARE_BANK_A, F.SPD_SPARE_BANK_B, F.SPD_SPARE_USED]

/-! `SPD_ABORTKIND`: R193 of spec/07_scratchpads_and_windows.md. -/
def F.SPD_ABORTKIND_KIND : Fld := ⟨0x58, 0, 9, 0, 0, .ro⟩
def R.SPD_ABORTKIND : RegDef where
  name := "SPD_ABORTKIND"
  off := 0x58
  stride := 0
  count := 1
  width := 32
  lock := none
  flds := [F.SPD_ABORTKIND_KIND]

/-! `SPD_ERR`: R193 of spec/07_scratchpads_and_windows.md. -/
def F.SPD_ERR_CNT_OVF : Fld := ⟨0x60, 0, 1, 0, 0, .w1c⟩
def F.SPD_ERR_CRED_REF : Fld := ⟨0x60, 1, 1, 0, 0, .w1c⟩
def F.SPD_ERR_POISON : Fld := ⟨0x60, 2, 1, 0, 0, .w1c⟩
def F.SPD_ERR_LAND_OVF : Fld := ⟨0x60, 3, 1, 0, 0, .w1c⟩
def R.SPD_ERR : RegDef where
  name := "SPD_ERR"
  off := 0x60
  stride := 0
  count := 1
  width := 32
  lock := none
  flds := [F.SPD_ERR_CNT_OVF, F.SPD_ERR_CRED_REF, F.SPD_ERR_POISON, F.SPD_ERR_LAND_OVF]

/-! `SPD_WIN_A`: R193 of spec/07_scratchpads_and_windows.md. -/
def F.SPD_WIN_A_BASE : Fld := ⟨0x100, 0, 24, 0, 128, .ro⟩
def F.SPD_WIN_A_LEN : Fld := ⟨0x100, 24, 24, 0, 128, .ro⟩
def F.SPD_WIN_A_COUNTER : Fld := ⟨0x100, 48, 5, 0, 128, .ro⟩
def F.SPD_WIN_A_CREDIT : Fld := ⟨0x100, 53, 1, 0, 128, .ro⟩
def F.SPD_WIN_A_EXT : Fld := ⟨0x100, 54, 1, 0, 128, .ro⟩
def R.SPD_WIN_A : RegDef where
  name := "SPD_WIN_A"
  off := 0x100
  stride := 16
  count := 16
  width := 64
  lock := none
  flds := [F.SPD_WIN_A_BASE, F.SPD_WIN_A_LEN, F.SPD_WIN_A_COUNTER, F.SPD_WIN_A_CREDIT, F.SPD_WIN_A_EXT]

/-! `SPD_WIN_B`: R193 of spec/07_scratchpads_and_windows.md. -/
def F.SPD_WIN_B_GEN : Fld := ⟨0x108, 0, 16, 0, 128, .ro⟩
def F.SPD_WIN_B_POOL : Fld := ⟨0x108, 16, 24, 0, 128, .ro⟩
def R.SPD_WIN_B : RegDef where
  name := "SPD_WIN_B"
  off := 0x108
  stride := 16
  count := 16
  width := 64
  lock := none
  flds := [F.SPD_WIN_B_GEN, F.SPD_WIN_B_POOL]

/-! `SPD_ARRIVE`: R193 of spec/07_scratchpads_and_windows.md. -/
def F.SPD_ARRIVE_COUNT : Fld := ⟨0x300, 0, 32, 0, 64, .ro⟩
def R.SPD_ARRIVE : RegDef where
  name := "SPD_ARRIVE"
  off := 0x300
  stride := 8
  count := 32
  width := 32
  lock := none
  flds := [F.SPD_ARRIVE_COUNT]

/-! `NET_FRAME`: R221 of spec/08_pricking_network.md. -/
def F.NET_FRAME_LEN : Fld := ⟨0x0, 0, 9, 64, 0, .rw⟩
def R.NET_FRAME : RegDef where
  name := "NET_FRAME"
  off := 0x0
  stride := 0
  count := 1
  width := 32
  lock := none
  flds := [F.NET_FRAME_LEN]

/-! `NET_SLOT`: R221 of spec/08_pricking_network.md. -/
def F.NET_SLOT_FRAME : Fld := ⟨0x8, 0, 48, 0, 0, .ro⟩
def F.NET_SLOT_SLOT : Fld := ⟨0x8, 48, 8, 0, 0, .ro⟩
def R.NET_SLOT : RegDef where
  name := "NET_SLOT"
  off := 0x8
  stride := 0
  count := 1
  width := 64
  lock := none
  flds := [F.NET_SLOT_FRAME, F.NET_SLOT_SLOT]

/-! `NET_SUPPRESS`: R221 of spec/08_pricking_network.md. -/
def F.NET_SUPPRESS_DUTY : Fld := ⟨0x10, 0, 4, 0, 0, .ro⟩
def F.NET_SUPPRESS_FRAMES : Fld := ⟨0x10, 16, 48, 0, 0, .ro⟩
def R.NET_SUPPRESS : RegDef where
  name := "NET_SUPPRESS"
  off := 0x10
  stride := 0
  count := 1
  width := 64
  lock := none
  flds := [F.NET_SUPPRESS_DUTY, F.NET_SUPPRESS_FRAMES]

/-! `NET_LOAD`: R221 of spec/08_pricking_network.md. -/
def F.NET_LOAD_PART : Fld := ⟨0x18, 0, 4, 0, 0, .rw⟩
def F.NET_LOAD_COMMIT : Fld := ⟨0x18, 4, 1, 0, 0, .wo⟩
def F.NET_LOAD_STATUS : Fld := ⟨0x18, 5, 2, 0, 0, .ro⟩
def F.NET_LOAD_REASON : Fld := ⟨0x18, 8, 4, 0, 0, .ro⟩
def F.NET_LOAD_FAIL_DIE : Fld := ⟨0x18, 12, 2, 0, 0, .ro⟩
def F.NET_LOAD_FAIL_ROUTER : Fld := ⟨0x18, 14, 4, 0, 0, .ro⟩
def F.NET_LOAD_FAIL_LANE : Fld := ⟨0x18, 18, 5, 0, 0, .ro⟩
def F.NET_LOAD_FAIL_SLOT : Fld := ⟨0x18, 23, 8, 0, 0, .ro⟩
def R.NET_LOAD : RegDef where
  name := "NET_LOAD"
  off := 0x18
  stride := 0
  count := 1
  width := 64
  lock := none
  flds := [F.NET_LOAD_PART, F.NET_LOAD_COMMIT, F.NET_LOAD_STATUS, F.NET_LOAD_REASON, F.NET_LOAD_FAIL_DIE, F.NET_LOAD_FAIL_ROUTER, F.NET_LOAD_FAIL_LANE, F.NET_LOAD_FAIL_SLOT]

/-! `NET_YIELDID`: R221 of spec/08_pricking_network.md. -/
def F.NET_YIELDID_ID : Fld := ⟨0x20, 0, 64, 0, 0, .ro⟩
def R.NET_YIELDID : RegDef where
  name := "NET_YIELDID"
  off := 0x20
  stride := 0
  count := 1
  width := 64
  lock := none
  flds := [F.NET_YIELDID_ID]

/-! `NET_LOADID`: R221 of spec/08_pricking_network.md. -/
def F.NET_LOADID_ID : Fld := ⟨0x28, 0, 64, 0, 0, .rw⟩
def R.NET_LOADID : RegDef where
  name := "NET_LOADID"
  off := 0x28
  stride := 0
  count := 1
  width := 64
  lock := none
  flds := [F.NET_LOADID_ID]

/-! `NET_PARTHOLD`: R221 of spec/08_pricking_network.md. -/
def F.NET_PARTHOLD_HOLD : Fld := ⟨0x30, 0, 16, 0, 0, .ro⟩
def R.NET_PARTHOLD : RegDef where
  name := "NET_PARTHOLD"
  off := 0x30
  stride := 0
  count := 1
  width := 32
  lock := none
  flds := [F.NET_PARTHOLD_HOLD]

/-! `NET_ACTIVE`: R221 of spec/08_pricking_network.md. -/
def F.NET_ACTIVE_BANK : Fld := ⟨0x38, 0, 1, 0, 0, .ro⟩
def R.NET_ACTIVE : RegDef where
  name := "NET_ACTIVE"
  off := 0x38
  stride := 0
  count := 1
  width := 32
  lock := none
  flds := [F.NET_ACTIVE_BANK]

/-! `NET_ERR`: R221 of spec/08_pricking_network.md. -/
def F.NET_ERR_PARITY : Fld := ⟨0x40, 0, 1, 0, 0, .w1c⟩
def F.NET_ERR_MERGE_OVF : Fld := ⟨0x40, 1, 1, 0, 0, .w1c⟩
def F.NET_ERR_BRIDGE : Fld := ⟨0x40, 2, 1, 0, 0, .w1c⟩
def F.NET_ERR_WR_REJ : Fld := ⟨0x40, 3, 1, 0, 0, .w1c⟩
def R.NET_ERR : RegDef where
  name := "NET_ERR"
  off := 0x40
  stride := 0
  count := 1
  width := 32
  lock := none
  flds := [F.NET_ERR_PARITY, F.NET_ERR_MERGE_OVF, F.NET_ERR_BRIDGE, F.NET_ERR_WR_REJ]

/-! `NET_ERRCNT`: R221 of spec/08_pricking_network.md. -/
def F.NET_ERRCNT_PARITY_CNT : Fld := ⟨0x48, 0, 16, 0, 0, .rc⟩
def F.NET_ERRCNT_MERGE_OVF_CNT : Fld := ⟨0x48, 16, 16, 0, 0, .rc⟩
def R.NET_ERRCNT : RegDef where
  name := "NET_ERRCNT"
  off := 0x48
  stride := 0
  count := 1
  width := 32
  lock := none
  flds := [F.NET_ERRCNT_PARITY_CNT, F.NET_ERRCNT_MERGE_OVF_CNT]

/-! `NET_MERGEQ`: R221 of spec/08_pricking_network.md. -/
def F.NET_MERGEQ_PEAK : Fld := ⟨0x50, 0, 7, 0, 0, .rc⟩
def R.NET_MERGEQ : RegDef where
  name := "NET_MERGEQ"
  off := 0x50
  stride := 0
  count := 1
  width := 32
  lock := none
  flds := [F.NET_MERGEQ_PEAK]

/-! `NET_NRCNT`: R221 of spec/08_pricking_network.md. -/
def F.NET_NRCNT_COUNT : Fld := ⟨0x58, 0, 64, 0, 0, .ro⟩
def R.NET_NRCNT : RegDef where
  name := "NET_NRCNT"
  off := 0x58
  stride := 0
  count := 1
  width := 64
  lock := none
  flds := [F.NET_NRCNT_COUNT]

/-! `NET_LATEMAX`: R221 of spec/08_pricking_network.md. -/
def F.NET_LATEMAX_LATE : Fld := ⟨0x60, 0, 16, 0, 0, .rc⟩
def R.NET_LATEMAX : RegDef where
  name := "NET_LATEMAX"
  off := 0x60
  stride := 0
  count := 1
  width := 32
  lock := none
  flds := [F.NET_LATEMAX_LATE]

/-! `NET_BRIDGE`: R221 of spec/08_pricking_network.md. -/
def F.NET_BRIDGE_UP : Fld := ⟨0x68, 0, 2, 0, 0, .ro⟩
def F.NET_BRIDGE_LATENCY : Fld := ⟨0x68, 8, 8, 24, 0, .ro⟩
def F.NET_BRIDGE_RETRY : Fld := ⟨0x68, 32, 32, 0, 0, .rc⟩
def R.NET_BRIDGE : RegDef where
  name := "NET_BRIDGE"
  off := 0x68
  stride := 0
  count := 1
  width := 64
  lock := none
  flds := [F.NET_BRIDGE_UP, F.NET_BRIDGE_LATENCY, F.NET_BRIDGE_RETRY]

/-! `BOB_CTRL`: R243 of spec/09_bobbins_and_streaming.md. -/
def F.BOB_CTRL_RESERVE : Fld := ⟨0x0, 0, 8, 64, 0, .rwl⟩
def F.BOB_CTRL_LOCK : Fld := ⟨0x0, 63, 1, 0, 0, .w1s⟩
def R.BOB_CTRL : RegDef where
  name := "BOB_CTRL"
  off := 0x0
  stride := 0
  count := 1
  width := 64
  lock := some F.BOB_CTRL_LOCK
  flds := [F.BOB_CTRL_RESERVE, F.BOB_CTRL_LOCK]

/-! `BOB_STATUS`: R243 of spec/09_bobbins_and_streaming.md. -/
def F.BOB_STATUS_CTX : Fld := ⟨0x8, 0, 4, 0, 0, .ro⟩
def F.BOB_STATUS_TAGS : Fld := ⟨0x8, 4, 10, 0, 0, .ro⟩
def F.BOB_STATUS_RINGWAIT : Fld := ⟨0x8, 14, 1, 0, 0, .ro⟩
def F.BOB_STATUS_REGWAIT : Fld := ⟨0x8, 15, 1, 0, 0, .ro⟩
def F.BOB_STATUS_FAULTSTOP : Fld := ⟨0x8, 16, 1, 0, 0, .ro⟩
def R.BOB_STATUS : RegDef where
  name := "BOB_STATUS"
  off := 0x8
  stride := 0
  count := 1
  width := 64
  lock := none
  flds := [F.BOB_STATUS_CTX, F.BOB_STATUS_TAGS, F.BOB_STATUS_RINGWAIT, F.BOB_STATUS_REGWAIT, F.BOB_STATUS_FAULTSTOP]

/-! `BOB_XFERS`: R243 of spec/09_bobbins_and_streaming.md. -/
def F.BOB_XFERS_COUNT : Fld := ⟨0x10, 0, 64, 0, 0, .ro⟩
def R.BOB_XFERS : RegDef where
  name := "BOB_XFERS"
  off := 0x10
  stride := 0
  count := 1
  width := 64
  lock := none
  flds := [F.BOB_XFERS_COUNT]

/-! `BOB_BYTES`: R243 of spec/09_bobbins_and_streaming.md. -/
def F.BOB_BYTES_COUNT : Fld := ⟨0x18, 0, 64, 0, 0, .ro⟩
def R.BOB_BYTES : RegDef where
  name := "BOB_BYTES"
  off := 0x18
  stride := 0
  count := 1
  width := 64
  lock := none
  flds := [F.BOB_BYTES_COUNT]

/-! `BOB_REQS`: R243 of spec/09_bobbins_and_streaming.md. -/
def F.BOB_REQS_COUNT : Fld := ⟨0x20, 0, 64, 0, 0, .ro⟩
def R.BOB_REQS : RegDef where
  name := "BOB_REQS"
  off := 0x20
  stride := 0
  count := 1
  width := 64
  lock := none
  flds := [F.BOB_REQS_COUNT]

/-! `BOB_REGHOLD`: R243 of spec/09_bobbins_and_streaming.md. -/
def F.BOB_REGHOLD_COUNT : Fld := ⟨0x28, 0, 64, 0, 0, .ro⟩
def R.BOB_REGHOLD : RegDef where
  name := "BOB_REGHOLD"
  off := 0x28
  stride := 0
  count := 1
  width := 64
  lock := none
  flds := [F.BOB_REGHOLD_COUNT]

/-! `BOB_TAGHOLD`: R243 of spec/09_bobbins_and_streaming.md. -/
def F.BOB_TAGHOLD_COUNT : Fld := ⟨0x30, 0, 64, 0, 0, .ro⟩
def R.BOB_TAGHOLD : RegDef where
  name := "BOB_TAGHOLD"
  off := 0x30
  stride := 0
  count := 1
  width := 64
  lock := none
  flds := [F.BOB_TAGHOLD_COUNT]

/-! `BOB_ERR`: R243 of spec/09_bobbins_and_streaming.md. -/
def F.BOB_ERR_FAULT : Fld := ⟨0x38, 0, 1, 0, 0, .w1c⟩
def F.BOB_ERR_REFUSED : Fld := ⟨0x38, 1, 1, 0, 0, .w1c⟩
def F.BOB_ERR_RING_REJ : Fld := ⟨0x38, 2, 1, 0, 0, .w1c⟩
def F.BOB_ERR_POISON : Fld := ⟨0x38, 3, 1, 0, 0, .w1c⟩
def F.BOB_ERR_ALLOT_REJ : Fld := ⟨0x38, 4, 1, 0, 0, .w1c⟩
def R.BOB_ERR : RegDef where
  name := "BOB_ERR"
  off := 0x38
  stride := 0
  count := 1
  width := 32
  lock := none
  flds := [F.BOB_ERR_FAULT, F.BOB_ERR_REFUSED, F.BOB_ERR_RING_REJ, F.BOB_ERR_POISON, F.BOB_ERR_ALLOT_REJ]

/-! `BOB_REFCNT`: R243 of spec/09_bobbins_and_streaming.md. -/
def F.BOB_REFCNT_COUNT : Fld := ⟨0x40, 0, 32, 0, 0, .rc⟩
def R.BOB_REFCNT : RegDef where
  name := "BOB_REFCNT"
  off := 0x40
  stride := 0
  count := 1
  width := 32
  lock := none
  flds := [F.BOB_REFCNT_COUNT]

/-! `BOB_COPYREC`: R243 of spec/09_bobbins_and_streaming.md. -/
def F.BOB_COPYREC_OFFSET : Fld := ⟨0x48, 0, 24, 0, 0, .rw⟩
def F.BOB_COPYREC_EN : Fld := ⟨0x48, 24, 1, 0, 0, .rw⟩
def R.BOB_COPYREC : RegDef where
  name := "BOB_COPYREC"
  off := 0x48
  stride := 0
  count := 1
  width := 64
  lock := none
  flds := [F.BOB_COPYREC_OFFSET, F.BOB_COPYREC_EN]

/-! `BOB_REG`: R243 of spec/09_bobbins_and_streaming.md. -/
def F.BOB_REG_RATE : Fld := ⟨0x80, 0, 20, 0, 64, .rw⟩
def F.BOB_REG_BURST : Fld := ⟨0x80, 20, 24, 0x1000, 64, .rw⟩
def R.BOB_REG : RegDef where
  name := "BOB_REG"
  off := 0x80
  stride := 8
  count := 8
  width := 64
  lock := none
  flds := [F.BOB_REG_RATE, F.BOB_REG_BURST]

/-! `BOB_TAGS`: R243 of spec/09_bobbins_and_streaming.md. -/
def F.BOB_TAGS_INUSE : Fld := ⟨0x800, 0, 10, 0, 0, .ro⟩
def F.BOB_TAGS_PEAK : Fld := ⟨0x800, 16, 10, 0, 0, .rc⟩
def R.BOB_TAGS : RegDef where
  name := "BOB_TAGS"
  off := 0x800
  stride := 0
  count := 1
  width := 32
  lock := none
  flds := [F.BOB_TAGS_INUSE, F.BOB_TAGS_PEAK]

/-! `BOB_ABORTKIND`: R243 of spec/09_bobbins_and_streaming.md. -/
def F.BOB_ABORTKIND_KIND : Fld := ⟨0x808, 0, 2, 0, 0, .ro⟩
def R.BOB_ABORTKIND : RegDef where
  name := "BOB_ABORTKIND"
  off := 0x808
  stride := 0
  count := 1
  width := 32
  lock := none
  flds := [F.BOB_ABORTKIND_KIND]

/-! `BOB_ALLOT`: R243 of spec/09_bobbins_and_streaming.md. -/
def F.BOB_ALLOT_STREAM : Fld := ⟨0x900, 0, 12, 0, 64, .rw⟩
def F.BOB_ALLOT_FLITS : Fld := ⟨0x900, 12, 13, 0, 64, .rw⟩
def F.BOB_ALLOT_VALID : Fld := ⟨0x900, 25, 1, 0, 64, .rw⟩
def R.BOB_ALLOT : RegDef where
  name := "BOB_ALLOT"
  off := 0x900
  stride := 8
  count := 32
  width := 64
  lock := none
  flds := [F.BOB_ALLOT_STREAM, F.BOB_ALLOT_FLITS, F.BOB_ALLOT_VALID]

/-! `BOB_RING_CFG`: R243 of spec/09_bobbins_and_streaming.md. -/
def F.BOB_RING_CFG_BASE : Fld := ⟨0x1000, 0, 24, 0, 128, .rw⟩
def F.BOB_RING_CFG_SLOT_SIZE : Fld := ⟨0x1000, 24, 24, 0, 128, .rw⟩
def F.BOB_RING_CFG_NSLOTS : Fld := ⟨0x1000, 48, 5, 0, 128, .rw⟩
def F.BOB_RING_CFG_PRODUCER : Fld := ⟨0x1000, 53, 1, 0, 128, .rw⟩
def F.BOB_RING_CFG_ENABLE : Fld := ⟨0x1000, 54, 1, 0, 128, .rw⟩
def R.BOB_RING_CFG : RegDef where
  name := "BOB_RING_CFG"
  off := 0x1000
  stride := 16
  count := 16
  width := 64
  lock := none
  flds := [F.BOB_RING_CFG_BASE, F.BOB_RING_CFG_SLOT_SIZE, F.BOB_RING_CFG_NSLOTS, F.BOB_RING_CFG_PRODUCER, F.BOB_RING_CFG_ENABLE]

/-! `BOB_RING_PTR`: R243 of spec/09_bobbins_and_streaming.md. -/
def F.BOB_RING_PTR_HEAD : Fld := ⟨0x1008, 0, 16, 0, 128, .ro⟩
def F.BOB_RING_PTR_TAIL : Fld := ⟨0x1008, 16, 16, 0, 128, .ro⟩
def F.BOB_RING_PTR_RSV : Fld := ⟨0x1008, 32, 5, 0, 128, .ro⟩
def R.BOB_RING_PTR : RegDef where
  name := "BOB_RING_PTR"
  off := 0x1008
  stride := 16
  count := 16
  width := 64
  lock := none
  flds := [F.BOB_RING_PTR_HEAD, F.BOB_RING_PTR_TAIL, F.BOB_RING_PTR_RSV]

/-! `BOB_FLT_STATUS`: R243 of spec/09_bobbins_and_streaming.md. -/
def F.BOB_FLT_STATUS_VALID : Fld := ⟨0x0, 0, 1, 0, 0, .w1c⟩
def F.BOB_FLT_STATUS_SIDE : Fld := ⟨0x0, 1, 1, 0, 0, .ro⟩
def F.BOB_FLT_STATUS_REMOTE : Fld := ⟨0x0, 2, 1, 0, 0, .ro⟩
def F.BOB_FLT_STATUS_RANGE : Fld := ⟨0x0, 3, 1, 0, 0, .ro⟩
def F.BOB_FLT_STATUS_IADDR : Fld := ⟨0x0, 4, 14, 0, 0, .ro⟩
def R.BOB_FLT_STATUS : RegDef where
  name := "BOB_FLT_STATUS"
  off := 0x0
  stride := 0
  count := 1
  width := 32
  lock := none
  flds := [F.BOB_FLT_STATUS_VALID, F.BOB_FLT_STATUS_SIDE, F.BOB_FLT_STATUS_REMOTE, F.BOB_FLT_STATUS_RANGE, F.BOB_FLT_STATUS_IADDR]

/-! `BOB_FLT_ADDR`: R243 of spec/09_bobbins_and_streaming.md. -/
def F.BOB_FLT_ADDR_ADDR : Fld := ⟨0x8, 0, 64, 0, 0, .ro⟩
def R.BOB_FLT_ADDR : RegDef where
  name := "BOB_FLT_ADDR"
  off := 0x8
  stride := 0
  count := 1
  width := 64
  lock := none
  flds := [F.BOB_FLT_ADDR_ADDR]

/-! `BOB_FLT_COORD0`: R243 of spec/09_bobbins_and_streaming.md. -/
def F.BOB_FLT_COORD0_C0 : Fld := ⟨0x10, 0, 32, 0, 0, .ro⟩
def R.BOB_FLT_COORD0 : RegDef where
  name := "BOB_FLT_COORD0"
  off := 0x10
  stride := 0
  count := 1
  width := 32
  lock := none
  flds := [F.BOB_FLT_COORD0_C0]

/-! `BOB_FLT_COORD1`: R243 of spec/09_bobbins_and_streaming.md. -/
def F.BOB_FLT_COORD1_C : Fld := ⟨0x18, 0, 16, 0, 16, .ro⟩
def R.BOB_FLT_COORD1 : RegDef where
  name := "BOB_FLT_COORD1"
  off := 0x18
  stride := 0
  count := 1
  width := 64
  lock := none
  flds := F.pack F.BOB_FLT_COORD1_C 4 0

/-! `BOB_FLT_BYTES`: R243 of spec/09_bobbins_and_streaming.md. -/
def F.BOB_FLT_BYTES_BYTES : Fld := ⟨0x20, 0, 64, 0, 0, .ro⟩
def R.BOB_FLT_BYTES : RegDef where
  name := "BOB_FLT_BYTES"
  off := 0x20
  stride := 0
  count := 1
  width := 64
  lock := none
  flds := [F.BOB_FLT_BYTES_BYTES]

/-! `BOB_FLT_DESC`: R243 of spec/09_bobbins_and_streaming.md. -/
def F.BOB_FLT_DESC_WORD : Fld := ⟨0x80, 0, 64, 0, 64, .ro⟩
def R.BOB_FLT_DESC : RegDef where
  name := "BOB_FLT_DESC"
  off := 0x80
  stride := 8
  count := 16
  width := 64
  lock := none
  flds := [F.BOB_FLT_DESC_WORD]

/-! `HBM_STATUS`: R269 of spec/10_memory_and_picots.md. -/
def F.HBM_STATUS_STATE : Fld := ⟨0x0, 0, 2, 0, 0, .ro⟩
def F.HBM_STATUS_TEMP : Fld := ⟨0x0, 2, 8, 0, 0, .ro⟩
def F.HBM_STATUS_REFRESH2X : Fld := ⟨0x0, 10, 1, 0, 0, .ro⟩
def R.HBM_STATUS : RegDef where
  name := "HBM_STATUS"
  off := 0x0
  stride := 0
  count := 1
  width := 64
  lock := none
  flds := [F.HBM_STATUS_STATE, F.HBM_STATUS_TEMP, F.HBM_STATUS_REFRESH2X]

/-! `HBM_ECC`: R269 of spec/10_memory_and_picots.md. -/
def F.HBM_ECC_CORR : Fld := ⟨0x8, 0, 32, 0, 0, .rc⟩
def F.HBM_ECC_UNCORR : Fld := ⟨0x8, 32, 16, 0, 0, .rc⟩
def F.HBM_ECC_REREAD : Fld := ⟨0x8, 48, 16, 0, 0, .rc⟩
def R.HBM_ECC : RegDef where
  name := "HBM_ECC"
  off := 0x8
  stride := 0
  count := 1
  width := 64
  lock := none
  flds := [F.HBM_ECC_CORR, F.HBM_ECC_UNCORR, F.HBM_ECC_REREAD]

/-! `HBM_ECC_ADDR`: R269 of spec/10_memory_and_picots.md. -/
def F.HBM_ECC_ADDR_OFFSET : Fld := ⟨0x10, 0, 36, 0, 0, .ro⟩
def F.HBM_ECC_ADDR_UNCORR : Fld := ⟨0x10, 36, 1, 0, 0, .ro⟩
def R.HBM_ECC_ADDR : RegDef where
  name := "HBM_ECC_ADDR"
  off := 0x10
  stride := 0
  count := 1
  width := 64
  lock := none
  flds := [F.HBM_ECC_ADDR_OFFSET, F.HBM_ECC_ADDR_UNCORR]

/-! `HBM_SCRUB`: R269 of spec/10_memory_and_picots.md. -/
def F.HBM_SCRUB_PERIOD : Fld := ⟨0x18, 0, 8, 24, 0, .rw⟩
def F.HBM_SCRUB_PROGRESS : Fld := ⟨0x18, 16, 16, 0, 0, .ro⟩
def F.HBM_SCRUB_PASSES : Fld := ⟨0x18, 32, 32, 0, 0, .ro⟩
def R.HBM_SCRUB : RegDef where
  name := "HBM_SCRUB"
  off := 0x18
  stride := 0
  count := 1
  width := 64
  lock := none
  flds := [F.HBM_SCRUB_PERIOD, F.HBM_SCRUB_PROGRESS, F.HBM_SCRUB_PASSES]

/-! `HBM_RETIRE`: R269 of spec/10_memory_and_picots.md. -/
def F.HBM_RETIRE_COUNT : Fld := ⟨0x20, 0, 10, 0, 0, .ro⟩
def F.HBM_RETIRE_NOSPARE : Fld := ⟨0x20, 10, 1, 0, 0, .w1c⟩
def F.HBM_RETIRE_THRESH : Fld := ⟨0x20, 12, 8, 16, 0, .rw⟩
def F.HBM_RETIRE_LAST_PAGE : Fld := ⟨0x20, 20, 15, 0, 0, .ro⟩
def R.HBM_RETIRE : RegDef where
  name := "HBM_RETIRE"
  off := 0x20
  stride := 0
  count := 1
  width := 64
  lock := none
  flds := [F.HBM_RETIRE_COUNT, F.HBM_RETIRE_NOSPARE, F.HBM_RETIRE_THRESH, F.HBM_RETIRE_LAST_PAGE]

/-! `HBM_RBUF`: R269 of spec/10_memory_and_picots.md. -/
def F.HBM_RBUF_PEAK : Fld := ⟨0x28, 0, 13, 0, 0, .rc⟩
def R.HBM_RBUF : RegDef where
  name := "HBM_RBUF"
  off := 0x28
  stride := 0
  count := 1
  width := 32
  lock := none
  flds := [F.HBM_RBUF_PEAK]

/-! `MSE_STATUS`: R270 of spec/10_memory_and_picots.md. -/
def F.MSE_STATUS_REPLAYQ : Fld := ⟨0x0, 0, 9, 0, 0, .ro⟩
def F.MSE_STATUS_CHSTOP : Fld := ⟨0x0, 9, 6, 0, 0, .ro⟩
def R.MSE_STATUS : RegDef where
  name := "MSE_STATUS"
  off := 0x0
  stride := 0
  count := 1
  width := 32
  lock := none
  flds := [F.MSE_STATUS_REPLAYQ, F.MSE_STATUS_CHSTOP]

/-! `MSE_ATOMICS`: R270 of spec/10_memory_and_picots.md. -/
def F.MSE_ATOMICS_COUNT : Fld := ⟨0x8, 0, 64, 0, 0, .ro⟩
def R.MSE_ATOMICS : RegDef where
  name := "MSE_ATOMICS"
  off := 0x8
  stride := 0
  count := 1
  width := 64
  lock := none
  flds := [F.MSE_ATOMICS_COUNT]

/-! `MSE_OPS`: R270 of spec/10_memory_and_picots.md. -/
def F.MSE_OPS_COUNT : Fld := ⟨0x10, 0, 64, 0, 0, .ro⟩
def R.MSE_OPS : RegDef where
  name := "MSE_OPS"
  off := 0x10
  stride := 0
  count := 1
  width := 64
  lock := none
  flds := [F.MSE_OPS_COUNT]

/-! `MSE_ERR`: R270 of spec/10_memory_and_picots.md. -/
def F.MSE_ERR_SAT : Fld := ⟨0x18, 0, 1, 0, 0, .w1c⟩
def F.MSE_ERR_OWNER : Fld := ⟨0x18, 1, 1, 0, 0, .w1c⟩
def F.MSE_ERR_TAG : Fld := ⟨0x18, 2, 1, 0, 0, .w1c⟩
def F.MSE_ERR_RECORD : Fld := ⟨0x18, 3, 1, 0, 0, .w1c⟩
def F.MSE_ERR_POISON : Fld := ⟨0x18, 4, 1, 0, 0, .w1c⟩
def R.MSE_ERR : RegDef where
  name := "MSE_ERR"
  off := 0x18
  stride := 0
  count := 1
  width := 32
  lock := none
  flds := [F.MSE_ERR_SAT, F.MSE_ERR_OWNER, F.MSE_ERR_TAG, F.MSE_ERR_RECORD, F.MSE_ERR_POISON]

/-! `MSE_ERRCNT`: R270 of spec/10_memory_and_picots.md. -/
def F.MSE_ERRCNT_OWNER_CNT : Fld := ⟨0x20, 0, 16, 0, 0, .rc⟩
def F.MSE_ERRCNT_OTHER_CNT : Fld := ⟨0x20, 16, 16, 0, 0, .rc⟩
def R.MSE_ERRCNT : RegDef where
  name := "MSE_ERRCNT"
  off := 0x20
  stride := 0
  count := 1
  width := 32
  lock := none
  flds := [F.MSE_ERRCNT_OWNER_CNT, F.MSE_ERRCNT_OTHER_CNT]

/-! `MSE_REPLAYPEAK`: R270 of spec/10_memory_and_picots.md. -/
def F.MSE_REPLAYPEAK_PEAK : Fld := ⟨0x28, 0, 9, 0, 0, .rc⟩
def R.MSE_REPLAYPEAK : RegDef where
  name := "MSE_REPLAYPEAK"
  off := 0x28
  stride := 0
  count := 1
  width := 32
  lock := none
  flds := [F.MSE_REPLAYPEAK_PEAK]

/-! `HBM_MAP`: R271 of spec/10_memory_and_picots.md. -/
def F.HBM_MAP_DIELOCAL : Fld := ⟨0x0, 0, 6, 0, 0, .rwl⟩
def F.HBM_MAP_STACKS_UP : Fld := ⟨0x0, 6, 20, 0, 0, .ro⟩
def R.HBM_MAP : RegDef where
  name := "HBM_MAP"
  off := 0x0
  stride := 0
  count := 1
  width := 32
  lock := none
  flds := [F.HBM_MAP_DIELOCAL, F.HBM_MAP_STACKS_UP]

/-! `HBM_MAPERR`: R271 of spec/10_memory_and_picots.md. -/
def F.HBM_MAPERR_LOCKED : Fld := ⟨0x8, 0, 1, 0, 0, .w1c⟩
def R.HBM_MAPERR : RegDef where
  name := "HBM_MAPERR"
  off := 0x8
  stride := 0
  count := 1
  width := 32
  lock := none
  flds := [F.HBM_MAPERR_LOCKED]

/-! `MSE_OWNCMD`: R271 of spec/10_memory_and_picots.md. -/
def F.MSE_OWNCMD_FIRST : Fld := ⟨0x10, 0, 20, 0, 0, .rw⟩
def F.MSE_OWNCMD_COUNT : Fld := ⟨0x10, 20, 20, 0, 0, .rw⟩
def F.MSE_OWNCMD_OWNER : Fld := ⟨0x10, 40, 5, 0, 0, .rw⟩
def F.MSE_OWNCMD_MIRROR : Fld := ⟨0x10, 45, 1, 0, 0, .rw⟩
def F.MSE_OWNCMD_GO : Fld := ⟨0x10, 46, 1, 0, 0, .wo⟩
def R.MSE_OWNCMD : RegDef where
  name := "MSE_OWNCMD"
  off := 0x10
  stride := 0
  count := 1
  width := 64
  lock := none
  flds := [F.MSE_OWNCMD_FIRST, F.MSE_OWNCMD_COUNT, F.MSE_OWNCMD_OWNER, F.MSE_OWNCMD_MIRROR, F.MSE_OWNCMD_GO]

/-! `MSE_OWNSTAT`: R271 of spec/10_memory_and_picots.md. -/
def F.MSE_OWNSTAT_STATE : Fld := ⟨0x18, 0, 2, 0, 0, .ro⟩
def F.MSE_OWNSTAT_BUSY_REJ : Fld := ⟨0x18, 2, 1, 0, 0, .w1c⟩
def F.MSE_OWNSTAT_DONE_PAGES : Fld := ⟨0x18, 4, 20, 0, 0, .ro⟩
def R.MSE_OWNSTAT : RegDef where
  name := "MSE_OWNSTAT"
  off := 0x18
  stride := 0
  count := 1
  width := 64
  lock := none
  flds := [F.MSE_OWNSTAT_STATE, F.MSE_OWNSTAT_BUSY_REJ, F.MSE_OWNSTAT_DONE_PAGES]

/-! `MSE_NORMRANGE`: R271 of spec/10_memory_and_picots.md. -/
def F.MSE_NORMRANGE_BASE : Fld := ⟨0x100, 0, 12, 0, 64, .rw⟩
def F.MSE_NORMRANGE_COUNT : Fld := ⟨0x100, 12, 13, 0, 64, .rw⟩
def R.MSE_NORMRANGE : RegDef where
  name := "MSE_NORMRANGE"
  off := 0x100
  stride := 8
  count := 16
  width := 32
  lock := none
  flds := [F.MSE_NORMRANGE_BASE, F.MSE_NORMRANGE_COUNT]

/-! `MSE_NORMSEL`: R271 of spec/10_memory_and_picots.md. -/
def F.MSE_NORMSEL_TAG : Fld := ⟨0x200, 0, 12, 0, 0, .rw⟩
def F.MSE_NORMSEL_CLEAR : Fld := ⟨0x200, 12, 1, 0, 0, .wo⟩
def R.MSE_NORMSEL : RegDef where
  name := "MSE_NORMSEL"
  off := 0x200
  stride := 0
  count := 1
  width := 32
  lock := none
  flds := [F.MSE_NORMSEL_TAG, F.MSE_NORMSEL_CLEAR]

/-! `MSE_NORMDATA`: R271 of spec/10_memory_and_picots.md. -/
def F.MSE_NORMDATA_WORD : Fld := ⟨0x208, 0, 64, 0, 64, .ro⟩
def R.MSE_NORMDATA : RegDef where
  name := "MSE_NORMDATA"
  off := 0x208
  stride := 8
  count := 4
  width := 64
  lock := none
  flds := [F.MSE_NORMDATA_WORD]

/-! `SEQ_RNGSEED`: R285 of spec/11_training_passes.md. -/
def F.SEQ_RNGSEED_SEED : Fld := ⟨0x90, 0, 64, 0, 0, .ro⟩
def R.SEQ_RNGSEED : RegDef where
  name := "SEQ_RNGSEED"
  off := 0x90
  stride := 0
  count := 1
  width := 64
  lock := none
  flds := [F.SEQ_RNGSEED_SEED]

/-! `SEQ_RNGPOS`: R285 of spec/11_training_passes.md. -/
def F.SEQ_RNGPOS_STEP : Fld := ⟨0x98, 0, 48, 0, 0, .rw⟩
def F.SEQ_RNGPOS_LAYER : Fld := ⟨0x98, 48, 12, 0, 0, .rw⟩
def R.SEQ_RNGPOS : RegDef where
  name := "SEQ_RNGPOS"
  off := 0x98
  stride := 0
  count := 1
  width := 64
  lock := none
  flds := [F.SEQ_RNGPOS_STEP, F.SEQ_RNGPOS_LAYER]

/-! `MSE_SEED`: R285 of spec/11_training_passes.md. -/
def F.MSE_SEED_SEED : Fld := ⟨0x300, 0, 64, 0, 64, .rw⟩
def R.MSE_SEED : RegDef where
  name := "MSE_SEED"
  off := 0x300
  stride := 8
  count := 16
  width := 64
  lock := none
  flds := [F.MSE_SEED_SEED]

/-! `BRD_CTRL`: R314 of spec/12_bride_ports_and_cables.md. -/
def F.BRD_CTRL_ENABLE : Fld := ⟨0x0, 0, 1, 1, 0, .rw⟩
def F.BRD_CTRL_RETRAIN : Fld := ⟨0x0, 1, 1, 0, 0, .wo⟩
def F.BRD_CTRL_MINWIDTH : Fld := ⟨0x0, 2, 2, 0, 0, .rwl⟩
def F.BRD_CTRL_MIRROR_WT : Fld := ⟨0x0, 4, 4, 4, 0, .rwl⟩
def F.BRD_CTRL_LOCK : Fld := ⟨0x0, 63, 1, 0, 0, .w1s⟩
def R.BRD_CTRL : RegDef where
  name := "BRD_CTRL"
  off := 0x0
  stride := 0
  count := 1
  width := 64
  lock := some F.BRD_CTRL_LOCK
  flds := [F.BRD_CTRL_ENABLE, F.BRD_CTRL_RETRAIN, F.BRD_CTRL_MINWIDTH, F.BRD_CTRL_MIRROR_WT, F.BRD_CTRL_LOCK]

/-! `BRD_STATUS`: R314 of spec/12_bride_ports_and_cables.md. -/
def F.BRD_STATUS_STATE : Fld := ⟨0x8, 0, 3, 0, 0, .ro⟩
def F.BRD_STATUS_WIDTH : Fld := ⟨0x8, 3, 3, 0, 0, .ro⟩
def F.BRD_STATUS_LANES : Fld := ⟨0x8, 6, 8, 0, 0, .ro⟩
def F.BRD_STATUS_PEER : Fld := ⟨0x8, 14, 16, 0xfffe, 0, .ro⟩
def F.BRD_STATUS_PEERPORT : Fld := ⟨0x8, 30, 5, 0, 0, .ro⟩
def R.BRD_STATUS : RegDef where
  name := "BRD_STATUS"
  off := 0x8
  stride := 0
  count := 1
  width := 64
  lock := none
  flds := [F.BRD_STATUS_STATE, F.BRD_STATUS_WIDTH, F.BRD_STATUS_LANES, F.BRD_STATUS_PEER, F.BRD_STATUS_PEERPORT]

/-! `BRD_FEC`: R314 of spec/12_bride_ports_and_cables.md. -/
def F.BRD_FEC_CORR : Fld := ⟨0x10, 0, 32, 0, 0, .rc⟩
def F.BRD_FEC_CRCFAIL : Fld := ⟨0x10, 32, 32, 0, 0, .rc⟩
def R.BRD_FEC : RegDef where
  name := "BRD_FEC"
  off := 0x10
  stride := 0
  count := 1
  width := 64
  lock := none
  flds := [F.BRD_FEC_CORR, F.BRD_FEC_CRCFAIL]

/-! `BRD_RETRY`: R314 of spec/12_bride_ports_and_cables.md. -/
def F.BRD_RETRY_REPLAYED : Fld := ⟨0x18, 0, 32, 0, 0, .rc⟩
def F.BRD_RETRY_NAKS : Fld := ⟨0x18, 32, 16, 0, 0, .rc⟩
def F.BRD_RETRY_RETRAINS : Fld := ⟨0x18, 48, 16, 0, 0, .rc⟩
def R.BRD_RETRY : RegDef where
  name := "BRD_RETRY"
  off := 0x18
  stride := 0
  count := 1
  width := 64
  lock := none
  flds := [F.BRD_RETRY_REPLAYED, F.BRD_RETRY_NAKS, F.BRD_RETRY_RETRAINS]

/-! `BRD_LANEBER`: R314 of spec/12_bride_ports_and_cables.md. -/
def F.BRD_LANEBER_BER : Fld := ⟨0x20, 0, 8, 255, 8, .ro⟩
def R.BRD_LANEBER : RegDef where
  name := "BRD_LANEBER"
  off := 0x20
  stride := 0
  count := 1
  width := 64
  lock := none
  flds := F.pack F.BRD_LANEBER_BER 8 0

/-! `BRD_THRESH`: R314 of spec/12_bride_ports_and_cables.md. -/
def F.BRD_THRESH_CRC : Fld := ⟨0x28, 0, 16, 256, 0, .rwl⟩
def R.BRD_THRESH : RegDef where
  name := "BRD_THRESH"
  off := 0x28
  stride := 0
  count := 1
  width := 32
  lock := some F.BRD_CTRL_LOCK
  flds := [F.BRD_THRESH_CRC]

/-! `BRD_CTLWAIT`: R314 of spec/12_bride_ports_and_cables.md. -/
def F.BRD_CTLWAIT_MAX : Fld := ⟨0x30, 0, 16, 0, 0, .rc⟩
def R.BRD_CTLWAIT : RegDef where
  name := "BRD_CTLWAIT"
  off := 0x30
  stride := 0
  count := 1
  width := 32
  lock := none
  flds := [F.BRD_CTLWAIT_MAX]

/-! `BRD_TXFLITS`: R314 of spec/12_bride_ports_and_cables.md. -/
def F.BRD_TXFLITS_COUNT : Fld := ⟨0x38, 0, 64, 0, 0, .ro⟩
def R.BRD_TXFLITS : RegDef where
  name := "BRD_TXFLITS"
  off := 0x38
  stride := 0
  count := 1
  width := 64
  lock := none
  flds := [F.BRD_TXFLITS_COUNT]

/-! `BRD_RXFLITS`: R314 of spec/12_bride_ports_and_cables.md. -/
def F.BRD_RXFLITS_COUNT : Fld := ⟨0x40, 0, 64, 0, 0, .ro⟩
def R.BRD_RXFLITS : RegDef where
  name := "BRD_RXFLITS"
  off := 0x40
  stride := 0
  count := 1
  width := 64
  lock := none
  flds := [F.BRD_RXFLITS_COUNT]

/-! `BRD_ERR`: R314 of spec/12_bride_ports_and_cables.md. -/
def F.BRD_ERR_RETRAIN : Fld := ⟨0x48, 0, 1, 0, 0, .w1c⟩
def F.BRD_ERR_WIDTH_DROP : Fld := ⟨0x48, 1, 1, 0, 0, .w1c⟩
def F.BRD_ERR_DOWN : Fld := ⟨0x48, 2, 1, 0, 0, .w1c⟩
def F.BRD_ERR_AUTH : Fld := ⟨0x48, 3, 1, 0, 0, .w1c⟩
def R.BRD_ERR : RegDef where
  name := "BRD_ERR"
  off := 0x48
  stride := 0
  count := 1
  width := 32
  lock := none
  flds := [F.BRD_ERR_RETRAIN, F.BRD_ERR_WIDTH_DROP, F.BRD_ERR_DOWN, F.BRD_ERR_AUTH]

/-! `BRD_MODID`: R315 of spec/12_bride_ports_and_cables.md. -/
def F.BRD_MODID_ID : Fld := ⟨0x0, 0, 16, 0xfffe, 0, .rwl⟩
def F.BRD_MODID_LOCK : Fld := ⟨0x0, 63, 1, 0, 0, .w1s⟩
def R.BRD_MODID : RegDef where
  name := "BRD_MODID"
  off := 0x0
  stride := 0
  count := 1
  width := 64
  lock := some F.BRD_MODID_LOCK
  flds := [F.BRD_MODID_ID, F.BRD_MODID_LOCK]

/-! `BRD_ROUTECFG`: R315 of spec/12_bride_ports_and_cables.md. -/
def F.BRD_ROUTECFG_HOPLIMIT : Fld := ⟨0x8, 0, 6, 63, 0, .rw⟩
def R.BRD_ROUTECFG : RegDef where
  name := "BRD_ROUTECFG"
  off := 0x8
  stride := 0
  count := 1
  width := 32
  lock := none
  flds := [F.BRD_ROUTECFG_HOPLIMIT]

/-! `BRD_RSPLIMIT`: R315 of spec/12_bride_ports_and_cables.md. -/
def F.BRD_RSPLIMIT_LIMIT : Fld := ⟨0x10, 0, 32, 1000, 0, .rw⟩
def R.BRD_RSPLIMIT : RegDef where
  name := "BRD_RSPLIMIT"
  off := 0x10
  stride := 0
  count := 1
  width := 32
  lock := none
  flds := [F.BRD_RSPLIMIT_LIMIT]

/-! `BRD_DROP`: R315 of spec/12_bride_ports_and_cables.md. -/
def F.BRD_DROP_HOPS : Fld := ⟨0x18, 0, 16, 0, 0, .rc⟩
def F.BRD_DROP_NOROUTE : Fld := ⟨0x18, 16, 16, 0, 0, .rc⟩
def F.BRD_DROP_BADPKT : Fld := ⟨0x18, 32, 16, 0, 0, .rc⟩
def F.BRD_DROP_NOJOB : Fld := ⟨0x18, 48, 16, 0, 0, .rc⟩
def R.BRD_DROP : RegDef where
  name := "BRD_DROP"
  off := 0x18
  stride := 0
  count := 1
  width := 64
  lock := none
  flds := [F.BRD_DROP_HOPS, F.BRD_DROP_NOROUTE, F.BRD_DROP_BADPKT, F.BRD_DROP_NOJOB]

/-! `BRD_ACTIVE`: R315 of spec/12_bride_ports_and_cables.md. -/
def F.BRD_ACTIVE_MASK : Fld := ⟨0x20, 0, 24, 0, 0, .ro⟩
def F.BRD_ACTIVE_LIMIT : Fld := ⟨0x20, 24, 5, 0, 0, .ro⟩
def R.BRD_ACTIVE : RegDef where
  name := "BRD_ACTIVE"
  off := 0x20
  stride := 0
  count := 1
  width := 32
  lock := none
  flds := [F.BRD_ACTIVE_MASK, F.BRD_ACTIVE_LIMIT]

/-! `BRD_TIMEOUT`: R315 of spec/12_bride_ports_and_cables.md. -/
def F.BRD_TIMEOUT_COUNT : Fld := ⟨0x28, 0, 32, 0, 0, .rc⟩
def R.BRD_TIMEOUT : RegDef where
  name := "BRD_TIMEOUT"
  off := 0x28
  stride := 0
  count := 1
  width := 32
  lock := none
  flds := [F.BRD_TIMEOUT_COUNT]

/-! `BRD_JOB`: R315 of spec/12_bride_ports_and_cables.md. -/
def F.BRD_JOB_JOB : Fld := ⟨0x100, 0, 12, 0, 64, .rw⟩
def R.BRD_JOB : RegDef where
  name := "BRD_JOB"
  off := 0x100
  stride := 8
  count := 16
  width := 32
  lock := none
  flds := [F.BRD_JOB_JOB]

/-! `CAB_STATUS`: R316 of spec/12_bride_ports_and_cables.md. -/
def F.CAB_STATUS_PRESENT : Fld := ⟨0x0, 0, 1, 0, 0, .ro⟩
def F.CAB_STATUS_AUTH : Fld := ⟨0x0, 1, 2, 0, 0, .ro⟩
def F.CAB_STATUS_TYPE : Fld := ⟨0x0, 3, 2, 0, 0, .ro⟩
def F.CAB_STATUS_LIFE : Fld := ⟨0x0, 5, 2, 0, 0, .ro⟩
def R.CAB_STATUS : RegDef where
  name := "CAB_STATUS"
  off := 0x0
  stride := 0
  count := 1
  width := 32
  lock := none
  flds := [F.CAB_STATUS_PRESENT, F.CAB_STATUS_AUTH, F.CAB_STATUS_TYPE, F.CAB_STATUS_LIFE]

/-! `CAB_SERIAL`: R316 of spec/12_bride_ports_and_cables.md. -/
def F.CAB_SERIAL_SERIAL : Fld := ⟨0x8, 0, 64, 0, 0, .ro⟩
def R.CAB_SERIAL : RegDef where
  name := "CAB_SERIAL"
  off := 0x8
  stride := 0
  count := 1
  width := 64
  lock := none
  flds := [F.CAB_SERIAL_SERIAL]

/-! `CAB_MATINGS`: R316 of spec/12_bride_ports_and_cables.md. -/
def F.CAB_MATINGS_COUNT : Fld := ⟨0x10, 0, 16, 0, 0, .ro⟩
def F.CAB_MATINGS_RATED : Fld := ⟨0x10, 16, 16, 0, 0, .ro⟩
def R.CAB_MATINGS : RegDef where
  name := "CAB_MATINGS"
  off := 0x10
  stride := 0
  count := 1
  width := 32
  lock := none
  flds := [F.CAB_MATINGS_COUNT, F.CAB_MATINGS_RATED]

/-! `CAB_HOURS`: R316 of spec/12_bride_ports_and_cables.md. -/
def F.CAB_HOURS_COUNT : Fld := ⟨0x18, 0, 32, 0, 0, .ro⟩
def F.CAB_HOURS_RATED : Fld := ⟨0x18, 32, 32, 0, 0, .ro⟩
def R.CAB_HOURS : RegDef where
  name := "CAB_HOURS"
  off := 0x18
  stride := 0
  count := 1
  width := 64
  lock := none
  flds := [F.CAB_HOURS_COUNT, F.CAB_HOURS_RATED]

/-! `CAB_UPSEC`: R316 of spec/12_bride_ports_and_cables.md. -/
def F.CAB_UPSEC_SECONDS : Fld := ⟨0x20, 0, 12, 0, 0, .ro⟩
def R.CAB_UPSEC : RegDef where
  name := "CAB_UPSEC"
  off := 0x20
  stride := 0
  count := 1
  width := 32
  lock := none
  flds := [F.CAB_UPSEC_SECONDS]

/-! `CAB_ERR`: R316 of spec/12_bride_ports_and_cables.md. -/
def F.CAB_ERR_SE_WRITE : Fld := ⟨0x28, 0, 1, 0, 0, .w1c⟩
def F.CAB_ERR_AUTH_FAIL : Fld := ⟨0x28, 1, 1, 0, 0, .w1c⟩
def R.CAB_ERR : RegDef where
  name := "CAB_ERR"
  off := 0x28
  stride := 0
  count := 1
  width := 32
  lock := none
  flds := [F.CAB_ERR_SE_WRITE, F.CAB_ERR_AUTH_FAIL]

/-! `CAB_POLICY`: R316 of spec/12_bride_ports_and_cables.md. -/
def F.CAB_POLICY_ALLOW_UNAUTH : Fld := ⟨0xf000, 0, 1, 0, 0, .rwl⟩
def F.CAB_POLICY_LOCK : Fld := ⟨0xf000, 63, 1, 0, 0, .w1s⟩
def R.CAB_POLICY : RegDef where
  name := "CAB_POLICY"
  off := 0xf000
  stride := 0
  count := 1
  width := 64
  lock := some F.CAB_POLICY_LOCK
  flds := [F.CAB_POLICY_ALLOW_UNAUTH, F.CAB_POLICY_LOCK]

/-! `BRD_TXMAP`: R336 of spec/13_collectives_and_dispatch.md. -/
def F.BRD_TXMAP_STREAM : Fld := ⟨0x0, 0, 12, 0, 64, .rw⟩
def F.BRD_TXMAP_GROUP : Fld := ⟨0x0, 12, 8, 0, 64, .rw⟩
def F.BRD_TXMAP_BASE : Fld := ⟨0x0, 20, 18, 0, 64, .rw⟩
def F.BRD_TXMAP_LINES : Fld := ⟨0x0, 38, 18, 0, 64, .rw⟩
def F.BRD_TXMAP_VALID : Fld := ⟨0x0, 56, 1, 0, 64, .rw⟩
def R.BRD_TXMAP : RegDef where
  name := "BRD_TXMAP"
  off := 0x0
  stride := 8
  count := 512
  width := 64
  lock := none
  flds := [F.BRD_TXMAP_STREAM, F.BRD_TXMAP_GROUP, F.BRD_TXMAP_BASE, F.BRD_TXMAP_LINES, F.BRD_TXMAP_VALID]

/-! `BRD_MCDELIV`: R336 of spec/13_collectives_and_dispatch.md. -/
def F.BRD_MCDELIV_CORE : Fld := ⟨0x1000, 0, 6, 0, 64, .rw⟩
def F.BRD_MCDELIV_WINDOW : Fld := ⟨0x1000, 6, 4, 0, 64, .rw⟩
def F.BRD_MCDELIV_NOTE_FLAG : Fld := ⟨0x1000, 10, 6, 0, 64, .rw⟩
def R.BRD_MCDELIV : RegDef where
  name := "BRD_MCDELIV"
  off := 0x1000
  stride := 8
  count := 256
  width := 64
  lock := none
  flds := [F.BRD_MCDELIV_CORE, F.BRD_MCDELIV_WINDOW, F.BRD_MCDELIV_NOTE_FLAG]

/-! `BRD_MCCFG`: R336 of spec/13_collectives_and_dispatch.md. -/
def F.BRD_MCCFG_EXPEL : Fld := ⟨0x2000, 0, 1, 0, 64, .rwl⟩
def F.BRD_MCCFG_LIMIT : Fld := ⟨0x2000, 1, 20, 0, 64, .rwl⟩
def F.BRD_MCCFG_LOCK : Fld := ⟨0x2000, 31, 1, 0, 64, .w1s⟩
def R.BRD_MCCFG : RegDef where
  name := "BRD_MCCFG"
  off := 0x2000
  stride := 8
  count := 256
  width := 32
  lock := some F.BRD_MCCFG_LOCK
  flds := [F.BRD_MCCFG_EXPEL, F.BRD_MCCFG_LIMIT, F.BRD_MCCFG_LOCK]

/-! `BRD_MCSTAT`: R336 of spec/13_collectives_and_dispatch.md. -/
def F.BRD_MCSTAT_EXPELLED : Fld := ⟨0x3000, 0, 25, 0, 128, .w1c⟩
def F.BRD_MCSTAT_DETACHED : Fld := ⟨0x3000, 25, 1, 0, 128, .w1c⟩
def F.BRD_MCSTAT_MISSED_SEQ : Fld := ⟨0x3000, 32, 24, 0, 128, .ro⟩
def R.BRD_MCSTAT : RegDef where
  name := "BRD_MCSTAT"
  off := 0x3000
  stride := 16
  count := 256
  width := 64
  lock := none
  flds := [F.BRD_MCSTAT_EXPELLED, F.BRD_MCSTAT_DETACHED, F.BRD_MCSTAT_MISSED_SEQ]

/-! `BRD_MCCNT`: R336 of spec/13_collectives_and_dispatch.md. -/
def F.BRD_MCCNT_SKIPPED : Fld := ⟨0x3008, 0, 16, 0, 128, .rc⟩
def F.BRD_MCCNT_REFUSED : Fld := ⟨0x3008, 16, 16, 0, 128, .rc⟩
def F.BRD_MCCNT_NEXT_SEQ : Fld := ⟨0x3008, 32, 24, 0, 128, .ro⟩
def R.BRD_MCCNT : RegDef where
  name := "BRD_MCCNT"
  off := 0x3008
  stride := 16
  count := 256
  width := 64
  lock := none
  flds := [F.BRD_MCCNT_SKIPPED, F.BRD_MCCNT_REFUSED, F.BRD_MCCNT_NEXT_SEQ]

/-! `BRD_BARCFG`: R336 of spec/13_collectives_and_dispatch.md. -/
def F.BRD_BARCFG_VALID : Fld := ⟨0x4000, 0, 1, 0, 128, .rw⟩
def F.BRD_BARCFG_ROOT : Fld := ⟨0x4000, 1, 1, 0, 128, .rw⟩
def F.BRD_BARCFG_PART : Fld := ⟨0x4000, 2, 4, 0, 128, .rw⟩
def F.BRD_BARCFG_LOCAL : Fld := ⟨0x4000, 6, 7, 0, 128, .rw⟩
def F.BRD_BARCFG_CHILDREN : Fld := ⟨0x4000, 13, 4, 0, 128, .rw⟩
def F.BRD_BARCFG_FLAG : Fld := ⟨0x4000, 17, 6, 0, 128, .rw⟩
def F.BRD_BARCFG_PARENT : Fld := ⟨0x4000, 32, 16, 0, 128, .rw⟩
def R.BRD_BARCFG : RegDef where
  name := "BRD_BARCFG"
  off := 0x4000
  stride := 16
  count := 32
  width := 64
  lock := none
  flds := [F.BRD_BARCFG_VALID, F.BRD_BARCFG_ROOT, F.BRD_BARCFG_PART, F.BRD_BARCFG_LOCAL, F.BRD_BARCFG_CHILDREN, F.BRD_BARCFG_FLAG, F.BRD_BARCFG_PARENT]

/-! `BRD_BARSTAT`: R336 of spec/13_collectives_and_dispatch.md. -/
def F.BRD_BARSTAT_EPOCH : Fld := ⟨0x4008, 0, 16, 0, 128, .ro⟩
def F.BRD_BARSTAT_ARRIVED : Fld := ⟨0x4008, 16, 7, 0, 128, .ro⟩
def F.BRD_BARSTAT_CHILD_IN : Fld := ⟨0x4008, 23, 4, 0, 128, .ro⟩
def F.BRD_BARSTAT_WAITING : Fld := ⟨0x4008, 27, 1, 0, 128, .ro⟩
def F.BRD_BARSTAT_ERR_EPOCH : Fld := ⟨0x4008, 28, 1, 0, 128, .w1c⟩
def F.BRD_BARSTAT_ERR_EXTRA : Fld := ⟨0x4008, 29, 1, 0, 128, .w1c⟩
def F.BRD_BARSTAT_CFG_REJ : Fld := ⟨0x4008, 30, 1, 0, 128, .w1c⟩
def F.BRD_BARSTAT_DONE : Fld := ⟨0x4008, 32, 32, 0, 128, .ro⟩
def R.BRD_BARSTAT : RegDef where
  name := "BRD_BARSTAT"
  off := 0x4008
  stride := 16
  count := 32
  width := 64
  lock := none
  flds := [F.BRD_BARSTAT_EPOCH, F.BRD_BARSTAT_ARRIVED, F.BRD_BARSTAT_CHILD_IN, F.BRD_BARSTAT_WAITING, F.BRD_BARSTAT_ERR_EPOCH, F.BRD_BARSTAT_ERR_EXTRA, F.BRD_BARSTAT_CFG_REJ, F.BRD_BARSTAT_DONE]

/-! `BRD_MCBUF`: R336 of spec/13_collectives_and_dispatch.md. -/
def F.BRD_MCBUF_INUSE : Fld := ⟨0x5000, 0, 7, 0, 0, .ro⟩
def F.BRD_MCBUF_PEAK : Fld := ⟨0x5000, 8, 7, 0, 0, .rc⟩
def R.BRD_MCBUF : RegDef where
  name := "BRD_MCBUF"
  off := 0x5000
  stride := 0
  count := 1
  width := 32
  lock := none
  flds := [F.BRD_MCBUF_INUSE, F.BRD_MCBUF_PEAK]

/-! `BRD_BARRIVE`: R336 of spec/13_collectives_and_dispatch.md. -/
def F.BRD_BARRIVE_CTX : Fld := ⟨0x50000, 0, 5, 0, 0, .wo⟩
def R.BRD_BARRIVE : RegDef where
  name := "BRD_BARRIVE"
  off := 0x50000
  stride := 0
  count := 1
  width := 64
  lock := none
  flds := [F.BRD_BARRIVE_CTX]

/-! `BRD_BARREJ`: R336 of spec/13_collectives_and_dispatch.md. -/
def F.BRD_BARREJ_COUNT : Fld := ⟨0x50008, 0, 32, 0, 0, .rc⟩
def R.BRD_BARREJ : RegDef where
  name := "BRD_BARREJ"
  off := 0x50008
  stride := 0
  count := 1
  width := 32
  lock := none
  flds := [F.BRD_BARREJ_COUNT]

/-! `CXL_LINK`: R360 of spec/14_host_attachment.md. -/
def F.CXL_LINK_STATE : Fld := ⟨0x0, 0, 2, 0, 0, .ro⟩
def F.CXL_LINK_RATE : Fld := ⟨0x0, 2, 1, 0, 0, .ro⟩
def F.CXL_LINK_WIDTH : Fld := ⟨0x0, 3, 3, 0, 0, .ro⟩
def F.CXL_LINK_FLIT : Fld := ⟨0x0, 6, 1, 0, 0, .ro⟩
def F.CXL_LINK_BI_EN : Fld := ⟨0x0, 7, 1, 0, 0, .ro⟩
def F.CXL_LINK_IDE_IO : Fld := ⟨0x0, 8, 1, 0, 0, .ro⟩
def F.CXL_LINK_IDE_CM : Fld := ⟨0x0, 9, 1, 0, 0, .ro⟩
def R.CXL_LINK : RegDef where
  name := "CXL_LINK"
  off := 0x0
  stride := 0
  count := 1
  width := 32
  lock := none
  flds := [F.CXL_LINK_STATE, F.CXL_LINK_RATE, F.CXL_LINK_WIDTH, F.CXL_LINK_FLIT, F.CXL_LINK_BI_EN, F.CXL_LINK_IDE_IO, F.CXL_LINK_IDE_CM]

/-! `CXL_PFPART`: R360 of spec/14_host_attachment.md. -/
def F.CXL_PFPART_PART : Fld := ⟨0x8, 0, 4, 0, 0, .rw⟩
def R.CXL_PFPART : RegDef where
  name := "CXL_PFPART"
  off := 0x8
  stride := 0
  count := 1
  width := 32
  lock := none
  flds := [F.CXL_PFPART_PART]

/-! `CXL_AUTHREJ`: R360 of spec/14_host_attachment.md. -/
def F.CXL_AUTHREJ_FUNC : Fld := ⟨0x10, 0, 5, 0, 0, .ro⟩
def F.CXL_AUTHREJ_KIND : Fld := ⟨0x10, 5, 3, 0, 0, .ro⟩
def F.CXL_AUTHREJ_PART : Fld := ⟨0x10, 8, 5, 0, 0, .ro⟩
def R.CXL_AUTHREJ : RegDef where
  name := "CXL_AUTHREJ"
  off := 0x10
  stride := 0
  count := 1
  width := 32
  lock := none
  flds := [F.CXL_AUTHREJ_FUNC, F.CXL_AUTHREJ_KIND, F.CXL_AUTHREJ_PART]

/-! `CXL_AUTHADDR`: R360 of spec/14_host_attachment.md. -/
def F.CXL_AUTHADDR_ADDR : Fld := ⟨0x18, 0, 64, 0, 0, .ro⟩
def R.CXL_AUTHADDR : RegDef where
  name := "CXL_AUTHADDR"
  off := 0x18
  stride := 0
  count := 1
  width := 64
  lock := none
  flds := [F.CXL_AUTHADDR_ADDR]

/-! `CXL_AUTHCNT`: R360 of spec/14_host_attachment.md. -/
def F.CXL_AUTHCNT_COUNT : Fld := ⟨0x20, 0, 32, 0, 0, .rc⟩
def R.CXL_AUTHCNT : RegDef where
  name := "CXL_AUTHCNT"
  off := 0x20
  stride := 0
  count := 1
  width := 32
  lock := none
  flds := [F.CXL_AUTHCNT_COUNT]

/-! `CXL_BILIMIT`: R360 of spec/14_host_attachment.md. -/
def F.CXL_BILIMIT_LIMIT : Fld := ⟨0x28, 0, 32, 1000, 0, .rw⟩
def R.CXL_BILIMIT : RegDef where
  name := "CXL_BILIMIT"
  off := 0x28
  stride := 0
  count := 1
  width := 32
  lock := none
  flds := [F.CXL_BILIMIT_LIMIT]

/-! `CXL_RSPLIMIT`: R360 of spec/14_host_attachment.md. -/
def F.CXL_RSPLIMIT_LIMIT : Fld := ⟨0x30, 0, 32, 100, 0, .rw⟩
def R.CXL_RSPLIMIT : RegDef where
  name := "CXL_RSPLIMIT"
  off := 0x30
  stride := 0
  count := 1
  width := 32
  lock := none
  flds := [F.CXL_RSPLIMIT_LIMIT]

/-! `CXL_SF`: R360 of spec/14_host_attachment.md. -/
def F.CXL_SF_INUSE : Fld := ⟨0x38, 0, 19, 0, 0, .ro⟩
def F.CXL_SF_PEAK : Fld := ⟨0x38, 19, 19, 0, 0, .rc⟩
def R.CXL_SF : RegDef where
  name := "CXL_SF"
  off := 0x38
  stride := 0
  count := 1
  width := 64
  lock := none
  flds := [F.CXL_SF_INUSE, F.CXL_SF_PEAK]

/-! `CXL_BISNP`: R360 of spec/14_host_attachment.md. -/
def F.CXL_BISNP_COUNT : Fld := ⟨0x40, 0, 64, 0, 0, .ro⟩
def R.CXL_BISNP : RegDef where
  name := "CXL_BISNP"
  off := 0x40
  stride := 0
  count := 1
  width := 64
  lock := none
  flds := [F.CXL_BISNP_COUNT]

/-! `CXL_ERR`: R360 of spec/14_host_attachment.md. -/
def F.CXL_ERR_BI_TIMEOUT : Fld := ⟨0x48, 0, 1, 0, 0, .w1c⟩
def F.CXL_ERR_RSP_TIMEOUT : Fld := ⟨0x48, 1, 1, 0, 0, .w1c⟩
def F.CXL_ERR_IDE_FAIL : Fld := ⟨0x48, 2, 1, 0, 0, .w1c⟩
def F.CXL_ERR_CQ_FAULT : Fld := ⟨0x48, 3, 1, 0, 0, .w1c⟩
def F.CXL_ERR_POISON_RX : Fld := ⟨0x48, 4, 1, 0, 0, .w1c⟩
def R.CXL_ERR : RegDef where
  name := "CXL_ERR"
  off := 0x48
  stride := 0
  count := 1
  width := 32
  lock := none
  flds := [F.CXL_ERR_BI_TIMEOUT, F.CXL_ERR_RSP_TIMEOUT, F.CXL_ERR_IDE_FAIL, F.CXL_ERR_CQ_FAULT, F.CXL_ERR_POISON_RX]

/-! `CXL_ERRCNT`: R360 of spec/14_host_attachment.md. -/
def F.CXL_ERRCNT_BI_TO_CNT : Fld := ⟨0x50, 0, 16, 0, 0, .rc⟩
def F.CXL_ERRCNT_RSP_TO_CNT : Fld := ⟨0x50, 16, 16, 0, 0, .rc⟩
def R.CXL_ERRCNT : RegDef where
  name := "CXL_ERRCNT"
  off := 0x50
  stride := 0
  count := 1
  width := 32
  lock := none
  flds := [F.CXL_ERRCNT_BI_TO_CNT, F.CXL_ERRCNT_RSP_TO_CNT]

/-! `CXL_DB`: R361 of spec/14_host_attachment.md. -/
def F.CXL_DB_CORE : Fld := ⟨0x0, 0, 6, 0, 0, .wo⟩
def F.CXL_DB_FLAG : Fld := ⟨0x0, 6, 6, 0, 0, .wo⟩
def F.CXL_DB_COUNT : Fld := ⟨0x0, 12, 16, 0, 0, .wo⟩
def F.CXL_DB_GO : Fld := ⟨0x0, 28, 1, 0, 0, .wo⟩
def R.CXL_DB : RegDef where
  name := "CXL_DB"
  off := 0x0
  stride := 0
  count := 1
  width := 64
  lock := none
  flds := [F.CXL_DB_CORE, F.CXL_DB_FLAG, F.CXL_DB_COUNT, F.CXL_DB_GO]

/-! `CXL_CQBASE`: R361 of spec/14_host_attachment.md. -/
def F.CXL_CQBASE_BASE : Fld := ⟨0x8, 12, 52, 0, 0, .rw⟩
def R.CXL_CQBASE : RegDef where
  name := "CXL_CQBASE"
  off := 0x8
  stride := 0
  count := 1
  width := 64
  lock := none
  flds := [F.CXL_CQBASE_BASE]

/-! `CXL_CQCFG`: R361 of spec/14_host_attachment.md. -/
def F.CXL_CQCFG_EN : Fld := ⟨0x10, 0, 1, 0, 0, .rw⟩
def F.CXL_CQCFG_MASK : Fld := ⟨0x10, 1, 1, 0, 0, .rw⟩
def F.CXL_CQCFG_SIZE : Fld := ⟨0x10, 2, 4, 4, 0, .rw⟩
def F.CXL_CQCFG_VEC : Fld := ⟨0x10, 6, 7, 0, 0, .rw⟩
def R.CXL_CQCFG : RegDef where
  name := "CXL_CQCFG"
  off := 0x10
  stride := 0
  count := 1
  width := 32
  lock := none
  flds := [F.CXL_CQCFG_EN, F.CXL_CQCFG_MASK, F.CXL_CQCFG_SIZE, F.CXL_CQCFG_VEC]

/-! `CXL_CQHEAD`: R361 of spec/14_host_attachment.md. -/
def F.CXL_CQHEAD_HEAD : Fld := ⟨0x18, 0, 15, 0, 0, .rw⟩
def R.CXL_CQHEAD : RegDef where
  name := "CXL_CQHEAD"
  off := 0x18
  stride := 0
  count := 1
  width := 32
  lock := none
  flds := [F.CXL_CQHEAD_HEAD]

/-! `CXL_CQTAIL`: R361 of spec/14_host_attachment.md. -/
def F.CXL_CQTAIL_TAIL : Fld := ⟨0x20, 0, 15, 0, 0, .ro⟩
def R.CXL_CQTAIL : RegDef where
  name := "CXL_CQTAIL"
  off := 0x20
  stride := 0
  count := 1
  width := 32
  lock := none
  flds := [F.CXL_CQTAIL_TAIL]

/-! `CXL_CQSTAT`: R361 of spec/14_host_attachment.md. -/
def F.CXL_CQSTAT_HELD : Fld := ⟨0x28, 0, 7, 0, 0, .ro⟩
def F.CXL_CQSTAT_LOST : Fld := ⟨0x28, 16, 16, 0, 0, .rc⟩
def R.CXL_CQSTAT : RegDef where
  name := "CXL_CQSTAT"
  off := 0x28
  stride := 0
  count := 1
  width := 32
  lock := none
  flds := [F.CXL_CQSTAT_HELD, F.CXL_CQSTAT_LOST]

/-! `CXL_DBSTAT`: R361 of spec/14_host_attachment.md. -/
def F.CXL_DBSTAT_GO_SKIPPED : Fld := ⟨0x30, 0, 60, 0, 0, .ro⟩
def R.CXL_DBSTAT : RegDef where
  name := "CXL_DBSTAT"
  off := 0x30
  stride := 0
  count := 1
  width := 64
  lock := none
  flds := [F.CXL_DBSTAT_GO_SKIPPED]

/-! `CXL_POST`: R362 of spec/14_host_attachment.md. -/
def F.CXL_POST_VALUE : Fld := ⟨0x50010, 0, 64, 0, 0, .wo⟩
def R.CXL_POST : RegDef where
  name := "CXL_POST"
  off := 0x50010
  stride := 0
  count := 1
  width := 64
  lock := none
  flds := [F.CXL_POST_VALUE]

/-! `PRT_CMD`: R380 of spec/15_partitions_and_reset.md. -/
def F.PRT_CMD_OP : Fld := ⟨0x0, 0, 3, 0, 0, .rw⟩
def F.PRT_CMD_PART : Fld := ⟨0x0, 3, 4, 0, 0, .rw⟩
def F.PRT_CMD_CLUSTERS : Fld := ⟨0x0, 7, 16, 0, 0, .rw⟩
def F.PRT_CMD_GO : Fld := ⟨0x0, 23, 1, 0, 0, .wo⟩
def R.PRT_CMD : RegDef where
  name := "PRT_CMD"
  off := 0x0
  stride := 0
  count := 1
  width := 64
  lock := none
  flds := [F.PRT_CMD_OP, F.PRT_CMD_PART, F.PRT_CMD_CLUSTERS, F.PRT_CMD_GO]

/-! `PRT_CMDSTAT`: R380 of spec/15_partitions_and_reset.md. -/
def F.PRT_CMDSTAT_STATE : Fld := ⟨0x8, 0, 2, 0, 0, .ro⟩
def F.PRT_CMDSTAT_REASON : Fld := ⟨0x8, 2, 4, 0, 0, .ro⟩
def R.PRT_CMDSTAT : RegDef where
  name := "PRT_CMDSTAT"
  off := 0x8
  stride := 0
  count := 1
  width := 32
  lock := none
  flds := [F.PRT_CMDSTAT_STATE, F.PRT_CMDSTAT_REASON]

/-! `PRT_MAP`: R380 of spec/15_partitions_and_reset.md. -/
def F.PRT_MAP_OWNER : Fld := ⟨0x10, 0, 4, 0, 4, .ro⟩
def R.PRT_MAP : RegDef where
  name := "PRT_MAP"
  off := 0x10
  stride := 0
  count := 1
  width := 64
  lock := none
  flds := F.pack F.PRT_MAP_OWNER 16 0

/-! `PRT_EXIST`: R380 of spec/15_partitions_and_reset.md. -/
def F.PRT_EXIST_EXIST : Fld := ⟨0x18, 0, 16, 1, 0, .ro⟩
def R.PRT_EXIST : RegDef where
  name := "PRT_EXIST"
  off := 0x18
  stride := 0
  count := 1
  width := 32
  lock := none
  flds := [F.PRT_EXIST_EXIST]

/-! `PRT_P`: R380 of spec/15_partitions_and_reset.md. -/
def F.PRT_P_WAITDEF : Fld := ⟨0x100, 0, 32, 0x1000, 128, .rw⟩
def R.PRT_P : RegDef where
  name := "PRT_P"
  off := 0x100
  stride := 16
  count := 16
  width := 64
  lock := none
  flds := [F.PRT_P_WAITDEF]

/-! `PRT_PSTAT`: R380 of spec/15_partitions_and_reset.md. -/
def F.PRT_PSTAT_CORES : Fld := ⟨0x108, 0, 6, 0, 128, .ro⟩
def F.PRT_PSTAT_INRESET : Fld := ⟨0x108, 6, 1, 0, 128, .ro⟩
def F.PRT_PSTAT_PAGES : Fld := ⟨0x108, 7, 20, 0, 128, .ro⟩
def R.PRT_PSTAT : RegDef where
  name := "PRT_PSTAT"
  off := 0x108
  stride := 16
  count := 16
  width := 64
  lock := none
  flds := [F.PRT_PSTAT_CORES, F.PRT_PSTAT_INRESET, F.PRT_PSTAT_PAGES]

/-! `RST_CMD`: R381 of spec/15_partitions_and_reset.md. -/
def F.RST_CMD_SCOPE : Fld := ⟨0x0, 0, 2, 0, 0, .rw⟩
def F.RST_CMD_TARGET : Fld := ⟨0x0, 2, 6, 0, 0, .rw⟩
def F.RST_CMD_GO : Fld := ⟨0x0, 8, 1, 0, 0, .wo⟩
def R.RST_CMD : RegDef where
  name := "RST_CMD"
  off := 0x0
  stride := 0
  count := 1
  width := 64
  lock := none
  flds := [F.RST_CMD_SCOPE, F.RST_CMD_TARGET, F.RST_CMD_GO]

/-! `RST_STAT`: R381 of spec/15_partitions_and_reset.md. -/
def F.RST_STAT_BUSY : Fld := ⟨0x8, 0, 1, 0, 0, .ro⟩
def F.RST_STAT_SCOPE : Fld := ⟨0x8, 1, 2, 0, 0, .ro⟩
def F.RST_STAT_TARGET : Fld := ⟨0x8, 3, 6, 0, 0, .ro⟩
def F.RST_STAT_RESULT : Fld := ⟨0x8, 9, 2, 0, 0, .ro⟩
def F.RST_STAT_REASON : Fld := ⟨0x8, 11, 4, 0, 0, .ro⟩
def R.RST_STAT : RegDef where
  name := "RST_STAT"
  off := 0x8
  stride := 0
  count := 1
  width := 64
  lock := none
  flds := [F.RST_STAT_BUSY, F.RST_STAT_SCOPE, F.RST_STAT_TARGET, F.RST_STAT_RESULT, F.RST_STAT_REASON]

/-! `RST_CORESTAT`: R381 of spec/15_partitions_and_reset.md. -/
def F.RST_CORESTAT_INRESET : Fld := ⟨0x10, 0, 64, 0, 0, .ro⟩
def R.RST_CORESTAT : RegDef where
  name := "RST_CORESTAT"
  off := 0x10
  stride := 0
  count := 1
  width := 64
  lock := none
  flds := [F.RST_CORESTAT_INRESET]

/-! `RST_LAST`: R381 of spec/15_partitions_and_reset.md. -/
def F.RST_LAST_CAUSE : Fld := ⟨0x18, 0, 4, 0, 0, .ro⟩
def F.RST_LAST_COUNT : Fld := ⟨0x18, 16, 32, 0, 0, .ro⟩
def R.RST_LAST : RegDef where
  name := "RST_LAST"
  off := 0x18
  stride := 0
  count := 1
  width := 64
  lock := none
  flds := [F.RST_LAST_CAUSE, F.RST_LAST_COUNT]

/-! `RST_COUNTS`: R381 of spec/15_partitions_and_reset.md. -/
def F.RST_COUNTS_CORE : Fld := ⟨0x20, 0, 16, 0, 0, .rc⟩
def F.RST_COUNTS_CLUSTER : Fld := ⟨0x20, 16, 16, 0, 0, .rc⟩
def F.RST_COUNTS_PARTITION : Fld := ⟨0x20, 32, 16, 0, 0, .rc⟩
def R.RST_COUNTS : RegDef where
  name := "RST_COUNTS"
  off := 0x20
  stride := 0
  count := 1
  width := 64
  lock := none
  flds := [F.RST_COUNTS_CORE, F.RST_COUNTS_CLUSTER, F.RST_COUNTS_PARTITION]

/-! `ERR_CTRL`: R399 of spec/16_errors_and_ordering.md. -/
def F.ERR_CTRL_IST_EN : Fld := ⟨0x0, 0, 1, 1, 0, .rwl⟩
def F.ERR_CTRL_THRESH : Fld := ⟨0x0, 8, 8, 16, 0, .rwl⟩
def F.ERR_CTRL_PATROL : Fld := ⟨0x0, 16, 16, 10, 0, .rwl⟩
def F.ERR_CTRL_NOTIFY : Fld := ⟨0x0, 32, 16, 1024, 0, .rwl⟩
def F.ERR_CTRL_LOCK : Fld := ⟨0x0, 63, 1, 0, 0, .w1s⟩
def R.ERR_CTRL : RegDef where
  name := "ERR_CTRL"
  off := 0x0
  stride := 0
  count := 1
  width := 64
  lock := some F.ERR_CTRL_LOCK
  flds := [F.ERR_CTRL_IST_EN, F.ERR_CTRL_THRESH, F.ERR_CTRL_PATROL, F.ERR_CTRL_NOTIFY, F.ERR_CTRL_LOCK]

/-! `ERR_STATUS`: R399 of spec/16_errors_and_ordering.md. -/
def F.ERR_STATUS_QUARANTINED : Fld := ⟨0x8, 0, 8, 0, 0, .ro⟩
def F.ERR_STATUS_PENDING : Fld := ⟨0x8, 8, 8, 0, 0, .ro⟩
def R.ERR_STATUS : RegDef where
  name := "ERR_STATUS"
  off := 0x8
  stride := 0
  count := 1
  width := 64
  lock := none
  flds := [F.ERR_STATUS_QUARANTINED, F.ERR_STATUS_PENDING]

/-! `ERR_LOGPTR`: R399 of spec/16_errors_and_ordering.md. -/
def F.ERR_LOGPTR_NEXT : Fld := ⟨0x10, 0, 10, 0, 0, .ro⟩
def F.ERR_LOGPTR_WRAPPED : Fld := ⟨0x10, 10, 1, 0, 0, .ro⟩
def F.ERR_LOGPTR_SEQNO : Fld := ⟨0x10, 32, 32, 0, 0, .ro⟩
def R.ERR_LOGPTR : RegDef where
  name := "ERR_LOGPTR"
  off := 0x10
  stride := 0
  count := 1
  width := 64
  lock := none
  flds := [F.ERR_LOGPTR_NEXT, F.ERR_LOGPTR_WRAPPED, F.ERR_LOGPTR_SEQNO]

/-! `ERR_CNT`: R399 of spec/16_errors_and_ordering.md. -/
def F.ERR_CNT_CORRECTED : Fld := ⟨0x18, 0, 32, 0, 0, .rc⟩
def F.ERR_CNT_DEFERRED : Fld := ⟨0x18, 32, 16, 0, 0, .rc⟩
def F.ERR_CNT_CONTAINED : Fld := ⟨0x18, 48, 16, 0, 0, .rc⟩
def R.ERR_CNT : RegDef where
  name := "ERR_CNT"
  off := 0x18
  stride := 0
  count := 1
  width := 64
  lock := none
  flds := [F.ERR_CNT_CORRECTED, F.ERR_CNT_DEFERRED, F.ERR_CNT_CONTAINED]

/-! `ERR_HOURCUR`: R399 of spec/16_errors_and_ordering.md. -/
def F.ERR_HOURCUR_CORR : Fld := ⟨0x20, 0, 16, 0, 0, .ro⟩
def F.ERR_HOURCUR_CONTAINED : Fld := ⟨0x20, 16, 16, 0, 0, .ro⟩
def F.ERR_HOURCUR_LANE_RET : Fld := ⟨0x20, 32, 16, 0, 0, .ro⟩
def F.ERR_HOURCUR_RETRAIN : Fld := ⟨0x20, 48, 16, 0, 0, .ro⟩
def R.ERR_HOURCUR : RegDef where
  name := "ERR_HOURCUR"
  off := 0x20
  stride := 0
  count := 1
  width := 64
  lock := none
  flds := [F.ERR_HOURCUR_CORR, F.ERR_HOURCUR_CONTAINED, F.ERR_HOURCUR_LANE_RET, F.ERR_HOURCUR_RETRAIN]

/-! `ERR_HOURLAST`: R399 of spec/16_errors_and_ordering.md. -/
def F.ERR_HOURLAST_ALL : Fld := ⟨0x28, 0, 64, 0, 0, .ro⟩
def R.ERR_HOURLAST : RegDef where
  name := "ERR_HOURLAST"
  off := 0x28
  stride := 0
  count := 1
  width := 64
  lock := none
  flds := [F.ERR_HOURLAST_ALL]

/-! `ERR_IST`: R399 of spec/16_errors_and_ordering.md. -/
def F.ERR_IST_KAT : Fld := ⟨0x30, 0, 32, 0, 0, .ro⟩
def F.ERR_IST_KAT_FAIL : Fld := ⟨0x30, 32, 16, 0, 0, .ro⟩
def F.ERR_IST_SWEEPS : Fld := ⟨0x30, 48, 16, 0, 0, .ro⟩
def R.ERR_IST : RegDef where
  name := "ERR_IST"
  off := 0x30
  stride := 0
  count := 1
  width := 64
  lock := none
  flds := [F.ERR_IST_KAT, F.ERR_IST_KAT_FAIL, F.ERR_IST_SWEEPS]

/-! `ERR_SPARE`: R399 of spec/16_errors_and_ordering.md. -/
def F.ERR_SPARE_ROWS : Fld := ⟨0x38, 0, 16, 0, 0, .ro⟩
def F.ERR_SPARE_BANKS : Fld := ⟨0x38, 16, 16, 0, 0, .ro⟩
def F.ERR_SPARE_ENG_DIS : Fld := ⟨0x38, 32, 16, 0, 0, .ro⟩
def F.ERR_SPARE_CORES_DOWN : Fld := ⟨0x38, 48, 16, 0, 0, .ro⟩
def R.ERR_SPARE : RegDef where
  name := "ERR_SPARE"
  off := 0x38
  stride := 0
  count := 1
  width := 64
  lock := none
  flds := [F.ERR_SPARE_ROWS, F.ERR_SPARE_BANKS, F.ERR_SPARE_ENG_DIS, F.ERR_SPARE_CORES_DOWN]

/-! `ERR_FATAL`: R399 of spec/16_errors_and_ordering.md. -/
def F.ERR_FATAL_VALID : Fld := ⟨0x40, 0, 1, 0, 0, .ro⟩
def F.ERR_FATAL_CAUSE : Fld := ⟨0x40, 8, 8, 0, 0, .ro⟩
def F.ERR_FATAL_SEQNO : Fld := ⟨0x40, 32, 32, 0, 0, .ro⟩
def R.ERR_FATAL : RegDef where
  name := "ERR_FATAL"
  off := 0x40
  stride := 0
  count := 1
  width := 64
  lock := none
  flds := [F.ERR_FATAL_VALID, F.ERR_FATAL_CAUSE, F.ERR_FATAL_SEQNO]

/-! `MIR_CFG`: R418 of spec/17_partner_shards_and_restore.md. -/
def F.MIR_CFG_EN : Fld := ⟨0x0, 0, 1, 0, 1024, .rw⟩
def F.MIR_CFG_ADOPT : Fld := ⟨0x0, 1, 1, 0, 1024, .rwl⟩
def F.MIR_CFG_HOLD : Fld := ⟨0x0, 2, 1, 0, 1024, .rwl⟩
def F.MIR_CFG_NORMS : Fld := ⟨0x0, 3, 1, 0, 1024, .rw⟩
def F.MIR_CFG_RESERVE : Fld := ⟨0x0, 16, 20, 0, 1024, .rw⟩
def F.MIR_CFG_LOCK : Fld := ⟨0x0, 63, 1, 0, 1024, .w1s⟩
def R.MIR_CFG : RegDef where
  name := "MIR_CFG"
  off := 0x0
  stride := 128
  count := 16
  width := 64
  lock := some F.MIR_CFG_LOCK
  flds := [F.MIR_CFG_EN, F.MIR_CFG_ADOPT, F.MIR_CFG_HOLD, F.MIR_CFG_NORMS, F.MIR_CFG_RESERVE, F.MIR_CFG_LOCK]

/-! `MIR_RESBASE`: R418 of spec/17_partner_shards_and_restore.md. -/
def F.MIR_RESBASE_BASE : Fld := ⟨0x8, 0, 20, 0, 1024, .rw⟩
def R.MIR_RESBASE : RegDef where
  name := "MIR_RESBASE"
  off := 0x8
  stride := 128
  count := 16
  width := 32
  lock := none
  flds := [F.MIR_RESBASE_BASE]

/-! `MIR_PARTNER`: R418 of spec/17_partner_shards_and_restore.md. -/
def F.MIR_PARTNER_MODULE : Fld := ⟨0x10, 0, 16, 0xfffe, 1024, .rw⟩
def F.MIR_PARTNER_ACKLIMIT : Fld := ⟨0x10, 32, 16, 100, 1024, .rw⟩
def R.MIR_PARTNER : RegDef where
  name := "MIR_PARTNER"
  off := 0x10
  stride := 128
  count := 16
  width := 64
  lock := none
  flds := [F.MIR_PARTNER_MODULE, F.MIR_PARTNER_ACKLIMIT]

/-! `MIR_EPOCH`: R418 of spec/17_partner_shards_and_restore.md. -/
def F.MIR_EPOCH_NEXT : Fld := ⟨0x18, 0, 48, 1, 1024, .ro⟩
def R.MIR_EPOCH : RegDef where
  name := "MIR_EPOCH"
  off := 0x18
  stride := 128
  count := 16
  width := 64
  lock := none
  flds := [F.MIR_EPOCH_NEXT]

/-! `MIR_STATE`: R418 of spec/17_partner_shards_and_restore.md. -/
def F.MIR_STATE_STATE : Fld := ⟨0x20, 0, 3, 0, 1024, .ro⟩
def R.MIR_STATE : RegDef where
  name := "MIR_STATE"
  off := 0x20
  stride := 128
  count := 16
  width := 32
  lock := none
  flds := [F.MIR_STATE_STATE]

/-! `MIR_COMMIT`: R418 of spec/17_partner_shards_and_restore.md. -/
def F.MIR_COMMIT_EPOCH : Fld := ⟨0x28, 0, 48, 0, 1024, .ro⟩
def F.MIR_COMMIT_LASTSTAT : Fld := ⟨0x28, 48, 8, 0, 1024, .ro⟩
def R.MIR_COMMIT : RegDef where
  name := "MIR_COMMIT"
  off := 0x28
  stride := 128
  count := 16
  width := 64
  lock := none
  flds := [F.MIR_COMMIT_EPOCH, F.MIR_COMMIT_LASTSTAT]

/-! `MIR_CSTEP`: R418 of spec/17_partner_shards_and_restore.md. -/
def F.MIR_CSTEP_STEP : Fld := ⟨0x30, 0, 48, 0, 1024, .ro⟩
def R.MIR_CSTEP : RegDef where
  name := "MIR_CSTEP"
  off := 0x30
  stride := 128
  count := 16
  width := 64
  lock := none
  flds := [F.MIR_CSTEP_STEP]

/-! `MIR_CMD`: R418 of spec/17_partner_shards_and_restore.md. -/
def F.MIR_CMD_RELEASE : Fld := ⟨0x38, 0, 1, 0, 1024, .wo⟩
def F.MIR_CMD_RESTORE : Fld := ⟨0x38, 1, 1, 0, 1024, .wo⟩
def F.MIR_CMD_RNORMS : Fld := ⟨0x38, 2, 1, 0, 1024, .rw⟩
def F.MIR_CMD_RNGCHK : Fld := ⟨0x38, 3, 1, 0, 1024, .rw⟩
def F.MIR_CMD_EPOCH : Fld := ⟨0x38, 16, 16, 0, 1024, .rw⟩
def R.MIR_CMD : RegDef where
  name := "MIR_CMD"
  off := 0x38
  stride := 128
  count := 16
  width := 64
  lock := none
  flds := [F.MIR_CMD_RELEASE, F.MIR_CMD_RESTORE, F.MIR_CMD_RNORMS, F.MIR_CMD_RNGCHK, F.MIR_CMD_EPOCH]

/-! `MIR_RNGSTEP`: R418 of spec/17_partner_shards_and_restore.md. -/
def F.MIR_RNGSTEP_STEP : Fld := ⟨0x40, 0, 48, 0, 1024, .rw⟩
def R.MIR_RNGSTEP : RegDef where
  name := "MIR_RNGSTEP"
  off := 0x40
  stride := 128
  count := 16
  width := 64
  lock := none
  flds := [F.MIR_RNGSTEP_STEP]

/-! `MIR_RESTSTAT`: R418 of spec/17_partner_shards_and_restore.md. -/
def F.MIR_RESTSTAT_STATE : Fld := ⟨0x48, 0, 2, 0, 1024, .ro⟩
def F.MIR_RESTSTAT_REASON : Fld := ⟨0x48, 2, 4, 0, 1024, .ro⟩
def F.MIR_RESTSTAT_FORCED : Fld := ⟨0x48, 6, 1, 0, 1024, .ro⟩
def F.MIR_RESTSTAT_PAGES : Fld := ⟨0x48, 8, 20, 0, 1024, .ro⟩
def F.MIR_RESTSTAT_DONE : Fld := ⟨0x48, 28, 20, 0, 1024, .ro⟩
def R.MIR_RESTSTAT : RegDef where
  name := "MIR_RESTSTAT"
  off := 0x48
  stride := 128
  count := 16
  width := 64
  lock := none
  flds := [F.MIR_RESTSTAT_STATE, F.MIR_RESTSTAT_REASON, F.MIR_RESTSTAT_FORCED, F.MIR_RESTSTAT_PAGES, F.MIR_RESTSTAT_DONE]

/-! `MIR_LAST`: R418 of spec/17_partner_shards_and_restore.md. -/
def F.MIR_LAST_CUT_US : Fld := ⟨0x50, 0, 16, 0, 1024, .ro⟩
def F.MIR_LAST_SEAL_US : Fld := ⟨0x50, 16, 32, 0, 1024, .ro⟩
def R.MIR_LAST : RegDef where
  name := "MIR_LAST"
  off := 0x50
  stride := 128
  count := 16
  width := 64
  lock := none
  flds := [F.MIR_LAST_CUT_US, F.MIR_LAST_SEAL_US]

/-! `MIR_LAST2`: R418 of spec/17_partner_shards_and_restore.md. -/
def F.MIR_LAST2_PAGES : Fld := ⟨0x58, 0, 20, 0, 1024, .ro⟩
def F.MIR_LAST2_CAPTURED : Fld := ⟨0x58, 20, 32, 0, 1024, .ro⟩
def R.MIR_LAST2 : RegDef where
  name := "MIR_LAST2"
  off := 0x58
  stride := 128
  count := 16
  width := 64
  lock := none
  flds := [F.MIR_LAST2_PAGES, F.MIR_LAST2_CAPTURED]

/-! `MIR_CNT`: R418 of spec/17_partner_shards_and_restore.md. -/
def F.MIR_CNT_COMMITS : Fld := ⟨0x60, 0, 32, 0, 1024, .ro⟩
def F.MIR_CNT_FAILS : Fld := ⟨0x60, 32, 16, 0, 1024, .rc⟩
def F.MIR_CNT_LOST : Fld := ⟨0x60, 48, 16, 0, 1024, .rc⟩
def R.MIR_CNT : RegDef where
  name := "MIR_CNT"
  off := 0x60
  stride := 128
  count := 16
  width := 64
  lock := none
  flds := [F.MIR_CNT_COMMITS, F.MIR_CNT_FAILS, F.MIR_CNT_LOST]

/-! `MIR_STORE_A`: R419 of spec/17_partner_shards_and_restore.md. -/
def F.MIR_STORE_A_BASE : Fld := ⟨0x1000, 0, 20, 0, 256, .rw⟩
def F.MIR_STORE_A_CAPACITY : Fld := ⟨0x1000, 20, 20, 0, 256, .rw⟩
def F.MIR_STORE_A_VALID : Fld := ⟨0x1000, 40, 1, 0, 256, .rw⟩
def R.MIR_STORE_A : RegDef where
  name := "MIR_STORE_A"
  off := 0x1000
  stride := 32
  count := 16
  width := 64
  lock := none
  flds := [F.MIR_STORE_A_BASE, F.MIR_STORE_A_CAPACITY, F.MIR_STORE_A_VALID]

/-! `MIR_STORE_B`: R419 of spec/17_partner_shards_and_restore.md. -/
def F.MIR_STORE_B_SRCMOD : Fld := ⟨0x1008, 0, 16, 0, 256, .rw⟩
def F.MIR_STORE_B_JOB : Fld := ⟨0x1008, 16, 12, 0, 256, .rw⟩
def R.MIR_STORE_B : RegDef where
  name := "MIR_STORE_B"
  off := 0x1008
  stride := 32
  count := 16
  width := 64
  lock := none
  flds := [F.MIR_STORE_B_SRCMOD, F.MIR_STORE_B_JOB]

/-! `MIR_STORE_C`: R419 of spec/17_partner_shards_and_restore.md. -/
def F.MIR_STORE_C_COMMITTED : Fld := ⟨0x1010, 0, 48, 0, 256, .ro⟩
def R.MIR_STORE_C : RegDef where
  name := "MIR_STORE_C"
  off := 0x1010
  stride := 32
  count := 16
  width := 64
  lock := none
  flds := [F.MIR_STORE_C_COMMITTED]

/-! `MIR_STORE_D`: R419 of spec/17_partner_shards_and_restore.md. -/
def F.MIR_STORE_D_USED : Fld := ⟨0x1018, 0, 20, 0, 256, .ro⟩
def F.MIR_STORE_D_STAGED : Fld := ⟨0x1018, 20, 20, 0, 256, .ro⟩
def F.MIR_STORE_D_STATE : Fld := ⟨0x1018, 40, 3, 0, 256, .ro⟩
def R.MIR_STORE_D : RegDef where
  name := "MIR_STORE_D"
  off := 0x1018
  stride := 32
  count := 16
  width := 64
  lock := none
  flds := [F.MIR_STORE_D_USED, F.MIR_STORE_D_STAGED, F.MIR_STORE_D_STATE]

/-! `MIR_FILL_CTRL`: R420 of spec/17_partner_shards_and_restore.md. -/
def F.MIR_FILL_CTRL_STORE : Fld := ⟨0x2000, 0, 4, 0, 0, .rw⟩
def F.MIR_FILL_CTRL_GO : Fld := ⟨0x2000, 4, 1, 0, 0, .wo⟩
def F.MIR_FILL_CTRL_STOP : Fld := ⟨0x2000, 5, 1, 0, 0, .wo⟩
def F.MIR_FILL_CTRL_TARGET : Fld := ⟨0x2000, 16, 16, 0, 0, .rw⟩
def R.MIR_FILL_CTRL : RegDef where
  name := "MIR_FILL_CTRL"
  off := 0x2000
  stride := 0
  count := 1
  width := 64
  lock := none
  flds := [F.MIR_FILL_CTRL_STORE, F.MIR_FILL_CTRL_GO, F.MIR_FILL_CTRL_STOP, F.MIR_FILL_CTRL_TARGET]

/-! `MIR_FILL_STAT`: R420 of spec/17_partner_shards_and_restore.md. -/
def F.MIR_FILL_STAT_STATE : Fld := ⟨0x2008, 0, 3, 0, 0, .ro⟩
def F.MIR_FILL_STAT_QFULL : Fld := ⟨0x2008, 3, 1, 0, 0, .w1c⟩
def F.MIR_FILL_STAT_QUEUED : Fld := ⟨0x2008, 4, 4, 0, 0, .ro⟩
def F.MIR_FILL_STAT_WATERMARK : Fld := ⟨0x2008, 8, 20, 0, 0, .ro⟩
def R.MIR_FILL_STAT : RegDef where
  name := "MIR_FILL_STAT"
  off := 0x2008
  stride := 0
  count := 1
  width := 64
  lock := none
  flds := [F.MIR_FILL_STAT_STATE, F.MIR_FILL_STAT_QFULL, F.MIR_FILL_STAT_QUEUED, F.MIR_FILL_STAT_WATERMARK]

/-! `MIR_FILLRX_A`: R420 of spec/17_partner_shards_and_restore.md. -/
def F.MIR_FILLRX_A_SRCMOD : Fld := ⟨0x2100, 0, 16, 0, 128, .rw⟩
def F.MIR_FILLRX_A_ARM : Fld := ⟨0x2100, 16, 1, 0, 128, .rw⟩
def R.MIR_FILLRX_A : RegDef where
  name := "MIR_FILLRX_A"
  off := 0x2100
  stride := 16
  count := 16
  width := 64
  lock := none
  flds := [F.MIR_FILLRX_A_SRCMOD, F.MIR_FILLRX_A_ARM]

/-! `MIR_FILLRX_B`: R420 of spec/17_partner_shards_and_restore.md. -/
def F.MIR_FILLRX_B_STATE : Fld := ⟨0x2108, 0, 2, 0, 128, .ro⟩
def F.MIR_FILLRX_B_WATERMARK : Fld := ⟨0x2108, 8, 20, 0, 128, .ro⟩
def F.MIR_FILLRX_B_EPOCH : Fld := ⟨0x2108, 32, 32, 0, 128, .ro⟩
def R.MIR_FILLRX_B : RegDef where
  name := "MIR_FILLRX_B"
  off := 0x2108
  stride := 16
  count := 16
  width := 64
  lock := none
  flds := [F.MIR_FILLRX_B_STATE, F.MIR_FILLRX_B_WATERMARK, F.MIR_FILLRX_B_EPOCH]

/-! `MIR_CTRL`: R420 of spec/17_partner_shards_and_restore.md. -/
def F.MIR_CTRL_FILL2 : Fld := ⟨0x2800, 0, 1, 0, 0, .rwl⟩
def F.MIR_CTRL_FORCE_SKEW : Fld := ⟨0x2800, 1, 1, 0, 0, .rwl⟩
def F.MIR_CTRL_LOCK : Fld := ⟨0x2800, 63, 1, 0, 0, .w1s⟩
def R.MIR_CTRL : RegDef where
  name := "MIR_CTRL"
  off := 0x2800
  stride := 0
  count := 1
  width := 64
  lock := some F.MIR_CTRL_LOCK
  flds := [F.MIR_CTRL_FILL2, F.MIR_CTRL_FORCE_SKEW, F.MIR_CTRL_LOCK]

/-! `SEC_STATUS`: R447 of spec/18_bring_up_identity_licences.md. -/
def F.SEC_STATUS_BOOTSTATE : Fld := ⟨0x0, 0, 3, 0, 0, .ro⟩
def F.SEC_STATUS_SLOT : Fld := ⟨0x0, 3, 1, 0, 0, .ro⟩
def F.SEC_STATUS_FALLBACK : Fld := ⟨0x0, 4, 1, 0, 0, .ro⟩
def F.SEC_STATUS_ALIAS_READY : Fld := ⟨0x0, 5, 1, 0, 0, .ro⟩
def R.SEC_STATUS : RegDef where
  name := "SEC_STATUS"
  off := 0x0
  stride := 0
  count := 1
  width := 64
  lock := none
  flds := [F.SEC_STATUS_BOOTSTATE, F.SEC_STATUS_SLOT, F.SEC_STATUS_FALLBACK, F.SEC_STATUS_ALIAS_READY]

/-! `SEC_FWVER`: R447 of spec/18_bring_up_identity_licences.md. -/
def F.SEC_FWVER_VERSION : Fld := ⟨0x8, 0, 32, 0, 0, .ro⟩
def F.SEC_FWVER_SVN : Fld := ⟨0x8, 32, 7, 0, 0, .ro⟩
def R.SEC_FWVER : RegDef where
  name := "SEC_FWVER"
  off := 0x8
  stride := 0
  count := 1
  width := 64
  lock := none
  flds := [F.SEC_FWVER_VERSION, F.SEC_FWVER_SVN]

/-! `SEC_ARB`: R447 of spec/18_bring_up_identity_licences.md. -/
def F.SEC_ARB_COUNT : Fld := ⟨0x10, 0, 7, 0, 0, .ro⟩
def R.SEC_ARB : RegDef where
  name := "SEC_ARB"
  off := 0x10
  stride := 0
  count := 1
  width := 32
  lock := none
  flds := [F.SEC_ARB_COUNT]

/-! `SEC_SLOTSTAT`: R447 of spec/18_bring_up_identity_licences.md. -/
def F.SEC_SLOTSTAT_A_STATE : Fld := ⟨0x18, 0, 3, 0, 0, .ro⟩
def F.SEC_SLOTSTAT_B_STATE : Fld := ⟨0x18, 3, 3, 0, 0, .ro⟩
def F.SEC_SLOTSTAT_PREFER : Fld := ⟨0x18, 6, 1, 0, 0, .ro⟩
def R.SEC_SLOTSTAT : RegDef where
  name := "SEC_SLOTSTAT"
  off := 0x18
  stride := 0
  count := 1
  width := 32
  lock := none
  flds := [F.SEC_SLOTSTAT_A_STATE, F.SEC_SLOTSTAT_B_STATE, F.SEC_SLOTSTAT_PREFER]

/-! `SEC_FWCMD`: R447 of spec/18_bring_up_identity_licences.md. -/
def F.SEC_FWCMD_OP : Fld := ⟨0x20, 0, 3, 0, 0, .wo⟩
def F.SEC_FWCMD_CHUNK : Fld := ⟨0x20, 8, 12, 0, 0, .wo⟩
def R.SEC_FWCMD : RegDef where
  name := "SEC_FWCMD"
  off := 0x20
  stride := 0
  count := 1
  width := 64
  lock := none
  flds := [F.SEC_FWCMD_OP, F.SEC_FWCMD_CHUNK]

/-! `SEC_FWCMDSTAT`: R447 of spec/18_bring_up_identity_licences.md. -/
def F.SEC_FWCMDSTAT_STATE : Fld := ⟨0x28, 0, 2, 0, 0, .ro⟩
def F.SEC_FWCMDSTAT_REASON : Fld := ⟨0x28, 2, 4, 0, 0, .ro⟩
def R.SEC_FWCMDSTAT : RegDef where
  name := "SEC_FWCMDSTAT"
  off := 0x28
  stride := 0
  count := 1
  width := 32
  lock := none
  flds := [F.SEC_FWCMDSTAT_STATE, F.SEC_FWCMDSTAT_REASON]

/-! `SEC_IDSERIAL`: R447 of spec/18_bring_up_identity_licences.md. -/
def F.SEC_IDSERIAL_SERIAL : Fld := ⟨0x30, 0, 64, 0, 0, .ro⟩
def R.SEC_IDSERIAL : RegDef where
  name := "SEC_IDSERIAL"
  off := 0x30
  stride := 0
  count := 1
  width := 64
  lock := none
  flds := [F.SEC_IDSERIAL_SERIAL]

/-! `SEC_RPTGEN`: R447 of spec/18_bring_up_identity_licences.md. -/
def F.SEC_RPTGEN_GEN : Fld := ⟨0x38, 0, 32, 0, 0, .ro⟩
def R.SEC_RPTGEN : RegDef where
  name := "SEC_RPTGEN"
  off := 0x38
  stride := 0
  count := 1
  width := 32
  lock := none
  flds := [F.SEC_RPTGEN_GEN]

/-! `LIC_ACTIVE`: R448 of spec/18_bring_up_identity_licences.md. -/
def F.LIC_ACTIVE_FEATURES : Fld := ⟨0x0, 0, 6, 0, 0, .ro⟩
def R.LIC_ACTIVE : RegDef where
  name := "LIC_ACTIVE"
  off := 0x0
  stride := 0
  count := 1
  width := 32
  lock := none
  flds := [F.LIC_ACTIVE_FEATURES]

/-! `LIC_STORED`: R448 of spec/18_bring_up_identity_licences.md. -/
def F.LIC_STORED_VALID : Fld := ⟨0x8, 0, 16, 0, 0, .ro⟩
def F.LIC_STORED_PRESENT : Fld := ⟨0x8, 16, 16, 0, 0, .ro⟩
def R.LIC_STORED : RegDef where
  name := "LIC_STORED"
  off := 0x8
  stride := 0
  count := 1
  width := 64
  lock := none
  flds := [F.LIC_STORED_VALID, F.LIC_STORED_PRESENT]

/-! `LIC_CMD`: R448 of spec/18_bring_up_identity_licences.md. -/
def F.LIC_CMD_OP : Fld := ⟨0x10, 0, 2, 0, 0, .wo⟩
def F.LIC_CMD_INDEX : Fld := ⟨0x10, 4, 4, 0, 0, .wo⟩
def R.LIC_CMD : RegDef where
  name := "LIC_CMD"
  off := 0x10
  stride := 0
  count := 1
  width := 32
  lock := none
  flds := [F.LIC_CMD_OP, F.LIC_CMD_INDEX]

/-! `LIC_CMDSTAT`: R448 of spec/18_bring_up_identity_licences.md. -/
def F.LIC_CMDSTAT_STATE : Fld := ⟨0x18, 0, 2, 0, 0, .ro⟩
def F.LIC_CMDSTAT_REASON : Fld := ⟨0x18, 2, 4, 0, 0, .ro⟩
def F.LIC_CMDSTAT_INDEX : Fld := ⟨0x18, 6, 4, 0, 0, .ro⟩
def R.LIC_CMDSTAT : RegDef where
  name := "LIC_CMDSTAT"
  off := 0x18
  stride := 0
  count := 1
  width := 32
  lock := none
  flds := [F.LIC_CMDSTAT_STATE, F.LIC_CMDSTAT_REASON, F.LIC_CMDSTAT_INDEX]

/-! `LIC_ORDER`: R448 of spec/18_bring_up_identity_licences.md. -/
def F.LIC_ORDER_CODE : Fld := ⟨0x20, 0, 8, 0, 0, .ro⟩
def R.LIC_ORDER : RegDef where
  name := "LIC_ORDER"
  off := 0x20
  stride := 0
  count := 1
  width := 32
  lock := none
  flds := [F.LIC_ORDER_CODE]

/-! `PWR_CLASS`: R472 of spec/19_power_cooling_connectors.md. -/
def F.PWR_CLASS_STRAP : Fld := ⟨0x0, 0, 2, 0, 0, .ro⟩
def F.PWR_CLASS_STRAP_NOW : Fld := ⟨0x0, 2, 2, 0, 0, .ro⟩
def F.PWR_CLASS_CONFIRMED : Fld := ⟨0x0, 4, 2, 0, 0, .ro⟩
def F.PWR_CLASS_INFORCE : Fld := ⟨0x0, 6, 2, 2, 0, .ro⟩
def F.PWR_CLASS_RESULT : Fld := ⟨0x0, 8, 3, 0, 0, .ro⟩
def F.PWR_CLASS_LIMIT_W : Fld := ⟨0x0, 16, 16, 1500, 0, .ro⟩
def F.PWR_CLASS_MOD_ID : Fld := ⟨0x0, 32, 6, 0, 0, .ro⟩
def R.PWR_CLASS : RegDef where
  name := "PWR_CLASS"
  off := 0x0
  stride := 0
  count := 1
  width := 64
  lock := none
  flds := [F.PWR_CLASS_STRAP, F.PWR_CLASS_STRAP_NOW, F.PWR_CLASS_CONFIRMED, F.PWR_CLASS_INFORCE, F.PWR_CLASS_RESULT, F.PWR_CLASS_LIMIT_W, F.PWR_CLASS_MOD_ID]

/-! `PWR_CAP`: R472 of spec/19_power_cooling_connectors.md. -/
def F.PWR_CAP_CAP : Fld := ⟨0x8, 0, 16, 0, 0, .rwl⟩
def F.PWR_CAP_LOCK : Fld := ⟨0x8, 31, 1, 0, 0, .w1s⟩
def R.PWR_CAP : RegDef where
  name := "PWR_CAP"
  off := 0x8
  stride := 0
  count := 1
  width := 32
  lock := some F.PWR_CAP_LOCK
  flds := [F.PWR_CAP_CAP, F.PWR_CAP_LOCK]

/-! `PWR_INPUT`: R472 of spec/19_power_cooling_connectors.md. -/
def F.PWR_INPUT_WINDOW_W : Fld := ⟨0x10, 0, 16, 0, 0, .ro⟩
def F.PWR_INPUT_PEAK_W : Fld := ⟨0x10, 16, 16, 0, 0, .rc⟩
def F.PWR_INPUT_VIN_MV : Fld := ⟨0x10, 32, 16, 0, 0, .ro⟩
def R.PWR_INPUT : RegDef where
  name := "PWR_INPUT"
  off := 0x10
  stride := 0
  count := 1
  width := 64
  lock := none
  flds := [F.PWR_INPUT_WINDOW_W, F.PWR_INPUT_PEAK_W, F.PWR_INPUT_VIN_MV]

/-! `PWR_DUTY`: R472 of spec/19_power_cooling_connectors.md. -/
def F.PWR_DUTY_DUTY : Fld := ⟨0x18, 0, 4, 0, 0, .ro⟩
def F.PWR_DUTY_SOURCE : Fld := ⟨0x18, 4, 3, 0, 0, .ro⟩
def R.PWR_DUTY : RegDef where
  name := "PWR_DUTY"
  off := 0x18
  stride := 0
  count := 1
  width := 32
  lock := none
  flds := [F.PWR_DUTY_DUTY, F.PWR_DUTY_SOURCE]

/-! `PWR_TEMP`: R472 of spec/19_power_cooling_connectors.md. -/
def F.PWR_TEMP_TJ : Fld := ⟨0x20, 0, 8, 0, 8, .ro⟩
def F.PWR_TEMP_HBM_MAX : Fld := ⟨0x20, 32, 8, 0, 0, .ro⟩
def F.PWR_TEMP_HBM_STACK : Fld := ⟨0x20, 40, 5, 0, 0, .ro⟩
def R.PWR_TEMP : RegDef where
  name := "PWR_TEMP"
  off := 0x20
  stride := 0
  count := 1
  width := 64
  lock := none
  flds := [F.PWR_TEMP_HBM_MAX, F.PWR_TEMP_HBM_STACK] ++ F.pack F.PWR_TEMP_TJ 4 0

/-! `PWR_EVENTS`: R472 of spec/19_power_cooling_connectors.md. -/
def F.PWR_EVENTS_OVER : Fld := ⟨0x28, 0, 16, 0, 0, .rc⟩
def F.PWR_EVENTS_DROOP : Fld := ⟨0x28, 16, 16, 0, 0, .rc⟩
def F.PWR_EVENTS_THROTTLE_MS : Fld := ⟨0x28, 32, 32, 0, 0, .ro⟩
def R.PWR_EVENTS : RegDef where
  name := "PWR_EVENTS"
  off := 0x28
  stride := 0
  count := 1
  width := 64
  lock := none
  flds := [F.PWR_EVENTS_OVER, F.PWR_EVENTS_DROOP, F.PWR_EVENTS_THROTTLE_MS]

/-! `PWR_PDSTAT`: R472 of spec/19_power_cooling_connectors.md. -/
def F.PWR_PDSTAT_ON : Fld := ⟨0x30, 0, 44, 0, 0, .ro⟩
def F.PWR_PDSTAT_REJ : Fld := ⟨0x30, 44, 1, 0, 0, .w1c⟩
def R.PWR_PDSTAT : RegDef where
  name := "PWR_PDSTAT"
  off := 0x30
  stride := 0
  count := 1
  width := 64
  lock := none
  flds := [F.PWR_PDSTAT_ON, F.PWR_PDSTAT_REJ]

/-! `PWR_PDCTRL`: R472 of spec/19_power_cooling_connectors.md. -/
def F.PWR_PDCTRL_CLUSTER_OFF : Fld := ⟨0x38, 0, 16, 0, 0, .rw⟩
def R.PWR_PDCTRL : RegDef where
  name := "PWR_PDCTRL"
  off := 0x38
  stride := 0
  count := 1
  width := 32
  lock := none
  flds := [F.PWR_PDCTRL_CLUSTER_OFF]

/-! `PWR_RAIL`: R472 of spec/19_power_cooling_connectors.md. -/
def F.PWR_RAIL_MV : Fld := ⟨0x100, 0, 16, 0, 64, .ro⟩
def F.PWR_RAIL_CURRENT : Fld := ⟨0x100, 16, 16, 0, 64, .ro⟩
def F.PWR_RAIL_STATE : Fld := ⟨0x100, 32, 2, 0, 64, .ro⟩
def R.PWR_RAIL : RegDef where
  name := "PWR_RAIL"
  off := 0x100
  stride := 8
  count := 33
  width := 64
  lock := none
  flds := [F.PWR_RAIL_MV, F.PWR_RAIL_CURRENT, F.PWR_RAIL_STATE]

/-! `CLK_STATUS`: R473 of spec/19_power_cooling_connectors.md. -/
def F.CLK_STATUS_LOCK : Fld := ⟨0x0, 0, 4, 0, 0, .ro⟩
def F.CLK_STATUS_CORE_DIV : Fld := ⟨0x0, 4, 4, 12, 0, .ro⟩
def F.CLK_STATUS_NET_DIV : Fld := ⟨0x0, 8, 4, 6, 0, .ro⟩
def F.CLK_STATUS_MSE_DIV : Fld := ⟨0x0, 12, 4, 6, 0, .ro⟩
def F.CLK_STATUS_CTL_DIV : Fld := ⟨0x0, 16, 5, 16, 0, .ro⟩
def F.CLK_STATUS_REF_OK : Fld := ⟨0x0, 21, 1, 0, 0, .ro⟩
def R.CLK_STATUS : RegDef where
  name := "CLK_STATUS"
  off := 0x0
  stride := 0
  count := 1
  width := 64
  lock := some F.CLK_STATUS_LOCK
  flds := [F.CLK_STATUS_LOCK, F.CLK_STATUS_CORE_DIV, F.CLK_STATUS_NET_DIV, F.CLK_STATUS_MSE_DIV, F.CLK_STATUS_CTL_DIV, F.CLK_STATUS_REF_OK]

/-! `CLK_PHY`: R473 of spec/19_power_cooling_connectors.md. -/
def F.CLK_PHY_HBM : Fld := ⟨0x8, 0, 20, 0, 0, .ro⟩
def F.CLK_PHY_LINK : Fld := ⟨0x8, 20, 8, 0, 0, .ro⟩
def F.CLK_PHY_CXL : Fld := ⟨0x8, 28, 1, 0, 0, .ro⟩
def R.CLK_PHY : RegDef where
  name := "CLK_PHY"
  off := 0x8
  stride := 0
  count := 1
  width := 64
  lock := none
  flds := [F.CLK_PHY_HBM, F.CLK_PHY_LINK, F.CLK_PHY_CXL]

/-! `SEQ_ILLOG` entry k, 0x400 + k × 0x20: R145 of spec/05_programs_and_queues.md (one doubleword after another). -/
def F.SEQ_ILLOG_WORD_LO : Fld := ⟨0x400, 0, 64, 0, 256, .ro⟩
def F.SEQ_ILLOG_WORD_HI : Fld := ⟨0x408, 0, 64, 0, 256, .ro⟩
def F.SEQ_ILLOG_IADDR : Fld := ⟨0x410, 0, 14, 0, 256, .ro⟩
def F.SEQ_ILLOG_REASON : Fld := ⟨0x410, 14, 8, 0, 256, .ro⟩
def F.SEQ_ILLOG_UNIT : Fld := ⟨0x410, 22, 4, 0, 256, .ro⟩
def F.SEQ_ILLOG_SEQNO : Fld := ⟨0x410, 32, 32, 0, 256, .ro⟩
def R.SEQ_ILLOG : RegDef where
  name := "SEQ_ILLOG"
  off := 0x400
  stride := 32
  count := 32
  width := 64
  lock := none
  flds := [F.SEQ_ILLOG_WORD_LO]
def R.SEQ_ILLOG1 : RegDef where
  name := "SEQ_ILLOG"
  off := 0x408
  stride := 32
  count := 32
  width := 64
  lock := none
  flds := [F.SEQ_ILLOG_WORD_HI]
def R.SEQ_ILLOG2 : RegDef where
  name := "SEQ_ILLOG"
  off := 0x410
  stride := 32
  count := 32
  width := 64
  lock := none
  flds := [F.SEQ_ILLOG_IADDR, F.SEQ_ILLOG_REASON, F.SEQ_ILLOG_UNIT, F.SEQ_ILLOG_SEQNO]

/-! `ERR_LOG` entry k, 0x1000 + k × 0x20: R394, R399 of spec/16_errors_and_ordering.md (four doublewords). -/
def F.ERR_LOG_WORD : Fld := ⟨0x1000, 0, 64, 0, 64, .ro⟩
def R.ERR_LOG : RegDef where
  name := "ERR_LOG"
  off := 0x1000
  stride := 8
  count := 4096
  width := 64
  lock := none
  flds := [F.ERR_LOG_WORD]

/-! Stream table entry k, 0x3_0000 + k × 8 of a core's slot: R222 of spec/08_pricking_network.md. -/
def F.NET_STREAM_STREAM : Fld := ⟨0x30000, 0, 12, 0, 64, .rw⟩
def F.NET_STREAM_ROLE : Fld := ⟨0x30000, 12, 3, 0, 64, .rw⟩
def F.NET_STREAM_UNIT : Fld := ⟨0x30000, 15, 2, 0, 64, .rw⟩
def F.NET_STREAM_WINDOW : Fld := ⟨0x30000, 17, 4, 0, 64, .rw⟩
def R.NET_STREAM : RegDef where
  name := "NET_STREAM"
  off := 0x30000
  stride := 8
  count := 256
  width := 64
  lock := none
  flds := [F.NET_STREAM_STREAM, F.NET_STREAM_ROLE, F.NET_STREAM_UNIT, F.NET_STREAM_WINDOW]

/-- The registers of a engine's page. -/
def pageOpe : List RegDef :=
  [R.OPE_CTRL, R.OPE_STATUS, R.OPE_TIMING, R.OPE_CYCLES, R.OPE_STREAM, R.OPE_PASSES,
   R.OPE_BUBBLES, R.OPE_RAMPS, R.OPE_FROZEN, R.OPE_ERR, R.OPE_ERRCNT, R.OPE_REPLAYS,
   R.OPE_PREEMPT_WAIT, R.OPE_UNGUARD]

/-- The registers of a accumulator's page. -/
def pageAcc : List RegDef :=
  [R.ACC_LIVE, R.ACC_SHADOW_BUSY, R.ACC_PENDING, R.ACC_POISON, R.ACC_ECC, R.ACC_ECC_ADDR,
   R.ACC_DRAINQ, R.ACC_HOLD]

/-- The registers of a drain unit's page. -/
def pageDrn : List RegDef :=
  [R.DRN_CTRL, R.DRN_STATUS, R.DRN_ROWS, R.DRN_WAIT, R.DRN_STALL, R.DRN_ERR,
   R.DRN_ERRCNT, R.DRN_NR, R.DRN_PROF_A, R.DRN_PROF_B, R.DRN_PROF_C, R.DRN_PROF_D,
   R.DRN_PROF_E]

/-- The registers of a sequencer's page. -/
def pageSeq : List RegDef :=
  [R.SEQ_CTRL, R.SEQ_START, R.SEQ_STATUS, R.SEQ_QDEPTH, R.SEQ_WAITLIMIT, R.SEQ_FLAGEXT,
   R.SEQ_FLAGSIG, R.SEQ_ILLCNT, R.SEQ_ILLPTR, R.SEQ_STALL_FULL, R.SEQ_STALL_REG, R.SEQ_FETCH,
   R.SEQ_ABORT, R.SEQ_ABORTFLAG, R.SEQ_IMEMREJ, R.SEQ_ERR, R.SEQ_SIGDROP, R.SEQ_FLAG,
   R.SEQ_X, R.SEQ_RNGSEED, R.SEQ_RNGPOS, R.SEQ_ILLOG, R.SEQ_ILLOG1, R.SEQ_ILLOG2]

/-- The registers of a scratchpad's page. -/
def pageSpd : List RegDef :=
  [R.SPD_CTRL, R.SPD_WINOPEN, R.SPD_LATEDROP, R.SPD_REFUSED, R.SPD_RESETDROP, R.SPD_LASTREF,
   R.SPD_CREDIT, R.SPD_CONFLICT, R.SPD_ECC, R.SPD_ECC_ADDR, R.SPD_SPARE, R.SPD_ABORTKIND,
   R.SPD_ERR, R.SPD_WIN_A, R.SPD_WIN_B, R.SPD_ARRIVE]

/-- The registers of a network page of a die. -/
def pageNet : List RegDef :=
  [R.NET_FRAME, R.NET_SLOT, R.NET_SUPPRESS, R.NET_LOAD, R.NET_YIELDID, R.NET_LOADID,
   R.NET_PARTHOLD, R.NET_ACTIVE, R.NET_ERR, R.NET_ERRCNT, R.NET_MERGEQ, R.NET_NRCNT,
   R.NET_LATEMAX, R.NET_BRIDGE]

/-- The registers of a bobbin's block. -/
def pageBob : List RegDef :=
  [R.BOB_CTRL, R.BOB_STATUS, R.BOB_XFERS, R.BOB_BYTES, R.BOB_REQS, R.BOB_REGHOLD,
   R.BOB_TAGHOLD, R.BOB_ERR, R.BOB_REFCNT, R.BOB_COPYREC, R.BOB_REG]

/-- The registers of a bobbins' page, core-wide part. -/
def pageBobc : List RegDef :=
  [R.BOB_TAGS, R.BOB_ABORTKIND, R.BOB_ALLOT, R.BOB_RING_CFG, R.BOB_RING_PTR]

/-- The registers of a bobbin's fault block. -/
def pageFlt : List RegDef :=
  [R.BOB_FLT_STATUS, R.BOB_FLT_ADDR, R.BOB_FLT_COORD0, R.BOB_FLT_COORD1, R.BOB_FLT_BYTES, R.BOB_FLT_DESC]

/-- The registers of a stack controller's page. -/
def pageHbm : List RegDef :=
  [R.HBM_STATUS, R.HBM_ECC, R.HBM_ECC_ADDR, R.HBM_SCRUB, R.HBM_RETIRE, R.HBM_RBUF]

/-- The registers of a picot's page. -/
def pageMse : List RegDef :=
  [R.MSE_STATUS, R.MSE_ATOMICS, R.MSE_OPS, R.MSE_ERR, R.MSE_ERRCNT, R.MSE_REPLAYPEAK]

/-- The registers of a module-wide memory page. -/
def pageMmem : List RegDef :=
  [R.HBM_MAP, R.HBM_MAPERR, R.MSE_OWNCMD, R.MSE_OWNSTAT, R.MSE_NORMRANGE, R.MSE_NORMSEL,
   R.MSE_NORMDATA, R.MSE_SEED]

/-- The registers of a port's page. -/
def pageBrd : List RegDef :=
  [R.BRD_CTRL, R.BRD_STATUS, R.BRD_FEC, R.BRD_RETRY, R.BRD_LANEBER, R.BRD_THRESH,
   R.BRD_CTLWAIT, R.BRD_TXFLITS, R.BRD_RXFLITS, R.BRD_ERR]

/-- The registers of a module-wide bride page. -/
def pageBrdm : List RegDef :=
  [R.BRD_MODID, R.BRD_ROUTECFG, R.BRD_RSPLIMIT, R.BRD_DROP, R.BRD_ACTIVE, R.BRD_TIMEOUT,
   R.BRD_JOB]

/-- The registers of a receptacle's page (CAB_POLICY at 0xF000 of the first). -/
def pageCab : List RegDef :=
  [R.CAB_STATUS, R.CAB_SERIAL, R.CAB_MATINGS, R.CAB_HOURS, R.CAB_UPSEC, R.CAB_ERR,
   R.CAB_POLICY]

/-- The registers of a multicast and barrier page. -/
def pageMcast : List RegDef :=
  [R.BRD_TXMAP, R.BRD_MCDELIV, R.BRD_MCCFG, R.BRD_MCSTAT, R.BRD_MCCNT, R.BRD_BARCFG,
   R.BRD_BARSTAT, R.BRD_MCBUF]

/-- The registers of a core's control slot, outside its unit pages. -/
def pageSlot : List RegDef :=
  [R.BRD_BARRIVE, R.BRD_BARREJ, R.CXL_POST, R.NET_STREAM]

/-- The registers of a host port page. -/
def pageCxl : List RegDef :=
  [R.CXL_LINK, R.CXL_PFPART, R.CXL_AUTHREJ, R.CXL_AUTHADDR, R.CXL_AUTHCNT, R.CXL_BILIMIT,
   R.CXL_RSPLIMIT, R.CXL_SF, R.CXL_BISNP, R.CXL_ERR, R.CXL_ERRCNT]

/-- The registers of a partition's doorbell page. -/
def pageDb : List RegDef :=
  [R.CXL_DB, R.CXL_CQBASE, R.CXL_CQCFG, R.CXL_CQHEAD, R.CXL_CQTAIL, R.CXL_CQSTAT,
   R.CXL_DBSTAT]

/-- The registers of a partition page. -/
def pagePrt : List RegDef :=
  [R.PRT_CMD, R.PRT_CMDSTAT, R.PRT_MAP, R.PRT_EXIST, R.PRT_P, R.PRT_PSTAT]

/-- The registers of a reset page. -/
def pageRst : List RegDef :=
  [R.RST_CMD, R.RST_STAT, R.RST_CORESTAT, R.RST_LAST, R.RST_COUNTS]

/-- The registers of a error page. -/
def pageErr : List RegDef :=
  [R.ERR_CTRL, R.ERR_STATUS, R.ERR_LOGPTR, R.ERR_CNT, R.ERR_HOURCUR, R.ERR_HOURLAST,
   R.ERR_IST, R.ERR_SPARE, R.ERR_FATAL, R.ERR_LOG]

/-- The registers of a mirror page. -/
def pageMir : List RegDef :=
  [R.MIR_CFG, R.MIR_RESBASE, R.MIR_PARTNER, R.MIR_EPOCH, R.MIR_STATE, R.MIR_COMMIT,
   R.MIR_CSTEP, R.MIR_CMD, R.MIR_RNGSTEP, R.MIR_RESTSTAT, R.MIR_LAST, R.MIR_LAST2,
   R.MIR_CNT, R.MIR_STORE_A, R.MIR_STORE_B, R.MIR_STORE_C, R.MIR_STORE_D, R.MIR_FILL_CTRL,
   R.MIR_FILL_STAT, R.MIR_FILLRX_A, R.MIR_FILLRX_B, R.MIR_CTRL]

/-- The registers of a security page. -/
def pageSec : List RegDef :=
  [R.SEC_STATUS, R.SEC_FWVER, R.SEC_ARB, R.SEC_SLOTSTAT, R.SEC_FWCMD, R.SEC_FWCMDSTAT,
   R.SEC_IDSERIAL, R.SEC_RPTGEN]

/-- The registers of a licence page. -/
def pageLic : List RegDef :=
  [R.LIC_ACTIVE, R.LIC_STORED, R.LIC_CMD, R.LIC_CMDSTAT, R.LIC_ORDER]

/-- The registers of a power page. -/
def pagePwr : List RegDef :=
  [R.PWR_CLASS, R.PWR_CAP, R.PWR_INPUT, R.PWR_DUTY, R.PWR_TEMP, R.PWR_EVENTS,
   R.PWR_PDSTAT, R.PWR_PDCTRL, R.PWR_RAIL]

/-- The registers of a clock page. -/
def pageClk : List RegDef :=
  [R.CLK_STATUS, R.CLK_PHY]

end Sys2Proof.Machine
end

