-- ==== Sys2Proof/Machine/Ops.lean ====
section
/-!
DEFINITION. The named operations over registers and core state that every meaning is written in: where a unit's page
lies, reading and writing a register field, counters, cores by number (R4, R5), scalar registers, flags as plain values,
the scratchpad, queues, and time.
-/
namespace Sys2Proof.Machine

/-! ### Pages (R7 to R10 and the opening words of each chapter's Registers section) -/

/-- The control slot of a physical core. -/
def coreBase (c : PCore) : Nat := 0xA00000000000 + c.val * 0x100000
/-- The page of an engine (R62). -/
def opeBase (c : PCore) (e : Eng) : Nat := coreBase c + 0x10000 + e.val * 0x1000
/-- The page of an engine's accumulator (R120). -/
def accBase (c : PCore) (e : Eng) : Nat := coreBase c + 0x14000 + e.val * 0x1000
/-- The page of an engine's drain unit (R121). -/
def drnBase (c : PCore) (e : Eng) : Nat := coreBase c + 0x18000 + e.val * 0x1000
/-- The page of a core's scratchpad registers (R193). -/
def spdBase (c : PCore) : Nat := coreBase c + 0x20000
/-- The block of a bobbin (R243). -/
def bobBase (c : PCore) (b : Bob) : Nat := coreBase c + 0x40000 + b.val * 0x400
/-- The part of the bobbins' page that serves the whole core (R243). -/
def bobcBase (c : PCore) : Nat := coreBase c + 0x40000
/-- The fault block of a bobbin (R243). -/
def fltBase (c : PCore) (b : Bob) : Nat := coreBase c + 0x42000 + b.val * 0x100
/-- The network page of a die (R221); module-wide registers stand in die 0's. -/
def netBase (d : Die) : Nat := 0xA00010400000 + d.val * 0x200000
/-- The page of a stack's controller (R269). -/
def hbmBase (k : Stack) : Nat := 0xA00011000000 + k.val * 0x200000
/-- The page of a stack's picot (R270). -/
def mseBase (k : Stack) : Nat := hbmBase k + 0x100000
/-- The module-wide memory page (R271, R285). -/
def mmemBase : Nat := 0xA00013800000
/-- The page of a bride port (R314). -/
def brdBase (p : Port) : Nat := 0xA00014000000 + p.val * 0x100000
/-- The module-wide bride page (R315). -/
def brdmBase : Nat := 0xA00015800000
/-- The route table (R302, R304). -/
def routeBase : Nat := 0xA00015900000
/-- The page of a cable receptacle (R316). -/
def cabBase (n : Recept) : Nat := 0xA00015A00000 + n.val * 0x1000
/-- The first receptacle's page, where `CAB_POLICY` lies at 0xF000 (R316). -/
def cabmBase : Nat := 0xA00015A00000
/-- The multicast and barrier page (R336). -/
def mcastBase : Nat := 0xA00015B00000
/-- The host port page (R360). -/
def cxlBase : Nat := 0xA00016000000
/-- The doorbell page of a partition (R361). -/
def dbBase (p : Part) : Nat := 0xA00016100000 + p.val * 0x10000
/-- The partition page (R380). -/
def prtBase : Nat := 0xA00017000000
/-- The reset page (R381). -/
def rstBase : Nat := 0xA00017100000
/-- The error page (R399). -/
def errBase : Nat := 0xA00018000000
/-- The mirror page (R418 to R420). -/
def mirBase : Nat := 0xA00019000000
/-- The security page (R447). -/
def secBase : Nat := 0xA0001A000000
/-- The licence page (R448). -/
def licBase : Nat := 0xA0001A100000
/-- The power page (R472). -/
def pwrBase : Nat := 0xA0001B000000
/-- The clock page (R473). -/
def clkBase : Nat := 0xA0001B100000

/-! ### Register fields -/

/-- The bit address of instance `i` of a field in the page at `base`. -/
def fkey (base : Nat) (f : Fld) (i : Nat) : Nat := (base + f.off) * 8 + f.lo + i * f.step

/-- The value of a field. The map holds each value's difference (exclusive or) from the field's reset value, so that a
register file right after reset lists nothing. -/
def State.rd (s : State) (base : Nat) (f : Fld) (i : Nat := 0) : Nat := SMap.get 0 s.regs (fkey base f i) ^^^ f.rst

/-- Set a field to a value, taken modulo 2^width. -/
def State.wr (s : State) (base : Nat) (f : Fld) (v : Nat) (i : Nat := 0) : State :=
  { s with regs := SMap.set 0 s.regs (fkey base f i) ((v % 2 ^ f.w) ^^^ f.rst) }

/-- Whether a one-bit field is set. -/
def State.on (s : State) (base : Nat) (f : Fld) (i : Nat := 0) : Bool := decide (s.rd base f i ≠ 0)

/-- Set a one-bit field. -/
def State.setOn (s : State) (base : Nat) (f : Fld) (i : Nat := 0) : State := s.wr base f 1 i

/-- Add to a counter that saturates at its width. -/
def State.sat (s : State) (base : Nat) (f : Fld) (n : Nat := 1) (i : Nat := 0) : State :=
  s.wr base f (satAdd f.w (s.rd base f i) n) i

/-- Add to a counter that wraps at its width. -/
def State.count (s : State) (base : Nat) (f : Fld) (n : Nat := 1) (i : Nat := 0) : State :=
  s.wr base f (s.rd base f i + n) i

/-- Set or clear bit `k` of a field. -/
def State.wrBit (s : State) (base : Nat) (f : Fld) (k : Nat) (b : Bool) (i : Nat := 0) : State :=
  s.wr base f (putBit (s.rd base f i) k b) i

/-- Bit `k` of a field. -/
def State.rdBit (s : State) (base : Nat) (f : Fld) (k : Nat) (i : Nat := 0) : Bool := bit (s.rd base f i) k

/-- Return to reset every field whose bit address lies in bytes [lo, hi) and for which `keep` does not hold. -/
def State.resetRange (s : State) (lo hi : Nat) (keep : Nat → Bool := fun _ => false) : State :=
  { s with regs := SMap.wipe (fun k => decide (lo * 8 ≤ k) && decide (k < hi * 8) && !keep k) s.regs }

/-- A limit register's value, where 0 is treated as `d`. -/
def limitOr (d v : Nat) : Nat := if v = 0 then d else v

/-! ### Cores -/

/-- Change what a core holds beside its registers. -/
def State.onCore (s : State) (c : PCore) (f : CoreRec → CoreRec) : State := { s with cores := vupd s.cores c f }

/-- What a core holds beside its registers. -/
def State.core (s : State) (c : PCore) : CoreRec := s.cores[c]

/-- Every physical core, in ascending order. -/
def allCores : List PCore := List.finRange 64

/-- The cluster of a core: die × 4 + row (R4). -/
def clusterOf (c : PCore) : Cluster := ⟨c.val / 4, by omega⟩

/-- The die of a core (R4). -/
def dieOf (c : PCore) : Die := ⟨c.val / 16, by omega⟩

/-- The partition that owns a core's cluster (R363, R380). -/
def State.partOf (s : State) (c : PCore) : Nat := s.rd prtBase F.PRT_MAP_OWNER (clusterOf c).val

/-- The within-die index of the core that the yield map disables on a die (R5, R21). -/
def State.yieldOff (s : State) (d : Die) : Nat := (s.disabled[d]).val

/-- The logical number of a physical core; none for the disabled core of its die (R5). -/
def State.logicalOf (s : State) (c : PCore) : Option Nat :=
  let k := s.yieldOff (dieOf c)
  let i := c.val % 16
  if i = k then none else some ((dieOf c).val * 15 + (if i < k then i else i - 1))

/-- The physical core of a logical number 0-59 (R5). -/
def State.physOf (s : State) (l : Nat) : Option PCore :=
  if h : l < 60 then
    let k := s.yieldOff ⟨l / 15, by omega⟩
    let i := if l % 15 < k then l % 15 else l % 15 + 1
    if hi : i < 16 then some ⟨l / 15 * 16 + i, by omega⟩ else none
  else none

/-- The sequencer's state of R123. -/
def State.seqState (s : State) (c : PCore) : Nat := s.rd (coreBase c) F.SEQ_STATUS_STATE

/-- Whether a core's cluster domain is on (R454, R472). -/
def State.powered (s : State) (c : PCore) : Bool := s.rdBit pwrBase F.PWR_PDSTAT_ON (clusterOf c).val

/-- Whether a core is in a core reset (R370, R381), or without power, which SIGNALs, window writes and GO find the same (R455). -/
def State.inReset (s : State) (c : PCore) : Bool := s.rdBit rstBase F.RST_CORESTAT_INRESET c.val || !s.powered c

/-- Whether a partition is in a partition reset (R373, R380). -/
def State.partInReset (s : State) (p : Nat) : Bool := s.on prtBase F.PRT_PSTAT_INRESET p

/-- The cores of a partition's task: those in state 1, 2 or 3 (R123, R144). -/
def State.taskCores (s : State) (p : Nat) : List PCore :=
  allCores.filter fun c => decide (s.partOf c = p) && (decide (s.seqState c = 1) || decide (s.seqState c = 2) || decide (s.seqState c = 3))

/-- This module's ID (R305). -/
def State.modId (s : State) : Nat := s.rd brdmBase F.BRD_MODID_ID

/-- Microseconds since power-on, from the root clock of 7,520 MHz (R394, R457). -/
def State.us (s : State) : Nat := s.ticks / 7520

/-- The power class in force: 0 L, 1 I, 2 A (R153, R472). -/
def State.powerClass (s : State) : Nat := s.rd pwrBase F.PWR_CLASS_INFORCE

/-- A licensed feature is active (R445, R448). -/
def State.licensed (s : State) (feature : Nat) : Bool := s.rdBit licBase F.LIC_ACTIVE_FEATURES feature

/-- Whether a core is enabled by the yield map (R5). -/
def State.enabled (s : State) (c : PCore) : Bool := (s.logicalOf c).isSome

/-! ### Scalar registers (R122, R150) -/

/-- A scalar register; x0 reads as zero. -/
def State.x (s : State) (c : PCore) (r : Nat) : Word64 :=
  if r = 0 then 0 else BitVec.ofNat 64 (s.rd (coreBase c) F.SEQ_X_VALUE r)

/-- Write a scalar register; a write to x0 is discarded. -/
def State.setX (s : State) (c : PCore) (r : Nat) (v : Word64) : State :=
  if r = 0 then s else s.wr (coreBase c) F.SEQ_X_VALUE v.toNat r

/-- A flag's value (R122). -/
def State.flag (s : State) (c : PCore) (f : Nat) : Nat := s.rd (coreBase c) F.SEQ_FLAG_VALUE f

/-- Set a flag's value. -/
def State.setFlag (s : State) (c : PCore) (f : Nat) (v : Nat) : State := s.wr (coreBase c) F.SEQ_FLAG_VALUE v f

/-- An arrival counter (R156, R193). -/
def State.arrive (s : State) (c : PCore) (k : Nat) : Nat := s.rd (spdBase c) F.SPD_ARRIVE_COUNT k

/-! ### Instruction words (R146, R124) -/

/-- Bits [lo + n − 1 : lo] of an instruction word. -/
def fieldOf (w : IWord) (lo n : Nat) : Nat := bits w.toNat lo n
/-- OPCODE [127:120]. -/
def opcodeOf (w : IWord) : Nat := fieldOf w 120 8
/-- CLASS [119:116]. -/
def classOf (w : IWord) : Nat := fieldOf w 116 4
/-- PRED [115:112]. -/
def predOf (w : IWord) : Nat := fieldOf w 112 4

/-- The program counter (R122). -/
def State.pc (s : State) (c : PCore) : Nat := s.rd (coreBase c) F.SEQ_STATUS_PC
/-- The active bank (R122). -/
def State.bank (s : State) (c : PCore) : Nat := s.rd (coreBase c) F.SEQ_STATUS_ACTIVE_BANK
/-- The instruction address of the program counter: bank × 8,192 + index (R124). -/
def State.iaddr (s : State) (c : PCore) : Nat := s.bank c * 8192 + s.pc c
/-- The instruction word at an instruction address. -/
def State.imemAt (s : State) (c : PCore) (ia : Nat) : IWord := SMap.get 0 (s.core c).imem ia
/-- The word at the program counter. -/
def State.fetch (s : State) (c : PCore) : IWord := s.imemAt c (s.iaddr c)

/-! ### Reports (R355, R394) -/

/-- Send something to the outside. -/
def State.emit (s : State) (o : Out) : State := { s with out := s.out ++ [o] }

/-- The writes that bytes of host memory take, line by line: WOWrInvF for a whole line, WOWrInv for a part of one (R349). -/
def hostLines (a : Nat) (bs : List Byte) : List Out :=
  (linesOf a bs.length).map fun l =>
    let lo := max a (l * 64)
    let n := min (a + bs.length) (l * 64 + 64) - lo
    .hostWrite lo ((bs.drop (lo - a)).take n) (decide (n = 64))

/-- Write bytes of host memory (R349). -/
def State.writeHost (s : State) (a : Nat) (bs : List Byte) : State := { s with out := s.out ++ hostLines a bs }

/-- Send MSI-X vector `v` of a function under the MSI-X rules: nothing while disabled, pending while masked (R355). -/
def State.msix (s : State) (f : Func) (v : Nat) : State :=
  let r := s.funcs[f]
  if !r.msixEn then s
  else if r.fnMask || SMap.get false r.vecMask v then
    { s with funcs := vupd s.funcs f fun r => { r with pend := SMap.set false r.pend v true } }
  else s.emit (.msix f.val v)

/-- One record of the error log (R394): class, unit, unit number, location, partition (0x10 none), cause, action, test
and address. -/
structure ErrRec where
  cls    : Nat
  unit   : Nat
  unitId : Nat
  loc    : Nat
  part   : Nat
  cause  : Nat
  action : Nat
  test   : Nat
  addr   : Nat
  deriving DecidableEq, Repr

/-- The four doublewords of a record (R394). -/
def ErrRec.words (r : ErrRec) (time seqno : Nat) : List Nat :=
  [time % 2 ^ 64,
   r.cls % 4 + (r.unit % 256) * 2 ^ 8 + (r.unitId % 65536) * 2 ^ 16 + (r.loc % 2 ^ 32) * 2 ^ 32,
   r.part % 32 + (r.cause % 256) * 2 ^ 8 + (r.action % 256) * 2 ^ 16 + (r.test % 256) * 2 ^ 24 + (seqno % 2 ^ 32) * 2 ^ 32,
   r.addr % 2 ^ 64]

/-- Counters a record moves: `ERR_CNT` by class and the hour's counts, with PF0 vector 1 when the hour's corrected count
reaches `ERR_CTRL`.NOTIFY (R382, R399). -/
def State.errCount (s : State) (cls : Nat) : State :=
  match cls with
  | 0 =>
    let s := (s.sat errBase F.ERR_CNT_CORRECTED).sat errBase F.ERR_HOURCUR_CORR
    if s.rd errBase F.ERR_HOURCUR_CORR = s.rd errBase F.ERR_CTRL_NOTIFY then s.msix 0 1 else s
  | 1 => s.sat errBase F.ERR_CNT_DEFERRED
  | 2 => (s.sat errBase F.ERR_CNT_CONTAINED).sat errBase F.ERR_HOURCUR_CONTAINED
  | _ => s

/-- Write a record into the log ring of 1,024 entries and advance `ERR_LOGPTR` (ERROR_LOG_WRITE; R394). -/
def State.logWrite (s : State) (r : ErrRec) : State :=
  let seqno := (s.rd errBase F.ERR_LOGPTR_SEQNO + 1) % 2 ^ 32
  let next := s.rd errBase F.ERR_LOGPTR_NEXT
  let ws := r.words s.us seqno
  let s := (List.range 4).foldl (fun s i => s.wr errBase F.ERR_LOG_WORD (ws.getD i 0) (next * 4 + i)) s
  let s := s.wr errBase F.ERR_LOGPTR_SEQNO seqno
  let s := s.wr errBase F.ERR_LOGPTR_NEXT (next + 1)
  if next = 1023 then s.setOn errBase F.ERR_LOGPTR_WRAPPED else s

/-- Log an error and count it; a fatal record also goes to the boot flash and to `ERR_FATAL` (R394, R399). -/
def State.errLog (s : State) (r : ErrRec) : State :=
  let s := (s.logWrite r).errCount r.cls
  let seqno := s.rd errBase F.ERR_LOGPTR_SEQNO
  if r.cls = 3 then
    let s := { s with fatalLog := s.fatalLog ++ [r.words s.us seqno] }
    ((s.setOn errBase F.ERR_FATAL_VALID).wr errBase F.ERR_FATAL_CAUSE r.cause).wr errBase F.ERR_FATAL_SEQNO seqno
  else s

/-- A log record with the usual fields zero. -/
def errRec (cls unit unitId loc part cause action : Nat) (test : Nat := 0) (addr : Nat := 0) : ErrRec :=
  ⟨cls, unit, unitId, loc, part, cause, action, test, addr⟩

/-! ### Quarantine (R386) -/

/-- The part of a location that names a unit of its own: a scratchpad or instruction-memory bank, a lane, a stack page (R386, R395). -/
def quarPlace (unit loc : Nat) : Nat := if unit = 0x5 then loc % 64 else if unit = 0x4 then loc / 8192 else if unit = 0xB ∨ unit = 0x9 then loc else 0

/-- Whether a unit is under quarantine. -/
def State.inQuarantine (s : State) (unit unitId loc : Nat) : Bool :=
  s.quar.any fun q => q.unit = unit && q.unitId = unitId && quarPlace q.unit q.loc = quarPlace unit loc

/-- The core whose scratchpad, accumulator or instruction memory a record's unit is (R386, R395). -/
def coreOfUnit (unit unitId : Nat) : Option PCore :=
  if unit = 0x2 then some ⟨unitId / 4 % 64, Nat.mod_lt _ (by omega)⟩
  else if unit = 0x4 ∨ unit = 0x5 then some ⟨unitId % 64, Nat.mod_lt _ (by omega)⟩ else none

/-- Put a unit under quarantine after the error of a SEQNO, once (R386, R398): `ERR_STATUS` counts its pending test, and the unit once its quarantine
begins: of a memory of a core, not while the core is in state 1 or 2. An error that comes while the unit's test runs makes the test fail. -/
def State.quarantineAs (s : State) (cls unit unitId loc cause seqno : Nat) : State :=
  if s.inQuarantine unit unitId loc then
    { s with quar := s.quar.map fun q =>
      if q.unit = unit && q.unitId = unitId && quarPlace q.unit q.loc = quarPlace unit loc && q.started.isSome then { q with again := true } else q }
  else
    let shut := match coreOfUnit unit unitId with
      | some c => decide (s.seqState c ≠ 1) && decide (s.seqState c ≠ 2)
      | none => true
    let s := { s with quar := s.quar ++ [(⟨unit, unitId, cls, loc, cause, seqno, none, none, false, shut⟩ : QuarRec)] }
    let s := s.sat errBase F.ERR_STATUS_PENDING
    if shut then s.sat errBase F.ERR_STATUS_QUARANTINED else s

/-- Put a unit under quarantine after the error just logged (R386). -/
def State.quarantine (s : State) (cls unit unitId loc cause : Nat) : State :=
  s.quarantineAs cls unit unitId loc cause (s.rd errBase F.ERR_LOGPTR_SEQNO)

/-- The quarantine of a core's memories that have had errors begins, at the end or the abort of its task (R386). -/
def State.quarBegin (s : State) (c : PCore) : State :=
  let due (q : QuarRec) : Bool := !q.shut && decide (coreOfUnit q.unit q.unitId = some c)
  if !s.quar.any due then s
  else
    let n := (s.quar.filter due).length
    ({ s with quar := s.quar.map fun q => if due q then { q with shut := true } else q }).sat errBase F.ERR_STATUS_QUARANTINED n

/-- Count a corrected error of a unit in this hour; at `ERR_CTRL`.THRESH (0 as 16) it is recorded with CAUSE 0x1F and the unit is
quarantined, or only counted where it is already (R386, R396, R398, R399). -/
def State.errCorrected (s : State) (unit unitId loc part addr : Nat) : State :=
  let s := s.errLog (errRec 0 unit unitId loc part 0x01 0x1 0 addr)
  let key := (unit * 2 ^ 16 + unitId) * 2 ^ 18 + quarPlace unit loc
  let n := SMap.get 0 s.corrHour key + 1
  let s := { s with corrHour := SMap.set 0 s.corrHour key n }
  if n = limitOr 16 (s.rd errBase F.ERR_CTRL_THRESH) then
    if s.inQuarantine unit unitId loc then s.errLog (errRec 0 unit unitId loc part 0x1F 0x1 0 addr)
    else (s.errLog (errRec 0 unit unitId loc part 0x1F 0x2 3 addr)).quarantine 0 unit unitId loc 0x1F
  else s

/-- An uncorrectable error of a unit of a core: recorded, its data marked by the caller, the unit quarantined (R386, R396). -/
def State.errMarked (s : State) (unit unitId loc part addr : Nat) : State :=
  (s.errLog (errRec 1 unit unitId loc part 0x02 0x2 3 addr)).quarantine 1 unit unitId loc 0x02

/-! ### Between dies (R17 to R19, R206, R219) -/

/-- Whether the bridge that joins die `a` to die `b` is up: horizontal neighbours differ in bit 0, vertical ones in bit 1 (R17, R19, R197). -/
def State.bridgeUp (s : State) (a b : Nat) : Bool :=
  let up := s.rd (netBase ⟨a % 4, Nat.mod_lt _ (by omega)⟩) F.NET_BRIDGE_UP
  (decide (b = a ^^^ 1) && up.testBit 0) || (decide (b = a ^^^ 2) && up.testBit 1)

/-- Whether traffic can go from die `a` to die `b`: within a die, or over bridges that are up (R18, R19). -/
def State.dieReach (s : State) (a b : Nat) : Bool :=
  let grow (l : List Nat) : List Nat := l ++ (List.range 4).filter fun d => l.any fun x => s.bridgeUp x d
  a = b || (grow (grow (grow [a]))).contains b

/-- Whether a partition's traffic that is irregular in time goes from die `a` to die `b` now: its entries are not held, and bridges lead there
(R18, R206, R219). That the pricking reserves slots for it is taken for granted (log entry 97). -/
def State.flows (s : State) (p a b : Nat) : Bool := !s.rdBit (netBase 0) F.NET_PARTHOLD_HOLD p && s.dieReach a b

/-- Whether a core's traffic reaches a stack now. -/
def State.toStack (s : State) (c : PCore) (k : Stack) : Bool := s.flows (s.partOf c) (dieOf c).val (k.val / 5)

/-- Every request at a picot, and those held at its stopped channels (R253, R254). -/
def State.allReqs (s : State) : List MemReq := s.memReqs.toList.flatten ++ s.arrivals.toList.flatMap (·.waiting)

/-- No request at a picot, or held at one, satisfies `p`. -/
def State.noRequest (s : State) (p : MemReq → Bool) : Bool := !s.allReqs.any p

/-! ### The scratchpad (R148, R176, R177) -/

/-- Draw the next free value's number (log entry 4). -/
def State.fresh (s : State) : Nat × State := (s.free, { s with free := s.free + 1 })

/-- The read of a register of `w` bits that measures what takes no time in the model: its value is free (log entry 8). -/
def State.readFree (s : State) (w : Nat) : State × Nat :=
  let x := s.fresh
  (x.2, Config.freeValue x.1 % 2 ^ w)

/-- The size of a scratchpad in bytes. -/
def spadSize : Nat := 0xC00000

/-- Whether a region lies within the scratchpad. -/
def spadFits (off len : Nat) : Bool := decide (off + len ≤ spadSize)

/-- Whether any line of a range carries a poison mark. -/
def State.spadPoisoned (s : State) (c : PCore) (off len : Nat) : Bool :=
  (linesOf off len).any fun l => SMap.get false (s.core c).spadPois l

/-- Bytes of a scratchpad. -/
def State.spadRead (s : State) (c : PCore) (off n : Nat) : List Byte := readBytes (s.core c).spad off n

/-- A little-endian number of a scratchpad. -/
def State.spadLE (s : State) (c : PCore) (off n : Nat) : Nat := readLE (s.core c).spad off n

/-- Mark or clear the lines of a range. -/
def markLines (m : SMap Bool) (ls : List Nat) (b : Bool) : SMap Bool := ls.foldl (fun m l => SMap.set false m l b) m

/-- What a write to a scratchpad range does to the replay guards of one engine (R52): the operands of issued passes whose fold is
not complete are guarded, and the weight region of its last LOADW for the passes that use those weights and are not yet declared clean. -/
def guardEngine (now off len : Nat) (e : EngRec) : EngRec × Nat :=
  let hitW := e.wRange.any (overlaps off len)
  let hit (p : Issued) : Bool := !p.unguard && (p.ranges.any (overlaps off len) ||
    (hitW && decide (fieldOf p.word 108 4 = 1) && decide (e.front.getD 0 ≤ p.first) && decide (now ≤ p.last + 32)))
  ({ e with issued := e.issued.map (fun p => if hit p then { p with unguard := true } else p), wUnguard := e.wUnguard || hitW },
    (e.issued.filter hit).length)

/-- A write to a range guarded for replay makes the passes that depend on it non-replayable and counts them (R52). -/
def State.breakGuards (s : State) (c : PCore) (off len : Nat) : State :=
  (List.finRange 4).foldl (fun s e =>
    if s.on (opeBase c e) F.OPE_CTRL_REPLAY then
      let g := guardEngine s.cycle off len (s.core c).engines[e]
      let s := s.onCore c fun r => { r with engines := vupd r.engines e fun _ => g.1 }
      if g.2 = 0 then s else s.sat (opeBase c e) F.OPE_UNGUARD_COUNT g.2
    else s) s

/-- What an ECC error of an 8-byte word of a scratchpad records: the counter, the log record, `SPD_ECC_ADDR`, and for an uncorrectable one the
mark of its line and `SPD_ERR`.POISON (R177, R193). -/
def State.spadEcc (s : State) (c : PCore) (word : Nat) (uncorr : Bool) : State :=
  let b := spdBase c
  let line := word / 8
  let s := (s.wr b F.SPD_ECC_ADDR_OFFSET (line * 64)).wr b F.SPD_ECC_ADDR_BANK (line % 48)
  let loc := line % 48 + line / 48 * 64
  let p := s.partOf c
  if uncorr then
    let s := (s.sat b F.SPD_ECC_UNCORR).setOn b F.SPD_ERR_POISON
    let s := s.onCore c fun r => { r with spadPois := SMap.set false r.spadPois line true }
    s.errMarked 0x5 c.val loc p (line * 64)
  else (s.sat b F.SPD_ECC_CORR).errCorrected 0x5 c.val loc p (line * 64)

/-- A read of a scratchpad range meets the errors stored in its 8-byte words (R177): a single-bit one is corrected where it lies, a double-bit
one marks its line. -/
def State.spadMeet (s : State) (c : PCore) (off n : Nat) : State :=
  let hit (b : Nat × Bool) : Bool := overlaps off n (b.1 * 8, 8)
  ((s.core c).spadBad.filter hit).foldl (fun s b => s.spadEcc c b.1 b.2)
    (if (s.core c).spadBad.isEmpty then s else s.onCore c fun r => { r with spadBad := r.spadBad.filter fun b => !hit b })

/-- The operands of the LOADWs that wait in an engine's queue or for its front (R41). -/
def CoreRec.waitingLoads (r : CoreRec) (e : Eng) (opnd : IWord → Opnd) : List Opnd :=
  r.queues[(⟨e.val, by omega⟩ : Queue)].filterMap (fun q => match q with
    | .instr w _ => if opcodeOf w = 0x41 then some (opnd w) else none
    | .marker .. => none) ++ r.engines[e].loads.map (·.opnd)

/-- The weight operand of a LOADW: KW vectors of N elements, from its register (R163). -/
def State.loadOpnd (s : State) (c : PCore) (w : IWord) : Opnd :=
  opndOf (s.x c (fieldOf w 85 5)) (loadFmt w) (loadTW w) (loadKW w) (loadN w)

/-- The lines of a write that lie in a region, with the bytes they hold now, beside those noted before. -/
def noteLines (mem : SMap Byte) (off n : Nat) (region : Nat × Nat) (old : SMap (List Byte)) : SMap (List Byte) :=
  ((linesOf off n).filter fun l => overlaps region.1 region.2 (l * 64, 64)).foldl (fun m l =>
    if (SMap.get [] m l).isEmpty then SMap.set [] m l (readBytes mem (l * 64) 64) else m) old

/-- What a write that is about to happen leaves of the lines it races for with the LOADWs of an engine (R41): those of one that waits, and
those of the front that moves. -/
def State.raceNote (s : State) (c : PCore) (off n : Nat) (e : Eng) : State :=
  let r := (s.core c).engines[e]
  let waits := ((s.core c).waitingLoads e (s.loadOpnd c)).filter fun o => overlaps off n o.region
  let moving := match r.front, r.wOpnd with
    | some f, some o => if s.cycle < f + 128 ∧ overlaps off n o.region then [o] else []
    | _, _ => []
  if waits.isEmpty && moving.isEmpty then s
  else s.onCore c fun k => { k with engines := vupd k.engines e fun r => { r with
    raced := waits.foldl (fun m o => noteLines k.spad off n o.region m) r.raced
    racedF := moving.foldl (fun m o => noteLines k.spad off n o.region m) r.racedF } }

/-- After a write that reached the region of the front that moves, each weight row holds the bytes of before or after it (R41; a free
value, log entry 81). -/
def State.raceFront (s : State) (c : PCore) (off n : Nat) (e : Eng) : State :=
  let r := (s.core c).engines[e]
  match r.front, r.wOpnd with
  | some f, some o =>
    if s.cycle < f + 128 ∧ overlaps off n o.region then
      let x := s.fresh
      x.2.onCore c fun k => { k with engines := vupd k.engines e fun r =>
        { r with wData := loadEntries k.spad r.racedF (Config.freeValue x.1) r.wFmt o } }
    else s
  | _, _ => s

/-- Write bytes into a scratchpad: a write that covers the whole of a marked line clears its mark (R177); data that
carries poison marks the lines it lands in (R384). An error stored in an 8-byte word is met by a write to a part of that word and lost under
a write of the whole. With `SPD_CTRL`.INJECT set the first word is stored with a double-bit error, and INJECT clears (R193). -/
def State.spadWrite (s : State) (c : PCore) (off : Nat) (bs : List Byte) (poison : Bool := false) : State :=
  let n := bs.length
  let full := (linesOf off n).filter fun l => decide (off ≤ l * 64) && decide (l * 64 + 64 ≤ off + n)
  let covers (b : Nat × Bool) : Bool := decide (off ≤ b.1 * 8) && decide (b.1 * 8 + 8 ≤ off + n)
  let s := if (s.core c).spadBad.isEmpty then s
    else (s.onCore c fun r => { r with spadBad := r.spadBad.filter fun b => !covers b }).spadMeet c off n
  let s := s.breakGuards c off n
  let s := (List.finRange 4).foldl (fun s e => s.raceNote c off n e) s
  let s := s.onCore c fun r => { r with
    spad := writeBytes r.spad off bs
    spadPois := if poison then markLines r.spadPois (linesOf off n) true else markLines r.spadPois full false }
  let s := (List.finRange 4).foldl (fun s e => s.raceFront c off n e) s
  if n ≠ 0 ∧ s.on (spdBase c) F.SPD_CTRL_INJECT then
    (s.wr (spdBase c) F.SPD_CTRL_INJECT 0).onCore c fun r => { r with spadBad := r.spadBad ++ [(off / 8, true)] }
  else s

/-- Bytes of a scratchpad as a requester reads them: the errors stored in them are met (R177), then the bytes and whether a line of
theirs is marked. -/
def State.spadTake (s : State) (c : PCore) (off n : Nat) : State × List Byte × Bool :=
  let s := s.spadMeet c off n
  (s, s.spadRead c off n, s.spadPoisoned c off n)

/-! ### Queues (R128, R130, R133) -/

/-- The items of a queue. -/
def State.queue (s : State) (c : PCore) (q : Queue) : List QItem := (s.core c).queues[q]

/-- Append an item to a queue; on an empty queue it becomes the head in this cycle. -/
def State.pushQ (s : State) (c : PCore) (q : Queue) (i : QItem) : State :=
  s.onCore c fun r => { r with
    queues := vupd r.queues q fun l => l ++ [i]
    headAt := if r.queues[q].isEmpty then vupd r.headAt q fun _ => s.cycle else r.headAt }

/-- Take the head off a queue; the next item becomes the head in the following cycle at the earliest (R147). -/
def State.popQ (s : State) (c : PCore) (q : Queue) : State :=
  s.onCore c fun r => { r with
    queues := vupd r.queues q List.tail
    headAt := vupd r.headAt q fun _ => s.cycle + 1
    cutSince := vupd r.cutSince q fun _ => none }

/-- The instruction at the head of a queue that its unit may take: the core runs, and the head has become the head. -/
def State.headInstr (s : State) (c : PCore) (q : Queue) : Option (IWord × Nat) :=
  if s.seqState c = 1 ∧ (s.core c).headAt[q] ≤ s.cycle then
    match s.queue c q with
    | .instr w ia :: _ => some (w, ia)
    | _ => none
  else none

end Sys2Proof.Machine
end

