-- ==== Sys2Proof/Machine/Report.lean ====
section
/-!
DEFINITION. What the module tells the host: MSI-X vectors (R355), completion records (R352, R353), the error log
(R382, R394 to R397), the translation of an address through a partition's page tables (R226, R349), and the readiness report (R435, R436).
-/
namespace Sys2Proof.Machine

/-- Where the window of host memory begins: a leaf entry from here on holds a host physical address (R349). -/
def hostWindow : Nat := 0xC00000000000

/-- What a device virtual address of a partition maps to: whether it is host memory, and the physical address. `none` is
a translation miss (R148, R226). -/
def State.translate (s : State) (p : Nat) (a : Nat) : Option (Bool × Nat) :=
  if h : p < 16 then
    match s.pages[p].find? fun e => decide (e.va ≤ a) && decide (a < e.va + e.len) with
    | some e => some (decide (hostWindow ≤ a), e.pa + (a - e.va))
    | none => none
  else none

/-- The vector of a completion record of partition `p`: its VF's, or PF0's 8 + p where the VF cannot send it; VF n serves
partition n − 1 (R342, R355). -/
def State.cqVector (s : State) (p : Part) : State :=
  if s.on (dbBase p) F.CXL_CQCFG_MASK then s
  else
    let f : Func := ⟨p.val + 1, by omega⟩
    if s.vfEnable && s.funcs[f].msixEn then s.msix f (s.rd (dbBase p) F.CXL_CQCFG_VEC) else s.msix 0 (8 + p.val)

/-- The 32 bytes of a completion record (R352). -/
def cqBytes (r : CqRec) (phase : Bool) (seqno : Nat) : List Byte :=
  leBytes 1 r.kind ++ leBytes 1 (if phase then 1 else 0) ++ leBytes 2 r.core ++ leBytes 4 r.value ++ leBytes 8 seqno ++
    leBytes 8 r.data ++ leBytes 8 0

/-- Whether the queue has room: it is full when the tail is one entry behind the head (R352). -/
def State.cqRoom (s : State) (p : Part) : Bool :=
  let n := 2 ^ s.rd (dbBase p) F.CXL_CQCFG_SIZE
  decide ((s.rd (dbBase p) F.CXL_CQTAIL_TAIL + 1) % n ≠ s.rd (dbBase p) F.CXL_CQHEAD_HEAD % n)

/-- Write one record at the tail and send its vector; a translation miss disables the queue (R352, R353, R355). -/
def State.cqWrite (s : State) (p : Part) (r : CqRec) : State :=
  let tail := s.rd (dbBase p) F.CXL_CQTAIL_TAIL
  let n := 2 ^ s.rd (dbBase p) F.CXL_CQCFG_SIZE
  match s.translate p.val ((s.rd (dbBase p) F.CXL_CQBASE_BASE * 4096 + tail * 32) % 2 ^ 48) with
  | none => ((s.wr (dbBase p) F.CXL_CQCFG_EN 0).setOn cxlBase F.CXL_ERR_CQ_FAULT).msix 0 0
  | some (_, pa) =>
    let q := s.cqs[p]
    let tail' := (tail + 1) % n
    let s := s.writeHost pa (cqBytes r q.phase (q.seqno + 1))
    let s := { s with cqs := vupd s.cqs p fun q => { q with
      seqno := q.seqno + 1
      phase := if tail' = 0 then !q.phase else q.phase } }
    (s.wr (dbBase p) F.CXL_CQTAIL_TAIL tail').cqVector p

/-- A record arises for partition `p`: discarded while the queue is disabled, written, held when full, or lost when 64
are held (COMPLETION_RECORD_WRITE; R352, R353). -/
def State.cqPost (s : State) (p : Nat) (kind core value data : Nat) : State :=
  if h : p < 16 then
    let p : Part := ⟨p, h⟩
    let r : CqRec := ⟨kind, core, value, data⟩
    if !s.on (dbBase p) F.CXL_CQCFG_EN then s
    else if s.cqRoom p && s.cqs[p].held.isEmpty && decide (s.cqs[p].lost = 0) then s.cqWrite p r
    else if s.cqs[p].held.length < 64 then
      ({ s with cqs := vupd s.cqs p fun q => { q with held := q.held ++ [r] } }).wr (dbBase p) F.CXL_CQSTAT_HELD
        (s.cqs[p].held.length + 1)
    else ({ s with cqs := vupd s.cqs p fun q => { q with lost := q.lost + 1 } }).sat (dbBase p) F.CXL_CQSTAT_LOST
  else s

/-- Whether the module has reached bring-up step 6 (R421, R435). -/
def State.inService (s : State) : Bool :=
  decide (s.rd secBase F.SEC_STATUS_BOOTSTATE = 2) || decide (s.rd secBase F.SEC_STATUS_BOOTSTATE = 3)

/-- Whether CXL.io brings the host's accesses to the module: its link stream is not in the insecure state, in which its flits are discarded
(R358). -/
def State.ioOpen (s : State) : Bool := decide (s.ide[0] ≠ .insecure)

/-- Whether CXL.cache and CXL.mem bring the host's requests and answers (R358). -/
def State.cmOpen (s : State) : Bool := decide (s.ide[5] ≠ .insecure)

/-- Whether the host port answers the host's accesses (R358, R421, R435). -/
def State.hostReady (s : State) : Bool := s.inService && s.ioOpen

/-- Fewer than 64 spare pages of a stack remain (R435). -/
def State.stackLow (s : State) (k : Stack) : Bool := decide (s.rd (hbmBase k) F.HBM_RETIRE_COUNT > 448 + s.mem.perStack[k].freed)

/-- `HBM_STATUS`.STATE as a stack stands: powered off where it is not up (firmware switches a down stack's domain off, R423), degraded where
few spares remain (R269, R435). -/
def State.stackShow (s : State) (k : Stack) : State :=
  s.wr (hbmBase k) F.HBM_STATUS_STATE (if !s.rdBit mmemBase F.HBM_MAP_STACKS_UP k.val then 3 else if s.stackLow k then 1 else 0)

/-! ### The readiness report (R435, R436) -/

/-- A little-endian field of a licence. -/
def licField (l : List Byte) (off n : Nat) : Nat := leNat ((l.drop off).take n)

/-- A unit entry of the report: STATE, and DETAIL as it stands from bit 2 of the entry up. -/
def rptEntry (state detail : Nat) : List Byte := leBytes 2 (state + detail)

/-- The entry of a core: spare banks in service. -/
def State.rptCore (s : State) (c : PCore) : Nat × Nat :=
  if !s.enabled c then (3, 0)
  else (if s.coresDown.testBit c.val then 2 else 0, s.rd (spdBase c) F.SPD_SPARE_USED * 4)

/-- The entry of an engine: spare rows in service; a quarantine changes no entry (R436). -/
def State.rptEng (s : State) (c : PCore) (e : Eng) : Nat × Nat :=
  if !s.enabled c then (3, 0)
  else
    let st := s.rd (opeBase c e) F.OPE_STATUS_STATE
    (if s.coresDown.testBit c.val || decide (st = 6) then 2 else 0, s.rd (opeBase c e) F.OPE_STATUS_SPARES_USED * 4)

/-- The entry of a stack: spare pages in use. -/
def State.rptStack (s : State) (k : Stack) : Nat × Nat :=
  (if !s.rdBit mmemBase F.HBM_MAP_STACKS_UP k.val then 2 else if s.stackLow k then 1 else 0, s.rd (hbmBase k) F.HBM_RETIRE_COUNT * 4)

/-- The entry of a bride port: width code, lanes, and why it is held when it is down. -/
def State.rptPort (s : State) (p : Port) : Nat × Nat :=
  let b := brdBase p
  let st := s.rd b F.BRD_STATUS_STATE
  let w := s.rd b F.BRD_STATUS_WIDTH
  let d := w * 4 + s.rd b F.BRD_STATUS_LANES * 32
  if st = 2 then (if w = 4 then 0 else 1, d) else if st = 1 then (1, d) else (2, d + st * 8192)

/-- The entry of a bridge, and of a die's control processor. -/
def State.rptBridge (s : State) (b : Nat) : Nat × Nat :=
  let d : Die := if b = 0 then 0 else if b = 1 then 1 else if b = 2 then 3 else 2
  (if bit (s.rd (netBase d) F.NET_BRIDGE_UP) (b % 2) then 0 else 2, 0)
@[inherit_doc State.rptBridge] def State.rptDie (s : State) (d : Nat) : Nat × Nat := (if s.rdBit clkBase F.CLK_STATUS_LOCK d then 0 else 2, 0)

/-- The entry of the CXL port: width code and rate. -/
def State.rptCxl (s : State) : Nat × Nat :=
  let r := s.rd cxlBase F.CXL_LINK_RATE
  let w := s.rd cxlBase F.CXL_LINK_WIDTH
  (if s.rd cxlBase F.CXL_LINK_STATE ≠ 2 then 2 else if r = 1 ∧ w = 4 then 0 else 1, w * 4 + r * 32)

/-- The entry of a receptacle: AUTH and LIFE. -/
def State.rptCable (s : State) (n : Recept) : Nat × Nat :=
  let a := s.rd (cabBase n) F.CAB_STATUS_AUTH
  (if a ≥ 2 then 1 else 0, a * 4 + s.rd (cabBase n) F.CAB_STATUS_LIFE * 16)

/-- The entries of the report with their offsets. -/
def State.rptUnits (s : State) : List (Nat × List (Nat × Nat)) :=
  [(0x080, allCores.map s.rptCore),
   (0x100, allCores.flatMap fun c => (List.finRange 4).map (s.rptEng c)),
   (0x300, (List.finRange 20).map s.rptStack),
   (0x328, (List.finRange 24).map s.rptPort),
   (0x358, (List.range 4).map s.rptBridge),
   (0x360, (List.range 4).map s.rptDie),
   (0x368, [s.rptCxl]),
   (0x380, (List.finRange 12).map s.rptCable)]

/-- Whether any unit other than a disabled core is down or degraded (R435). -/
def State.degraded (s : State) : Bool := s.rptUnits.any fun u => u.2.any fun e => e.1 = 1 || e.1 = 2

/-- STATE of the report: 0 bringing up; 1 ready; 2 ready, degraded; 3 recovery. -/
def State.rptState (s : State) : Nat :=
  match s.rd secBase F.SEC_STATUS_BOOTSTATE with
  | 2 => if s.degraded then 2 else 1
  | 3 => if s.degraded then 2 else 1
  | 4 => 3
  | _ => 0

/-- The unit entries of the report as bytes, with their offsets. -/
def State.rptBody (s : State) : List (Nat × List Byte) := s.rptUnits.map fun u => (u.1, u.2.flatMap fun e => rptEntry e.1 e.2)

/-- The report's fields and entries: offset and bytes. -/
def State.rptParts (s : State) : List (Nat × List Byte) :=
  let up := ((List.finRange 20).filter fun k => s.rdBit mmemBase F.HBM_MAP_STACKS_UP k.val).length
  let lic (i : Nat) : List Byte :=
    let l := SMap.get [] s.boot.lics i
    leBytes 4 ((if s.rdBit licBase F.LIC_STORED_VALID i then 1 else 0) + licField l 12 1 * 256 + i * 65536) ++
      (List.range 28).map fun k => l.getD (4 + k) 0
  [(0x000, leBytes 4 (s.rd secBase F.SEC_RPTGEN_GEN)),
   (0x004, leBytes 4 (s.rptState + 0xA0 * 256 + s.powerClass * 65536 +
      (s.rd secBase F.SEC_STATUS_SLOT + s.rd secBase F.SEC_STATUS_FALLBACK * 2) * 16777216)),
   (0x008, leBytes 8 (s.rd secBase F.SEC_IDSERIAL_SERIAL)),
   (0x010, leBytes 4 (s.rd secBase F.SEC_FWVER_VERSION)),
   (0x014, leBytes 4 (s.rd secBase F.SEC_FWVER_SVN + s.rd secBase F.SEC_ARB_COUNT * 256 + s.rd licBase F.LIC_ACTIVE_FEATURES * 65536)),
   (0x018, leBytes 8 (s.rd (netBase 0) F.NET_YIELDID_ID)),
   (0x020, leBytes 3 (up * 64 + s.rd licBase F.LIC_ORDER_CODE * 65536)),
   (0x040, (List.range 60).map fun i => BitVec.ofNat 8 ((s.physOf i).elim 0 Fin.val)),
   (0x07C, (List.finRange 4).map fun d => BitVec.ofNat 8 (d.val * 16 + s.yieldOff d))] ++
  s.rptBody ++ [(0x400, (List.range 16).flatMap lic)]

/-- The report is written: GEN is raised before the change and after it (R435, R436). -/
def State.writeReport (s : State) : State :=
  let s := s.count secBase F.SEC_RPTGEN_GEN 2
  { s with report := s.rptParts }

/-- The 4 KiB of the report as last written; unused bytes read as zero. -/
def State.readiness (s : State) : List Byte :=
  readBytes (s.report.foldl (fun m x => writeBytes m x.1 x.2) ([] : SMap Byte)) 0 4096

/-- Once step 6 is over the report is written anew when a unit's entry has changed, and PF0 vector 2 is sent (R436). -/
def State.reportChange (s : State) : State :=
  if s.inService && !s.rptBody.all s.report.contains then s.writeReport.msix 0 2 else s

/-- An event of the bride or of a cable: PF0 vector 4 (R355; which events, log entry 117). -/
def State.brideEvent (s : State) : State := s.msix 0 4

end Sys2Proof.Machine
end

