-- ==== Sys2Proof/Machine/Link.lean ====
section
/-!
DEFINITION. The bride link: packets and classes (R295, R296), routing (R302, R303, R305), what a port sends (R291, R297,
R298) and receives (R290 to R292), and a port going down (R294).
-/
namespace Sys2Proof.Machine

/-! ### Packets -/

/-- The class a packet type travels in (R296): 0 control, 1 response, 2 mirror, 3 bulk; none for a reserved type. -/
def classOfType (t : Nat) : Option (Fin 4) :=
  if t ≤ 4 then some 3 else if t ≤ 7 then some 1 else if t = 8 then some 2 else if t ≤ 0xC then some 0 else none

/-- The header chunk of a packet (R295). -/
def Packet.header (k : Packet) : Nat :=
  k.dst % 2 ^ 16 + (k.src % 2 ^ 16) * 2 ^ 16 + (k.sunit % 2 ^ 7) * 2 ^ 32 + (k.job % 2 ^ 12) * 2 ^ 39 +
    (k.typ % 2 ^ 5) * 2 ^ 51 + (k.hops % 2 ^ 6) * 2 ^ 56 + (if k.poison then 2 ^ 62 else 0) + (k.len % 2 ^ 6) * 2 ^ 64 +
    (k.tag % 2 ^ 10) * 2 ^ 70 + (k.addr % 2 ^ 48) * 2 ^ 80

/-- The packet a header chunk and its data spell (R295). -/
def packetOf (h : Nat) (data : List Byte) : Packet where
  dst := bits h 0 16
  src := bits h 16 16
  sunit := bits h 32 7
  job := bits h 39 12
  typ := bits h 51 5
  hops := bits h 56 6
  poison := h.testBit 62
  len := bits h 64 6
  tag := bits h 70 10
  addr := bits h 80 48
  data := data

/-- The bytes of a packet on the wire: its header, then its data in chunks of 16 B; a read request has no data (R295, R296). -/
def Packet.chunks (k : Packet) : List Byte :=
  leBytes 16 k.header ++ (if k.typ = 1 then [] else (k.data ++ List.replicate (k.len * 16 - k.data.length) 0).take (k.len * 16))

/-- The length of some bytes in units of 16 B. -/
def units (n : Nat) : Nat := ceilDiv n 16

/-! ### Flits (R289, R292) -/

/-- The 48-bit header of a flit. -/
def flitHeader (f : BFlit) : Nat :=
  f.kind % 4 + f.cls % 4 * 2 ^ 2 + f.seq % 2 ^ 16 * 2 ^ 4 + f.ack % 2 ^ 16 * 2 ^ 20 + (if f.replay then 2 ^ 36 else 0)

/-- Bytes 0 to 249 of a flit: header, payload, CRC. -/
def flitBody (f : BFlit) : List Byte :=
  let b := leBytes 6 (flitHeader f) ++ f.payload
  b ++ leBytes 4 (Config.crc32 b).toNat

/-- The 256 bytes of a flit on the wire: the even-indexed and the odd-indexed bytes are two codewords, whose parity symbols alternate in
bytes 250 to 255 (R289, R290). -/
def flitWire (f : BFlit) : List Byte :=
  let half (k : Nat) : List Byte := (((flitBody f).zipIdx.filter fun x => x.2 % 2 = k).map Prod.fst)
  let par (k : Nat) : List Byte := leBytes 3 (Config.fecParity (half k)).toNat
  flitBody f ++ ((par 0).zip (par 1)).flatMap fun x => [x.1, x.2]

/-- The payload of a link-management flit: NAK_SEQ, NAK_COUNT, the credit returns of classes 0 to 3, the sender's module ID and port. -/
def mgmtPayload (nakSeq nakCount : Nat) (credits : List Nat) (modId port : Nat) : List Byte :=
  let b := leBytes 2 nakSeq ++ leBytes 2 (nakCount % 256) ++ credits.flatMap (leBytes 2) ++ leBytes 2 modId ++ leBytes 1 port
  b ++ List.replicate (240 - b.length) 0

/-! ### Sending -/

/-- Change what a port holds. -/
def State.onPort (s : State) (p : Port) (f : PortRec → PortRec) : State := { s with ports := vupd s.ports p f }

/-- Whether a port is up (R314). -/
def State.portUp (s : State) (p : Nat) : Bool :=
  if h : p < 24 then decide (s.rd (brdBase ⟨p, h⟩) F.BRD_STATUS_STATE = 2) else false

/-- Whether a class of a port has something to send and a credit for it (R298). -/
def State.txReady (s : State) (p : Port) (c : Fin 4) : Bool :=
  !s.ports[p].txq[c].isEmpty && decide (s.ports[p].credits[c] > 0)

/-- The backlog of a port's branches: the first branch that holds a packet (R322). -/
def State.nextBacklog (s : State) (p : Nat) : Option Branch := s.branches.find? fun b => b.branch = p && !b.queue.isEmpty

/-- Change a branch's record; a branch that holds nothing is dropped, and `BRD_MCBUF` follows (R322). -/
def State.setBranch (s : State) (b : Branch) : State :=
  let rest := s.branches.filter fun e => !(e.group = b.group && e.branch = b.branch)
  let l := if b.queue.isEmpty && b.notices.isEmpty then rest else rest ++ [b]
  let n := (l.filter fun e => !e.queue.isEmpty).length
  let s := { s with branches := l }
  let s := s.wr mcastBase F.BRD_MCBUF_INUSE n
  if n > s.rd mcastBase F.BRD_MCBUF_PEAK then s.wr mcastBase F.BRD_MCBUF_PEAK n else s

/-- MISSED_SEQ of a DETACHED notice (R324). -/
def Packet.missed (k : Packet) : Nat := k.addr % 2 ^ 24

/-- Whether every packet of a group before a notice's MISSED_SEQ has been taken here, or the port the notice came on is down (R325). -/
def State.noticeDue (s : State) (g : Nat) (n : Packet × Nat) : Bool :=
  decide ((SMap.get 0 s.mcSeen g + 2 ^ 24 - n.1.missed) % 2 ^ 24 < 2 ^ 23) || !s.portUp n.2

/-- The packet of a DETACHED notice that this module issues (R324). -/
def State.noticePacket (s : State) (g missed : Nat) : Packet :=
  ⟨g, s.modId, 85, 0, 0x0C, s.rd brdmBase F.BRD_ROUTECFG_HOPLIMIT, false, 0, 0, missed, []⟩

/-- Whether a backlog holds no packet before a SEQ (R325). -/
def Branch.past (b : Branch) (missed : Nat) : Bool := b.queue.all fun k => decide ((k.addr + 2 ^ 24 - missed) % 2 ^ 24 < 2 ^ 23)

/-- The first DETACHED notice of a branch that may go on: its branch has sent what precedes it, `idle` where nothing of the branch waits in the
transmitter, or the port it came on is down (R325). -/
def State.readyNotice (s : State) (b : Branch) (idle : Bool) : Option (Packet × Nat) :=
  b.notices.find? fun n => ((b.past n.1.missed && idle) || !s.portUp n.2) && s.noticeDue b.group n

/-- A DETACHED notice that waits at a port branch goes out when the branch has sent what precedes it (R325). -/
def State.sendNotice (s : State) (p : Port) : State :=
  let idle := s.ports[p].txq[(3 : Fin 4)].isEmpty
  match s.branches.find? fun b => b.branch = p.val && (s.readyNotice b idle).isSome with
  | none => s
  | some b =>
    match s.readyNotice b idle with
    | none => s
    | some n => (s.setBranch { b with notices := b.notices.erase n }).onPort p fun r => { r with txq := vupd r.txq 0 fun q => q ++ n.1.chunks }

/-- The bulk queue of a port takes the next packet of a backlog when it is empty and has credit (R322). -/
def State.refill (s : State) (p : Port) : State :=
  let s := s.sendNotice p
  if s.ports[p].txq[(3 : Fin 4)].isEmpty && decide (s.ports[p].credits[(3 : Fin 4)] > 0) then
    match s.nextBacklog p.val with
    | none => s
    | some b =>
      match b.queue with
      | [] => s
      | k :: ks =>
        let s := s.setBranch { b with queue := ks, full := none }
        s.onPort p fun r => { r with txq := vupd r.txq 3 fun q => q ++ k.chunks }
  else s

/-- The class of the next payload flit (R297): control, response, then mirror and bulk in their ratio. -/
def State.txClass (s : State) (p : Port) : Option (Fin 4) :=
  let w := s.rd (brdBase p) F.BRD_CTRL_MIRROR_WT
  let m := if w = 0 then 4 else w
  if s.txReady p 0 then some 0
  else if s.txReady p 1 then some 1
  else if s.txReady p 2 && (!s.txReady p 3 || decide (s.ports[p].share < m)) then some 2
  else if s.txReady p 3 then some 3
  else none

/-- The pad chunk that ends a flit's packets early (R295). -/
def padHeader : List Byte := leBytes 16 (0x1F * 2 ^ 51)

/-- Fifteen chunks: what stands in the queue, then a pad and zeros. -/
def fillFlit (bs : List Byte) : List Byte :=
  let b := bs.take 240
  let b := if b.length < 240 then b ++ padHeader else b
  (b ++ List.replicate (240 - b.length) 0).take 240

/-- ACK of the flits a port sends: every payload flit up to it has been received (R289). -/
def PortRec.ack (r : PortRec) : Nat := (r.rxNext + 65535) % 65536

/-- Put a flit on the wire. -/
def State.sendWire (s : State) (p : Port) (f : BFlit) : State := s.emit (.flit p.val (flitWire f))

/-- Send one payload flit of a class: it takes a SEQ and a credit and stays in the history (R291, R298). -/
def State.sendFlit (s : State) (p : Port) (c : Fin 4) : State :=
  let r := s.ports[p]
  let f : BFlit := ⟨1, c.val, r.txSeq, r.ack, false, fillFlit r.txq[c]⟩
  let s := s.onPort p fun r => { r with
    txq := vupd r.txq c fun q => q.drop 240
    txSeq := (r.txSeq + 1) % 65536
    history := r.history ++ [f]
    credits := vupd r.credits c fun n => n - 1
    share := if c.val ≥ 2 then (r.share + 1) % 16 else r.share }
  (s.count (brdBase p) F.BRD_TXFLITS_COUNT).sendWire p f

/-- The history has no place for a new payload flit (R291). -/
def State.historyFull (s : State) (p : Port) : Bool := decide (s.ports[p].history.length ≥ 4096)

/-- Send what can be sent (R297), up to `n` flits. -/
def State.pump (s : State) (p : Port) : Nat → State
  | 0 => s
  | n + 1 =>
    let s := s.refill p
    if !s.portUp p.val || s.historyFull p then s
    else
      match s.txClass p with
      | none => s
      | some c => (s.sendFlit p c).pump p n

/-- Enough flits for everything a port and its backlogs hold. -/
def State.pumpFuel (s : State) (p : Port) : Nat :=
  (s.ports[p].txq.toList.map fun q => q.length / 240 + 1).sum + 4 * (s.branches.map fun b => b.queue.length + b.notices.length + 1).sum

/-- Send everything credit allows; the transmitter then idles, which the model shows as one idle flit (R297; log entry 76). -/
def State.pumpAll (s : State) (p : Port) : State :=
  let s := s.pump p (s.pumpFuel p)
  if s.portUp p.val then s.sendWire p ⟨0, 0, 0, s.ports[p].ack, false, List.replicate 240 0⟩ else s

/-- Hand a packet to a port. -/
def State.sendOn (s : State) (p : Port) (k : Packet) : State :=
  match classOfType k.typ with
  | some c => (s.onPort p fun r => { r with txq := vupd r.txq c fun q => q ++ k.chunks }).pumpAll p
  | none => s

/-! ### Routing (R302, R303) -/

/-- The port a packet for another module leaves on. -/
def State.routeOf (s : State) (dst src sunit : Nat) : Option Port :=
  let e := SMap.get 0 s.routes dst
  let n := bits e 20 2 + 1
  let ms := (List.range n).map fun i => bits e (5 * i) 5
  if !e.testBit 22 || ms.any (fun m => m ≥ 24) then none
  else
    let k := (src + sunit) % n
    let order := ms.drop k ++ ms.take k
    match order.find? fun m => s.portUp m with
    | some m => if h : m < 24 then some ⟨m, h⟩ else none
    | none => none

/-- Route a packet: sent, or dropped and counted (R302, R303). -/
def State.routePacket (s : State) (k : Packet) : State :=
  if k.dst ≥ 0xFFFE then s.sat brdmBase F.BRD_DROP_BADPKT
  else
    match s.routeOf k.dst k.src k.sunit with
    | some p => s.sendOn p k
    | none => s.sat brdmBase F.BRD_DROP_NOROUTE

/-- A packet this module sends: nothing leaves before `BRD_MODID` is locked (R305); one for this module is delivered here
(R302), as if it had arrived on port 0 (log entry 30). -/
def State.sendPacket (s : State) (k : Packet) : State :=
  let k := { k with src := s.modId, hops := s.rd brdmBase F.BRD_ROUTECFG_HOPLIMIT }
  if !s.on brdmBase F.BRD_MODID_LOCK then s
  else if k.dst = s.modId then
    match classOfType k.typ with
    | some c => ({ s with rxNum := s.rxNum + 1 }).onPort 0 fun r => { r with inq := vupd r.inq c fun q => q ++ [(⟨k, 0, s.rxNum⟩ : InPacket)] }
    | none => s
  else s.routePacket k

/-- The job of a partition (R305). -/
def State.jobOf (s : State) (p : Nat) : Nat := s.rd brdmBase F.BRD_JOB_JOB p

/-- The partition a job matches (R306). -/
def State.jobPart (s : State) (j : Nat) : Option Part :=
  if j = 0 then none else (List.finRange 16).find? fun p => s.jobOf p.val = j

/-! ### Receiving -/

/-- Whether a packet is malformed, its type is sent in the wrong class, or its KIND is reserved (R296, R303,
R317, R406, R408). -/
def badPacket (k : Packet) (c : Fin 4) : Bool :=
  decide (k.len > 32) || decide (classOfType k.typ ≠ some c) || decide (k.dst ≥ 0xFFFE) ||
    (decide (k.typ = 4) && (decide (k.len < 4) || decide (k.len % 4 ≠ 0))) ||
    (decide (k.typ = 8) && decide (bits k.addr 32 2 = 3)) || (decide (k.typ = 7) && decide (bits k.addr 42 3 ≥ 5))

/-- Take packets off the bytes received in a class, to the end or to the pad: the packets, and the bytes left. A packet whose LEN exceeds 32 has its
data chunks too (R295, R296). -/
def parsePackets : Nat → List Byte → List Packet → List Packet × List Byte
  | 0, bs, acc => (acc.reverse, bs)
  | n + 1, bs, acc =>
    if bs.length < 16 then (acc.reverse, bs)
    else
      let h := leNat (bs.take 16)
      let k := packetOf h []
      if k.typ = 0x1F then (acc.reverse, [])
      else
        let m := if k.typ = 1 then 0 else k.len * 16
        if bs.length < 16 + m then (acc.reverse, bs)
        else parsePackets n (bs.drop (16 + m)) ({ k with data := (bs.drop 16).take m } :: acc)

/-- Send a link-management flit: it returns the credits that wait and may name a NAK run (R292, R297, R298). -/
def State.linkMgmt (s : State) (p : Port) (nakSeq nakCount : Nat) : State :=
  let r := s.ports[p]
  (s.onPort p fun r => { r with back := Vector.replicate 4 0 }).sendWire p
    ⟨2, 0, 0, r.ack, false, mgmtPayload nakSeq nakCount r.back.toList s.modId p.val⟩

/-- Free buffer places of a class; at 16 flits to return a link-management flit goes out (R297). -/
def State.freeFlits (s : State) (p : Port) (c : Fin 4) (n : Nat) : State :=
  let s := s.onPort p fun r => { r with back := vupd r.back c fun b => b + n }
  if s.ports[p].back[c] ≥ 16 then s.linkMgmt p 0 0 else s

/-- Deliver a payload flit: its chunks extend the packets of its class (R291, R295, R305). -/
def State.feed (s : State) (p : Port) (f : BFlit) : State :=
  let c : Fin 4 := ⟨f.cls % 4, Nat.mod_lt _ (by omega)⟩
  let r := s.ports[p]
  let out := parsePackets 16 (r.part[c] ++ f.payload) []
  let used := r.opened[c] + 1
  let rest := if out.2.isEmpty then 0 else 1
  let locked := s.on brdmBase F.BRD_MODID_LOCK
  let bad := out.1.filter fun k => badPacket k c
  let good := if locked then out.1.filter fun k => !badPacket k c else []
  let done : Nat := if out.1.isEmpty then (if out.2.isEmpty then used else 0) else used - rest
  let s := if locked then s.sat brdmBase F.BRD_DROP_BADPKT bad.length else s
  let s := s.count (brdBase p) F.BRD_RXFLITS_COUNT
  let num := s.rxNum
  let s := { s with rxNum := num + good.length }
  let s := s.onPort p fun r => { r with
    part := vupd r.part c fun _ => out.2
    opened := vupd r.opened c fun _ => used - done
    rxNext := (r.rxNext + 1) % 65536
    inq := vupd r.inq c fun q => q ++ good.zipIdx.map fun (k, i) => (⟨k, if i + 1 = good.length then done else 0, num + i⟩ : InPacket) }
  if good.isEmpty then s.freeFlits p c done else s

/-- Deliver what the receive hold has next, in SEQ order (R291). -/
def State.feedHold (s : State) (p : Port) : Nat → State
  | 0 => s
  | n + 1 =>
    let r := s.ports[p]
    match r.hold.find? fun f => f.seq = r.rxNext with
    | none => s
    | some f => ((s.onPort p fun r => { r with hold := r.hold.filter fun g => g.seq ≠ f.seq }).feed p f).feedHold p n

/-- The distance from one SEQ to another, modulo 65,536. -/
def seqDist (a b : Nat) : Nat := (b + 65536 - a) % 65536

/-- Whether a receiver lacks a SEQ: neither delivered nor held. -/
def PortRec.lacks (r : PortRec) (q : Nat) : Bool := !r.hold.any (fun f => f.seq = q) && decide (seqDist r.rxNext q < 32768)

/-- The missing ones of `n` SEQs from `first` on, grouped in runs of at most 16, the last first (R292). -/
def nakRuns (r : PortRec) (first : Nat) : Nat → List (Nat × Nat) → List (Nat × Nat)
  | 0, acc => acc
  | n + 1, acc =>
    let acc' := if !r.lacks first then acc
      else match acc with
        | (f, k) :: t => if (f + k) % 65536 = first ∧ k < 16 then (f, k + 1) :: t else (first, 1) :: acc
        | [] => [(first, 1)]
    nakRuns r ((first + 1) % 65536) n acc'

/-- Send NAKs for the runs that are missing and not yet named (R292). -/
def State.nakMissing (s : State) (p : Port) (seq : Nat) : State :=
  let r := s.ports[p]
  let named (q : Nat) : Bool := r.naks.any fun k => seqDist k.1 q < k.2
  let runs := ((nakRuns r r.rxNext (seqDist r.rxNext seq) []).filter fun k => !named k.1).reverse
  runs.foldl (fun s k => ((s.sat (brdBase p) F.BRD_RETRY_NAKS).linkMgmt p k.1 k.2).onPort p fun r =>
    { r with naks := r.naks ++ [k] }) s

/-- Forget NAK runs that have been delivered. -/
def PortRec.dropNaks (r : PortRec) : PortRec :=
  { r with naks := r.naks.filter fun k => seqDist r.rxNext ((k.1 + k.2 + 65535) % 65536) < 32768 }

/-- An ACK covers the history up to its SEQ (R291). -/
def State.ackTo (s : State) (p : Port) (ack : Nat) : State :=
  s.onPort p fun r => { r with history := r.history.filter fun f => !decide (seqDist f.seq ack < 32768) }

/-- A payload flit arrives in good order: delivered, held behind a missing one, or discarded as a duplicate (R291, R292). -/
def State.payload (s : State) (p : Port) (f : BFlit) : State :=
  let r := s.ports[p]
  let d := seqDist r.rxNext f.seq
  if d ≥ 32768 then s
  else if d = 0 then
    let s := (s.feed p f).feedHold p r.hold.length
    s.onPort p PortRec.dropNaks
  else if r.hold.length ≥ 4096 ∨ ¬ r.lacks f.seq then s
  else (s.onPort p fun r => { r with hold := r.hold ++ [f] }).nakMissing p f.seq

/-- Retransmit the named flits of the history, in SEQ order (R292). -/
def State.replayFlits (s : State) (p : Port) (first count : Nat) : State :=
  let fs := s.ports[p].history.filter fun f => seqDist first f.seq < min count 16
  let s := fs.foldl (fun s f => s.sendWire p { f with replay := true }) s
  s.sat (brdBase p) F.BRD_RETRY_REPLAYED fs.length

/-- A control flit that is ready leaves before a replay begins, where the history has a place for it (R291, R297). -/
def State.nakArrive (s : State) (p : Port) (first count : Nat) : State :=
  let s := if s.portUp p.val && s.txReady p 0 && !s.historyFull p then s.sendFlit p 0 else s
  (s.replayFlits p first count).pumpAll p

/-- Whether a packet received earlier from the same source for the same destination still waits in its class at some port (R301). -/
def State.behind (s : State) (c : Fin 4) (e : InPacket) : Bool :=
  (List.finRange 24).any fun q => s.ports[q].inq[c].any fun x =>
    decide (x.num < e.num) && decide (x.pkt.src = e.pkt.src ∧ x.pkt.sunit = e.pkt.sunit ∧ x.pkt.dst = e.pkt.dst)

/-- The front packet of a class of a port, where it may be taken: after a port has gone down, packets of one source come on another, and those
received before are delivered first (R301). -/
def State.inFront (s : State) (p : Port) (c : Fin 4) : Option Packet :=
  match s.ports[p].inq[c] with
  | [] => none
  | e :: _ => if s.behind c e then none else some e.pkt

/-- Take the front packet of a class: its buffer places are freed. -/
def State.takeFront (s : State) (p : Port) (c : Fin 4) : State :=
  match s.ports[p].inq[c] with
  | [] => s
  | e :: _ => (s.onPort p fun r => { r with inq := vupd r.inq c List.tail }).freeFlits p c e.frees

/-- Act on the front packet of a class when it is of type `typ` and, for a unicast type, for this module (R302). -/
def State.onPacket (s : State) (p : Port) (c : Fin 4) (typ : Nat) (run : State → Packet → State) : State :=
  match s.inFront p c with
  | none => s
  | some k =>
    if k.typ ≠ typ ∨ (typ ≠ 4 ∧ typ ≠ 0xC ∧ k.dst ≠ s.modId) then s else run (s.takeFront p c) k

end Sys2Proof.Machine
end

