-- ==== Sys2Proof/Machine/Elementary.lean ====
section
/-!
DEFINITION. The functions of S5 and of the vector unit that the spec bounds and does not fix (R104, R108, R168): their true values in fixed
point, and the choice of a value within 2 units in the last place, which is stepping A0's and free here (log entry 23).
-/
namespace Sys2Proof.Elem

/-! ### Fixed point: integers in units of 2^−3000 -/

/-- Fraction bits. Every result below 2^−1058, the smallest magnitude AF48 holds, keeps nearly two thousand correct bits. -/
def P : Nat := 3000

/-- 1. -/
def one : Int := (2 : Int) ^ P

/-- The product. -/
def mul (a b : Int) : Int := (a * b) >>> P

/-- The quotient; 0 where the divisor is 0. -/
def div (a b : Int) : Int := if b = 0 then 0 else (a <<< P) / b

/-- A ratio of two integers. -/
def ratio (a b : Int) : Int := (a <<< P) / b

/-- A finite value. -/
def ofNum : Num → Int
  | .fin s m e => (if s then -1 else 1) * ((shl m (e + P) : Nat) : Int)
  | _ => 0

/-- The sum of `n` terms, the first `t`, each made from the one before by `next`, which is told its number. -/
def series (next : Nat → Int → Int) : Nat → Nat → Int → Int → Int
  | 0, _, _, acc => acc
  | n + 1, k, t, acc => series next n (k + 1) (next (k + 1) t) (acc + t)

/-- 2 artanh(t) for t of at most 1/3: twice the sum of t^(2k+1) ÷ (2k + 1). -/
def artanh2 (t : Int) : Int :=
  let q := mul t t
  2 * ((List.range 1000).foldl (fun (a : Int × Int) (k : Nat) => (a.1 + a.2 / (2 * (k : Int) + 1), mul a.2 q)) (0, t)).1

/-- ln 2. -/
def ln2 : Int := artanh2 (ratio 1 3)

/-- arctan(1 / n). -/
def arctanInv (n : Int) : Int :=
  ((List.range 700).foldl (fun (a : Int × Int) (k : Nat) =>
    (a.1 + (if k % 2 = 0 then 1 else -1) * (a.2 / (2 * (k : Int) + 1)), a.2 / (n * n))) (0, ratio 1 n)).1

/-- π. -/
def pi : Int := 16 * arctanInv 5 - 4 * arctanInv 239

/-- e^x; below x = −2,000 its last place. -/
def exp (x : Int) : Int :=
  if x < -2000 * one then 1
  else
    let k := x / ln2
    let r := x - k * ln2
    let s := series (fun n t => mul t r / n) 420 0 one 0
    if 0 ≤ k then s <<< k.toNat else s >>> (-k).toNat

/-- ln y for y > 0. -/
def ln (y : Int) : Int :=
  let k : Int := (bitLen y.toNat : Int) - 1 - P
  let m := if 0 ≤ k then y >>> k.toNat else y <<< (-k).toNat
  k * ln2 + artanh2 (div (m - one) (m + one))

/-- √y for y ≥ 0. -/
def sqrt (y : Int) : Int := ((isqrt (y.toNat <<< P) : Nat) : Int)

/-- σ(x) = 1 ÷ (1 + e^−x). -/
def sigma (x : Int) : Int :=
  let t := exp (-(x.natAbs : Int))
  if 0 ≤ x then div one (one + t) else div t (one + t)

/-- tanh x. -/
def tanh (x : Int) : Int :=
  let t := exp (-(2 * (x.natAbs : Int)))
  let r := div (one - t) (one + t)
  if 0 ≤ x then r else -r

/-- The normal density φ(x). -/
def phi (x : Int) : Int := div (exp (-(mul x x / 2))) (sqrt (2 * pi))

/-- The ratio Φ(−a) ÷ φ(a) for a ≥ 40, by its continued fraction 1 ÷ (a + 1 ÷ (a + 2 ÷ (a + …))). -/
def mills (a : Int) : Int := div one ((List.range 100).foldl (fun (t : Int) (k : Nat) => a + div ((100 - (k : Int)) * one) t) a)

/-- The normal distribution Φ(x); above 40 it is 1 to 1,150 places, and below −40 it comes from the density. -/
def cdf (x : Int) : Int :=
  if 40 * one < x then one
  else if x < -40 * one then mul (phi x) (mills (-x))
  else
    let a : Int := (x.natAbs : Int)
    let q := mul a a
    let h := mul (phi a) (series (fun n t => mul t q / (2 * n + 1)) 5000 0 a 0)
    if 0 ≤ x then one / 2 + h else one / 2 - h

/-! ### The functions of R108 -/

/-- 0.797_884_6 and 0.044_715 of the tanh form of GELU. -/
def geluC : Int := ratio 7978846 10000000
@[inherit_doc geluC] def geluA : Int := ratio 44715 1000000

/-- 2z of the tanh form, z = 0.797_884_6 (x + 0.044_715 x³), and its derivative. -/
def geluZ (x : Int) : Int := 2 * mul geluC (x + mul geluA (mul x (mul x x)))
@[inherit_doc geluZ] def geluZ' (x : Int) : Int := 2 * mul geluC (one + 3 * mul geluA (mul x x))

/-- f(x) of the functions R104 bounds; none where the value lies beyond AF48's range. As 1 + tanh z is 2σ(2z), GELU's tanh form is
x × σ(2z). -/
def act (f : Nat) (x : Int) : Option Int :=
  match f with
  | 3 => some (mul x (sigma (geluZ x)))
  | 4 => some (mul x (cdf x))
  | 5 => some (mul x (sigma x))
  | 6 => some (sigma x)
  | 7 => some (tanh x)
  | 8 => if 2100 * one < x then none else some (exp x)
  | _ => some ((if 0 ≤ x then x else 0) + ln (one + exp (-(x.natAbs : Int))))

/-- f′(x) (R108); `alpha` is ACT_ALPHA. -/
def deriv (f : Nat) (alpha x : Int) : Option Int :=
  let s := sigma x
  match f with
  | 0 => some one
  | 1 => some (if 0 < x then one else 0)
  | 2 => some (if 0 < x then one else alpha)
  | 3 =>
    let g := sigma (geluZ x)
    some (g + mul x (mul (mul g (one - g)) (geluZ' x)))
  | 4 => some (cdf x + mul x (phi x))
  | 5 => some (mul s (one + mul x (one - s)))
  | 6 => some (mul s (sigma (-x)))
  | 7 =>
    let t := exp (-(2 * (x.natAbs : Int)))
    some (div (4 * t) (mul (one + t) (one + t)))
  | 8 => if 2100 * one < x then none else some (exp x)
  | 9 => some s
  | 0xA => some (if -alpha < x ∧ x < alpha then one else 0)
  | _ => some (2 * x)

/-! ### A value within two units -/

/-- The value within 2 units in the last place of `sig` significand bits, no unit below 2^`low`, of `x` that `pick` names. The unit is that of
x's exponent; of the grid's value below |x| and −1, 0, 1 and 2 units from it each lies within 2, and −2 does where |x| is that value. -/
def within (sig : Nat) (low : Int) (x : Int) (pick : Nat) : Num :=
  if x = 0 then .fin false 0 0
  else
    let m := x.natAbs
    let q : Int := max (floorLog2 m (-(P : Int)) - ((sig : Int) - 1)) low
    let g := shl m (-(P : Int) - q)
    let exact : Bool := shl g (q + P) == m
    let y : Int := (g : Int) + (if exact then ((pick % 5 : Nat) : Int) - 2 else ((pick % 4 : Nat) : Int) - 1)
    .fin (decide (x < 0) != decide (y < 0)) y.natAbs q

end Sys2Proof.Elem
end

