-- ==== Sys2Proof/Machine/PassMath.lean ====
section
/-!
DEFINITION. What a pass computes: the classes' pairs and modes (R30, R55), the window and
AF48 paths (R70 to R77), integer passes (R78), the distance and comparison modes (R56, R57), and the fold's combination
with a tile word (R32, R57, R78, R79).
-/
namespace Sys2Proof.Machine

/-- WS K of a rate class (R30); not available for split. -/
def RateClass.wsK : RateClass → Nat
  | .sixteen => 128 | .eight => 256 | .narrow => 512 | .split => 0

/-- Whether two formats may be the operands of one pass (R30). -/
def pairOk (a b : Nat) : Bool :=
  match rateClass a, rateClass b with
  | some x, some y => decide (x = y) && (Fmt.isFloat a == Fmt.isFloat b)
  | _, _ => false

/-- The fields of a PASS (R161). -/
structure PassF where
  mode : Nat
  fa : Nat
  fb : Nat
  tile : Nat
  init : Bool
  scales : Nat
  ta : Bool
  tb : Bool
  m : Nat
  n : Nat
  k : Nat
  kbase : Nat
  deriving DecidableEq, Repr

/-- Read the fields of a PASS word. -/
def passF (w : IWord) : PassF where
  mode := fieldOf w 108 4
  fa := fieldOf w 104 4
  fb := fieldOf w 100 4
  tile := fieldOf w 96 4
  init := decide (fieldOf w 95 1 = 1)
  scales := fieldOf w 93 2
  ta := decide (fieldOf w 92 1 = 1)
  tb := decide (fieldOf w 91 1 = 1)
  m := fieldOf w 83 8
  n := fieldOf w 75 8
  k := fieldOf w 62 13
  kbase := fieldOf w 31 16

/-- Weight-stationary mode. -/
def PassF.ws (p : PassF) : Bool := decide (p.mode = 1)

/-- Whether the pass takes scales: floating 8-bit or narrow, and not a distance mode (R73). -/
def PassF.scaled (p : PassF) : Bool :=
  decide (p.mode ≤ 1) && Fmt.isFloat p.fa && decide (rateClass p.fa = some .eight ∨ rateClass p.fa = some .narrow)

/-- MX block scales are in use. -/
def PassF.mx (p : PassF) : Bool := p.scaled && decide (p.scales = 2)

/-- The stream length without a ramp (R30, R33). -/
def PassF.stream (p : PassF) : Nat :=
  if p.ws then p.m
  else match rateClass p.fa with
    | some .sixteen => p.k
    | some .eight => p.k / 2
    | some .narrow => p.k / 4
    | some .split => 3 * p.k
    | none => p.k

/-- The fold length (R32, R33). -/
def PassF.foldLen (p : PassF) : Nat := if p.ws then p.m else 128

/-- hi and lo of a split FP32 operand (R77). -/
def splitHi (x : Nat) : Num :=
  if bits x 23 8 = 255 then Fmt.decode 3 (Fmt.rne 3 (Fmt.decode 1 x)) else Fmt.decode 1 (bits x 16 16 * 2 ^ 16)
def splitLo (x : Nat) : Num :=
  if bits x 23 8 = 255 then .fin false 0 0 else Fmt.decode 3 (Fmt.rne 3 ((Fmt.decode 1 x).sub (splitHi x)))

/-- The value a format code's pattern has in an integer pass. -/
def intVal (f v : Nat) : Int :=
  match f with
  | 0xB => (bits v 0 8 : Nat)
  | 0xC => signed 4 v
  | _ => signed 8 v

/-- The number of equal bits of two patterns (mode 0x6, R55). -/
def equalBits (w a b : Nat) : Nat := ((List.range w).filter fun i => a.testBit i == b.testBit i).length

/-- Exact sum of terms (R71, R74): the window and its flags. -/
def windowSum (ts : List Num) : Num := ts.foldl Num.add (.fin false 0 0)

/-- Terms added into the pass register one by one, rounded to AF48 each time (R76). -/
def af48Sum (p : Num) (ts : List Num) : Num := ts.foldl (fun p t => (p.add t).af48) p

/-- Whether the terms of a floating pass take the AF48 path (R70, R75): 16-bit and split operands, products of two E5M2
operands, squared differences with an E5M2 operand. -/
def wideTerms (mode fa fb : Nat) : Bool :=
  decide (rateClass fa = some .sixteen) || decide (rateClass fa = some .split) ||
  (decide (mode ≤ 1) && decide (fa = 6) && decide (fb = 6)) || (decide (mode = 2) && (decide (fa = 6) || decide (fb = 6)))

/-- The floating term of a cell (R55, R56, R71). -/
def floatTerm (mode : Nat) (a b : Num) : Num :=
  match mode with
  | 2 => let d := a.sub b; d.mul d
  | 3 => (a.sub b).abs
  | _ => a.mul b

/-- The integer term of a cell (R55, R78). -/
def intTerm (mode fa fb a b : Nat) : Int :=
  let x := intVal fa a
  let y := intVal fb b
  match mode with
  | 2 => (x - y) * (x - y)
  | 3 => ((x - y).natAbs : Int)
  | 6 => equalBits (Fmt.width fa) a b
  | _ => x * y

/-- Consecutive blocks of 32 (R72). -/
def blocks32 {α : Type} (l : List α) : Nat → List (List α)
  | 0 => []
  | n + 1 => l.take 32 :: blocks32 (l.drop 32) n

/-- The sum of a floating cell over its K steps (R70 to R77): `as` and `bs` are the codes along K, `sa` and `sb` the scales
of each block. -/
def floatCell (p : PassF) (as bs : List Nat) (sa sb : Nat → Nat) : AccWord :=
  let zero : Num := .fin false 0 0
  let ab := as.zip bs
  let r : Num :=
    if rateClass p.fa = some .split then
      af48Sum zero (ab.flatMap fun (a, b) =>
        [(splitHi a).mul (splitHi b), (splitHi a).mul (splitLo b), (splitLo a).mul (splitHi b)])
    else
      let terms := ab.map fun (a, b) => floatTerm p.mode (Fmt.decode p.fa a) (Fmt.decode p.fb b)
      let scaledBy (q : Nat) (x : Num) : Num := if p.scaled then (x.withScale (sa q)).withScale (sb q) else x
      if wideTerms p.mode p.fa p.fb then
        if p.mx then af48Sum zero (terms.zipIdx.map fun (t, k) => scaledBy (k / 32) t) else af48Sum zero (terms.map (scaledBy 0))
      else if p.mx then
        ((blocks32 terms (ceilDiv terms.length 32)).zipIdx).foldl (fun P (b, q) => (P.add (scaledBy q (windowSum b))).af48) zero
      else (zero.add (scaledBy 0 (windowSum terms))).af48
  BitVec.ofNat 48 (Fmt.rne 2 r)

/-- The sum of an integer cell, exactly, as a 48-bit integer (R78). -/
def intCell (p : PassF) (as bs : List Nat) : AccWord :=
  BitVec.ofNat 48 (unsignedOf 48 ((as.zip bs).foldl (fun t (a, b) => t + intTerm p.mode p.fa p.fb a b) 0))

/-- The value-and-index word (R57). -/
def viWord (v idx : Nat) : AccWord := BitVec.ofNat 48 ((v % 2 ^ 32) * 65536 + idx % 65536)

/-- The value of a value-and-index word's pattern: FP32 for floating passes, INT32 for integer passes (R57). -/
def viNum (isF : Bool) (v : Nat) : Num := if isF then Fmt.decode 1 v else Num.ofInt (signed 32 v)

/-- Whether the first value wins over the second under minimum or maximum; a NaN never wins, ties do not (R57). -/
def viBeats (isMax : Bool) (a b : Num) : Bool :=
  !a.isNan && (b.isNan || (if isMax then b.lt a else a.lt b))

/-- The winner of a cell in modes 0x4 and 0x5 (R56, R57). -/
def viCell (p : PassF) (as bs : List Nat) : AccWord :=
  let isF := Fmt.isFloat p.fa
  let isMax := decide (p.mode = 5)
  let sums := (as.zip bs).map fun (a, b) =>
    if isF then Fmt.rne 1 ((Fmt.decode p.fa a).add (Fmt.decode p.fb b)) else unsignedOf 32 (intVal p.fa a + intVal p.fb b)
  let best := sums.zipIdx.foldl (fun (acc : Option (Nat × Nat)) (v, k) =>
    match acc with
    | none => if (viNum isF v).isNan then none else some (v, k)
    | some (bv, bk) => if viBeats isMax (viNum isF v) (viNum isF bv) then some (v, k) else some (bv, bk)) none
  match best with
  | some (v, k) => viWord v (p.kbase + k)
  | none => viWord 0x7FC00000 0xFFFF

/-- One cell of a pass: the word its pass register holds after K steps. -/
def passCell (p : PassF) (as bs : List Nat) (sa sb : Nat → Nat) : AccWord :=
  if p.mode = 4 ∨ p.mode = 5 then viCell p as bs
  else if p.mode = 6 ∨ Fmt.isInt p.fa then intCell p as bs
  else floatCell p as bs sa sb

/-- What the fold makes of a tile word and a pass word (R32, R57, R78, R79). -/
def foldWord (p : PassF) (tile pass : AccWord) : AccWord :=
  if p.init then pass
  else if p.mode = 4 ∨ p.mode = 5 then
    let isF := Fmt.isFloat p.fa
    if viBeats (decide (p.mode = 5)) (viNum isF (pass.toNat / 65536)) (viNum isF (tile.toNat / 65536)) then pass else tile
  else if p.mode = 6 ∨ Fmt.isInt p.fa then
    BitVec.ofNat 48 (unsignedOf 48 (sat48 (signed 48 tile.toNat + signed 48 pass.toNat)))
  else BitVec.ofNat 48 (Fmt.rne 2 ((Fmt.decode 2 tile.toNat).add (Fmt.decode 2 pass.toNat)))

/-- The index of a word in an engine's accumulator: tile, half, row, column (R93). -/
def accIndex (t h r c : Nat) : Nat := ((t * 2 + h) * 128 + r) * 128 + c

/-- Fold row `r` of a pass into its tile half: columns outside the active ones stay, and so does a row outside them (R29, R32, R33). -/
def foldRow (p : PassF) (h : Nat) (res : List AccWord) (r : Nat) (acc : SMap AccWord) : SMap AccWord :=
  if r < p.m then
    (List.range p.n).foldl (fun acc j =>
      let k := accIndex p.tile h r j
      SMap.set 0 acc k (foldWord p (SMap.get 0 acc k) (res.getD (r * p.n + j) 0))) acc
  else acc

/-- Fold rows `lo` to `hi` − 1 of a pass, in order (R32 to R34). -/
def foldInto (p : PassF) (h : Nat) (res : List AccWord) (lo hi : Nat) (acc : SMap AccWord) : SMap AccWord :=
  (List.range (hi - lo)).foldl (fun acc i => foldRow p h res (lo + i) acc) acc

/-- The window cycles of a ramp in which a stream step is accepted (R44, R45): `len` 32 or 16. -/
def rampCycles (len : Nat) : List Nat :=
  (List.range len).filter fun n => (n + 1) * (n + 2) / (2 * len) > n * (n + 1) / (2 * len)

/-- The stream length of `n` steps under a ramp (R44, R45). -/
def rampedStream (len n : Nat) : Nat :=
  if n ≥ len / 2 then n + len / 2 else ((rampCycles len).getD (n - 1) 0) + 1

end Sys2Proof.Machine
end

