-- ==== Sys2Proof/Machine/Operands.lean ====
section
/-!
DEFINITION. Instruction words: the families of R149, the layouts of R150, R155, R161, R163, R164, R166, R169 and R172,
the checks the sequencer makes at fetch (R147, R174), the predicate (R129, R151), and the scalar registers an
instruction uses (R131).
-/
namespace Sys2Proof.Machine

/-- The families of R149. -/
inductive Family where
  | seq | sync | cut | engine | vector | bobbin | memory | network | reserved
  deriving DecidableEq, Repr

/-- The family of an opcode (R149). -/
def familyOf (op : Nat) : Family :=
  if op ≤ 0x17 then .seq
  else if 0x20 ≤ op ∧ op ≤ 0x23 then .sync
  else if op = 0x24 then .cut
  else if 0x40 ≤ op ∧ op ≤ 0x43 then .engine
  else if 0x60 ≤ op ∧ op ≤ 0x6E then .vector
  else if 0x80 ≤ op ∧ op ≤ 0x81 then .bobbin
  else if 0x90 ≤ op ∧ op ≤ 0x92 then .memory
  else if 0xA0 ≤ op ∧ op ≤ 0xA4 then .network
  else .reserved

/-- Whether a family is allowed in a queue class (R128, R149). -/
def classAllows (f : Family) (cls : Nat) : Bool :=
  match f with
  | .seq => cls = 0
  | .cut => cls = 0
  | .sync => cls ≤ 8
  | .engine => 1 ≤ cls && cls ≤ 4
  | .bobbin => cls = 5 || cls = 6
  | .memory => cls = 5 || cls = 6
  | .vector => cls = 7
  | .network => cls = 8
  | .reserved => false

/-- The lowest operand bit an opcode's layout assigns, for the layouts that assign every bit from there up to bit 111. -/
def lowestBit (op : Nat) : Nat :=
  match op with
  | 0x20 => 70 | 0x21 => 71 | 0x22 => 83 | 0x23 => 103 | 0x24 => 96
  | 0x40 => 31 | 0x41 => 84 | 0x42 => 70 | 0x43 => 70
  | 0x80 => 85 | 0x81 => 75 | 0x90 => 85 | 0x91 => 80 | 0x92 => 74
  | 0xA0 => 68 | 0xA1 => 59 | 0xA2 => 75 | 0xA3 => 96 | 0xA4 => 108
  | _ => 54

/-- Which of RD, RS1, RS2 and IMM an S-family opcode names (R150). -/
def seqFields (op : Nat) : Bool × Bool × Bool × Bool :=
  match op with
  | 0x00 => (false, false, false, false)
  | 0x0A => (true, true, false, true)
  | 0x0B => (true, false, false, true)
  | 0x0C => (false, true, true, false)
  | 0x0D => (false, true, false, true)
  | 0x0E => (false, false, false, true)
  | 0x0F => (true, false, false, true)
  | 0x10 => (false, true, false, false)
  | 0x11 => (true, true, false, true)
  | 0x12 => (false, true, true, true)
  | 0x13 => (true, false, false, true)
  | 0x14 => (true, false, false, true)
  | 0x15 => (true, false, false, true)
  | 0x16 => (false, false, false, true)
  | 0x17 => (false, false, false, false)
  | _ => (true, true, true, false)

/-- Whether a reserved operand bit is set (R146, and the CORE field of a SIGNAL with REMOTE clear, R155). -/
def reservedBitSet (w : IWord) : Bool :=
  let op := opcodeOf w
  if op ≤ 0x17 then
    let n := seqFields op
    (!n.1 && decide (fieldOf w 107 5 ≠ 0)) || (!n.2.1 && decide (fieldOf w 102 5 ≠ 0)) ||
    (!n.2.2.1 && decide (fieldOf w 97 5 ≠ 0)) || decide (fieldOf w 64 33 ≠ 0) || (!n.2.2.2 && decide (fieldOf w 0 64 ≠ 0))
  else
    decide (fieldOf w 0 (lowestBit op) ≠ 0) ||
    (decide (op = 0x22) && decide (fieldOf w 89 1 = 0) && decide (fieldOf w 83 6 ≠ 0))

/-- DFMT is used by every vector opcode but VRED, SFMT by every one but VRNG, RND and SAT by every one but those two (R166). -/
def vectorReservedValue (w : IWord) : Bool :=
  let op := opcodeOf w
  (decide (op ≠ 0x6D) && decide (fieldOf w 83 4 = 0xF)) || (decide (op ≠ 0x6E) && decide (fieldOf w 79 4 = 0xF)) ||
  (decide (op < 0x6D) && (decide (fieldOf w 77 2 = 3) || decide (fieldOf w 75 2 = 3))) ||
  (decide (op = 0x6D) && decide (fieldOf w 70 4 ≥ 4))

/-- Whether an immediate field that the instruction uses holds a reserved value (reason 0x06 of R174). -/
def reservedValue (w : IWord) : Bool :=
  match opcodeOf w with
  | 0x13 => decide (fieldOf w 0 64 > 7)
  | 0x23 => decide (fieldOf w 103 5 = 0) || decide (fieldOf w 103 5 > 16)
  | 0x40 => decide (fieldOf w 108 4 ≥ 7) || decide (fieldOf w 104 4 = 0xF) || decide (fieldOf w 100 4 = 0xF) || decide (fieldOf w 93 2 = 3)
  | 0x41 => decide (fieldOf w 108 4 = 0xF)
  | 0x92 => decide (fieldOf w 110 2 = 3) || decide (fieldOf w 106 4 = 0xF)
  | op => if familyOf op = .vector then vectorReservedValue w else false

/-- The sequencer's checks at fetch: the lowest reason code whose condition holds, or 0 (R147, R174; log entry 11). -/
def fetchCheck (w : IWord) : Nat :=
  let op := opcodeOf w
  let f := familyOf op
  if f = .reserved then 0x01
  else if classOf w > 8 then 0x02
  else if !classAllows f (classOf w) then 0x03
  else if predOf w > 8 then 0x04
  else if reservedBitSet w then 0x05
  else if reservedValue w then 0x06
  else if (op = 0x0E ∨ op = 0x0F ∨ op = 0x16) ∧ fieldOf w 0 64 > 8191 then 0x0F
  else if op = 0x15 ∧ (fieldOf w 107 5 > 7 ∨ fieldOf w 0 64 > 64) then 0x10
  else if (op = 0x20 ∨ op = 0x22) ∧ fieldOf w 90 16 = 0 then 0x11
  else if op = 0x21 ∧ fieldOf w 91 16 = 0 then 0x11
  else 0

/-- The predicate of R129 over the condition state of R151. -/
def predHolds (p : Nat) (z sg u : Bool) : Bool :=
  match p with
  | 0 => true
  | 1 => z
  | 2 => !z
  | 3 => sg
  | 4 => !sg
  | 5 => u
  | 6 => !u
  | 7 => !z && !sg
  | 8 => z || sg
  | _ => false

/-- The scalar registers an instruction's queue entry uses (R131, R166); x0 is never among them. -/
def regsUsed (w : IWord) : List Nat :=
  let op := opcodeOf w
  let rs : List Nat :=
    match op with
    | 0x40 => [fieldOf w 57 5] ++ (if fieldOf w 108 4 = 1 then [] else [fieldOf w 52 5]) ++
        (if fieldOf w 93 2 = 0 then [] else [fieldOf w 47 5])
    | 0x41 => [fieldOf w 85 5]
    | 0x42 => [fieldOf w 90 5, fieldOf w 85 5, fieldOf w 80 5, fieldOf w 75 5, fieldOf w 70 5]
    | 0x43 => [fieldOf w 90 5, fieldOf w 85 5, fieldOf w 80 5, fieldOf w 75 5, fieldOf w 70 5]
    | 0x80 => [fieldOf w 107 5]
    | 0x81 => [fieldOf w 107 5, fieldOf w 102 5, fieldOf w 97 5]
    | 0x90 => [fieldOf w 107 5]
    | 0x91 => [fieldOf w 107 5, fieldOf w 102 5]
    | 0x92 => [fieldOf w 101 5, fieldOf w 96 5]
    | 0xA0 => [fieldOf w 95 5, fieldOf w 90 5]
    | 0xA1 => [fieldOf w 107 5, fieldOf w 102 5, fieldOf w 87 5] ++ (if fieldOf w 64 1 = 1 then [fieldOf w 59 5] else [])
    | 0xA2 => [fieldOf w 97 5]
    | 0xA3 => [fieldOf w 103 5]
    | 0x6D => [fieldOf w 107 5, fieldOf w 102 5, fieldOf w 87 5]
    | 0x6E => [fieldOf w 107 5, fieldOf w 87 5]
    | 0x63 => [fieldOf w 107 5, fieldOf w 102 5, fieldOf w 97 5, fieldOf w 92 5, fieldOf w 87 5]
    | _ =>
      if familyOf op = .vector then
        [fieldOf w 107 5, fieldOf w 102 5, fieldOf w 87 5] ++
          (if op ≤ 0x65 ∨ op = 0x6C then [fieldOf w 97 5] else [])
      else []
  rs.filter (· ≠ 0)

/-- The words whose register holds are in force: queue entries not yet begun and drain requests not yet begun (R131). -/
def heldWords (r : CoreRec) : List IWord :=
  let items : List IWord := r.queues.toList.flatMap fun q => q.filterMap fun
    | .instr w _ => some w
    | .marker .. => none
  let reqs : List IWord := r.drains.toList.flatMap fun d => d.queue.map fun q => q.word
  items ++ reqs

/-- Whether a class-0 instruction that writes `r` must wait for a queued instruction that uses it (R131). -/
def regHeld (rec : CoreRec) (r : Nat) : Bool := decide (r ≠ 0) && (heldWords rec).any fun w => (regsUsed w).contains r

/-! The operand fields of the S family (R150). -/
/-- RD [111:107]. -/
def rdOf (w : IWord) : Nat := fieldOf w 107 5
/-- RS1 [106:102]. -/
def rs1Of (w : IWord) : Nat := fieldOf w 102 5
/-- RS2 [101:97]. -/
def rs2Of (w : IWord) : Nat := fieldOf w 97 5
/-- IMM [63:0]. -/
def immOf (w : IWord) : Word64 := BitVec.ofNat 64 (fieldOf w 0 64)

end Sys2Proof.Machine
end

