-- ==== Sys2Proof/Machine/Reset.lean ====
section
/-!
DEFINITION. The module reset (R376, R377, R424) and the fatal error (R377, R382), and the ECC of an accumulator row (R96).
-/
namespace Sys2Proof.Machine

/-! ### Module reset -/

/-- Whether a field's key lies among the `n` bytes from `lo`. -/
def inBytes (lo n k : Nat) : Bool := decide (lo ≤ k / 8) && decide (k / 8 < lo + n)

/-- Whether a register field survives a module reset: `RST_LAST`, `ERR_LOGPTR`, `ERR_FATAL` and the log (R376, R381, R394, R399). -/
def survives (k : Nat) : Bool :=
  inBytes (rstBase + 0x18) 8 k || inBytes (errBase + 0x10) 8 k || inBytes (errBase + 0x40) 8 k || inBytes (errBase + 0x1000) 0x8000 k

/-- The registers right after a module reset: those that survive keep their values, the rest take their reset values. -/
def regsAfterReset (m : SMap Nat) : SMap Nat :=
  (m.filter fun e => survives e.1).foldl (fun r e => SMap.put e.1 e.2 r) State.reset.regs

/-- A module reset (R376): everything takes its reset value but what survives: `RST_LAST`, the error log, the cable ends with
their counters, fuses and flash, and the power-on time. Bring-up starts from step 1. -/
def State.moduleReset (s : State) (cause : Nat) : State :=
  let s' := { State.reset with
    pending := s.pending
    ticks := s.ticks
    regs := regsAfterReset s.regs
    disabled := s.disabled
    cables := s.cables
    receps := s.receps
    boot := { s.boot with
      stage := [], licBuf := [], meas := [], aliasKey := none, nonce := none, sessions := [], writing := false, committing := false,
      released := s.us, step := 0, link := none }
    pins := { s.pins with alert := false, ramping := [] }
    fatalLog := s.fatalLog
    hourAt := s.us
    out := s.out
    free := s.free }
  ((s'.wr rstBase F.RST_LAST_CAUSE cause).count rstBase F.RST_LAST_COUNT).wr pwrBase F.PWR_CLASS_STRAP_NOW s.pins.straps

/-- A fatal error (FATAL_ERROR): the record is logged, also to flash, PF0 vector 0 is sent, and the module resets (R377, R382). -/
def State.fatal (s : State) (unit unitId loc cause addr : Nat) : State :=
  ((s.errLog (errRec 3 unit unitId loc 0x10 cause 0xB 0 addr)).msix 0 0).moduleReset 4

/-! ### Accumulator ECC (R96) -/

/-- What an ECC error of a pair of an accumulator row records: its place, the counter, the record, and for an uncorrectable one the
poisoned half and the quarantine (R96, R386). -/
def State.accEcc (s : State) (c : PCore) (e : Eng) (row pair : Nat) (uncorr : Bool) : State :=
  let b := accBase c e
  let s := (s.wr b F.ACC_ECC_ADDR_ROWADDR row).wr b F.ACC_ECC_ADDR_PAIR pair
  let id := c.val * 4 + e.val
  let loc := row % 4096 + pair * 4096
  if uncorr then
    ((s.wrBit b F.ACC_POISON_POISON (row / 128) true).sat b F.ACC_ECC_UNCORR).errMarked 0x2 id loc (s.partOf c) 0
  else (s.sat b F.ACC_ECC_CORR).errCorrected 0x2 id loc (s.partOf c) 0

/-- A read of a tile row meets the errors stored in its pairs (R96): a single-bit one is corrected in the row, a double-bit one stays until
the row is written. -/
def State.accMeet (s : State) (c : PCore) (e : Eng) (row : Nat) : State :=
  let hit (b : Nat × Bool) : Bool := decide (b.1 / 64 = e.val * 4096 + row)
  ((s.core c).accBad.filter hit).foldl (fun s b => s.accEcc c e row (b.1 % 64) b.2)
    (if (s.core c).accBad.isEmpty then s else s.onCore c fun r => { r with accBad := r.accBad.filter fun b => !(hit b && !b.2) })

/-- A tile row is written with fresh codes (R96). -/
def State.accClean (s : State) (c : PCore) (e : Eng) (row : Nat) : State :=
  if (s.core c).accBad.isEmpty then s
  else s.onCore c fun r => { r with accBad := r.accBad.filter fun b => decide (b.1 / 64 ≠ e.val * 4096 + row) }

end Sys2Proof.Machine
end

