-- ==== Sys2Proof/Machine/Task.lean ====
section
/-!
DEFINITION. What happens to a task as a whole: aborting it (R144, R141, R118, R238, R475, R191, R383), skipping and
logging an instruction (R142, R143, R175), flag increments (R136, R137), closing windows (R190, R191) and ending (R154,
R357).
-/
namespace Sys2Proof.Machine

/-! ### Windows and rings at the end of a task -/

/-- Refuse a credit request (R189): counted at the owner, and at the requester when it is a core of this module. -/
def State.creditRefuse (s : State) (owner : PCore) (srcM srcC : Nat) : State :=
  let s := s.sat (spdBase owner) F.SPD_CREDIT_REFUSED
  if srcM = 0xFFFF then
    match s.physOf srcC with
    | some r => (s.sat (spdBase r) F.SPD_CREDIT_ISSUED_REF).setOn (spdBase r) F.SPD_ERR_CRED_REF
    | none => s
  else s

/-- Whether a window is open (R185). -/
def State.winOpen (s : State) (c : PCore) (w : Nat) : Bool := s.rdBit (spdBase c) F.SPD_WINOPEN_OPEN w

/-- Whether a closed window still has accepted lines landing (R190). -/
def State.winDraining (s : State) (c : PCore) (w : Nat) : Bool := s.rdBit (spdBase c) F.SPD_WINOPEN_DRAINING w

/-- The open or draining window that binds an arrival counter (R173, R190). -/
def State.counterWindow (s : State) (c : PCore) (k : Nat) : Option Nat :=
  (List.range 16).find? fun w => (s.winOpen c w || s.winDraining c w) &&
    decide (s.rd (spdBase c) F.SPD_WIN_A_COUNTER w = k)

/-- Close a window that is open (R190, R191): it stops accepting, its generation rises by one, its credit table and pool
are discarded, the requests queued for it are refused, and it drains until its last accepted line is counted. -/
def State.closeWindow (s : State) (c : PCore) (w : Nat) : State :=
  if !s.winOpen c w then s
  else
    let b := spdBase c
    let s := s.wrBit b F.SPD_WINOPEN_OPEN w false
    let s := s.count b F.SPD_WIN_B_GEN 1 w
    let s := s.wr b F.SPD_WIN_B_POOL 0 w
    let r := s.core c
    let s := if r.landing.any fun l => l.1 = w then s.wrBit b F.SPD_WINOPEN_DRAINING w true else s
    let gone := r.creditQ.filter fun q => q.win = w
    let s := s.onCore c fun r => { r with
      credits := if h : w < 16 then vupd r.credits ⟨w, h⟩ fun _ => [] else r.credits
      creditQ := r.creditQ.filter fun q => q.win ≠ w }
    let s := s.wr b F.SPD_CREDIT_QDEPTH (s.core c).creditQ.length
    gone.foldl (fun s q => s.creditRefuse c q.srcM q.srcC) s

/-- Every open window of a core closes as by WCLOSE (WINDOWS_CLOSE_AT_TASK_END; R191). -/
def State.closeWindows (s : State) (c : PCore) : State := (List.range 16).foldl (fun s w => s.closeWindow c w) s

/-- Every ring of a core is disabled, its reservations and counters zero (R242). -/
def State.disableRings (s : State) (c : PCore) : State :=
  let s := (List.range 16).foldl (fun s r =>
    (((s.wr (bobcBase c) F.BOB_RING_CFG_ENABLE 0 r).wr (bobcBase c) F.BOB_RING_PTR_HEAD 0 r).wr (bobcBase c)
      F.BOB_RING_PTR_TAIL 0 r).wr (bobcBase c) F.BOB_RING_PTR_RSV 0 r) s
  s.onCore c fun k => { k with ringDone := [] }

/-! ### What is on its way through the network -/

/-- The number under which the flits of an engine's drain unit travel beside those of the core's NSENDs, whose numbers lie below 2^32 (log
entry 92). -/
def drainTag (e : Eng) : Nat := 2 ^ 32 + e.val

/-! ### Slot tables (R203, R204) -/

/-- The fields of a slot-table entry. -/
structure Entry where
  kind   : Nat
  inA    : Nat
  inB    : Nat
  mfmt   : Nat
  stream : Nat
  part   : Nat
  deriving DecidableEq, Repr

/-- Read an entry; an idle entry has no other field (R204). -/
def entryOf (v : Nat) : Entry :=
  if bits v 0 2 = 0 then ⟨0, 0, 0, 0, 0, 0⟩ else ⟨bits v 0 2, bits v 2 5, bits v 7 5, bits v 12 2, bits v 14 12, bits v 26 4⟩

/-- The key of an entry: die, router, output lane, bank, slot. -/
def entryKey (die r lane bank slot : Nat) : Nat := ((die * 16 + r) * 32 + lane) * 512 + bank * 256 + slot

/-- The active bank, the same on every router (R203). -/
def State.netBank (s : State) : Nat := s.rd (netBase 0) F.NET_ACTIVE_BANK

/-- The die and router of a link complex (R199, R286). -/
def complexPlace (x : Nat) : Nat × Nat := (x / 2, if x % 2 = 0 then 3 else 12)

/-- Whether a stream of the loaded pricking ends at a link complex: an entry sends it on a lane of the complex's attachment (R318). -/
def State.streamEnds (s : State) (stream x : Nat) : Bool :=
  s.net.tables.any fun (k, v) =>
    let e := entryOf v
    decide (k / 256 % 2 = s.netBank) && decide (e.kind ≠ 0) && decide (e.stream = stream) &&
      decide ((k / 512 / 32 / 16, k / 512 / 32 % 16) = complexPlace x) && decide (10 ≤ k / 512 % 32)

/-- The entries of multicast source complexes that a stream matches, each of the complex where it ends (R318). -/
def State.txEntries (s : State) (stream : Nat) : List Nat :=
  (List.range 512).filter fun i => s.on mcastBase F.BRD_TXMAP_VALID i && decide (s.rd mcastBase F.BRD_TXMAP_STREAM i = stream) &&
    s.streamEnds stream (i / 64)

/-- Whether a flit that has arrived stands at a multicast source complex of its stream (R318). -/
def State.txHere (s : State) (x : DstFlit) : Bool :=
  (s.txEntries x.stream).any fun i => decide ((x.die, x.router) = complexPlace (i / 64))

/-- Whether a flit on a lane is still to be sent on: a forward reads it one cycle after it arrives, a merge three (R202). -/
def State.flitLive (s : State) (x : FlitAt) : Bool :=
  x.flit.valid && (decide (s.net.cycle ≤ x.time + 1) || (decide (s.net.cycle ≤ x.time + 3) && s.net.tables.any fun (k, v) =>
    let e := entryOf v
    decide (k / 256 % 2 = s.netBank) && decide (e.kind = 2) && decide (e.stream = x.stream) &&
      decide ((k / 512 / 32 / 16, k / 512 / 32 % 16) = (x.die, x.router)) && (decide (e.inA = x.lane) || decide (e.inB = x.lane))))

/-- The flits of a stream that are on their way or at its complex (R318). -/
def State.txFlying (s : State) (stream : Nat) : Nat :=
  (s.net.flits.filter fun x => x.stream = stream && s.flitLive x).length + (s.net.late.filter fun x => x.2.stream = stream).length +
    ((s.net.merges.filter fun q => q.stream = stream).map fun q => max q.qa.length q.qb.length).sum +
    (s.net.dst.filter fun x => x.stream = stream && s.txHere x).length

/-- Whether a multicast source stream has credit: at most 64 KiB of it are on their way or at its complex (R318). -/
def State.txCredit (s : State) (stream : Nat) : Bool := (s.txEntries stream).isEmpty || decide (s.txFlying stream < 512)

/-- Whether a flit that carries the number `id` of a core is still on its way to its far end; a line of a multicast stream must have left the
source's replication point (R136, R173, R207, R318). -/
def State.opFlying (s : State) (c : PCore) (id : Nat) : Bool :=
  let mine (l : List (Nat × Nat)) : Bool := l.contains (c.val, id)
  s.net.src.any (fun x => mine x.ops) || s.net.flits.any (fun x => mine x.ops) || s.net.late.any (fun x => mine x.2.ops) ||
    s.net.merges.any (fun q => q.qa.any (fun x => mine x.2) || q.qb.any fun x => mine x.2) ||
    s.net.dst.any fun x => mine x.ops && (decide (x.lane = 8) || decide (x.lane = 9) || s.txHere x)

/-! ### Stopping the units of a core at an abort -/

/-- An engine at a task abort (R48, R144), which is a pre-emption: it finishes the stream in progress, issues nothing more and starts no
LOADW front; passes already issued fold, those that stream again for a replay among them (R51). Where nothing streams the boundary is at once. -/
def State.stopEngine (s : State) (c : PCore) (e : Eng) : State :=
  let r := (s.core c).engines[e]
  let b := opeBase c e
  let streaming := match r.lastE with
    | some t => decide (s.cycle ≤ t)
    | none => false
  let busy := !r.issued.isEmpty || (match r.front with
    | some f => decide (s.cycle < f + 128)
    | none => false)
  let st := s.rd b F.OPE_STATUS_STATE
  let s := if st = 5 ∨ st = 6 ∨ st = 4 ∨ st = 3 then s
    else
      let s := if streaming then s else s.wr b F.OPE_PREEMPT_WAIT_CYCLES 0
      s.wr b F.OPE_STATUS_STATE (if streaming || busy then 3 else 4)
  s.onCore c fun k => { k with engines := vupd k.engines e fun r => { r with
    loads := []
    raced := []
    preemptAt := if st = 3 then r.preemptAt else if streaming then some s.cycle else none } }

/-- A drain unit at a task abort (DRAIN_ABORT_DISCARD; R118): rows already read are written; the rest of the request,
every request not begun and the reduction results held are discarded. -/
def State.stopDrain (s : State) (c : PCore) (e : Eng) : State :=
  let d := (s.core c).drains[e]
  let busy := d.run.isSome || !d.ended.isEmpty || !d.queue.isEmpty
  let tiles := d.queue.map (·.tile) ++ (match d.run with | some r => [r.req.tile] | none => [])
  let s := if busy then s.setOn (drnBase c e) F.DRN_ERR_ABORT_DISC else s
  let s := tiles.foldl (fun s t => s.wrBit (accBase c e) F.ACC_SHADOW_BUSY_BUSY t false) s
  let s := s.wr (drnBase c e) F.DRN_STATUS_STATE 0
  s.onCore c fun k => { k with drains := vupd k.drains e fun d => { d with queue := [], run := none, ended := [], red0 := [], red1 := [], emits := [] } }

/-- A bobbin at a task abort (BOBBIN_ABORT_STOP; R238): it issues nothing more and discards its transfers; the requests
it has issued complete. -/
def State.stopBobbin (s : State) (c : PCore) (b : Bob) : State :=
  let s := s.wr (bobBase c b) F.BOB_STATUS_CTX 0
  let s := (s.wr (bobBase c b) F.BOB_STATUS_RINGWAIT 0).wr (bobBase c b) F.BOB_STATUS_REGWAIT 0
  s.onCore c fun k => { k with bobs := vupd k.bobs b fun r => { r with
    ctxs := []
    ringWait := none
    hold := 0
    gone := r.ctxs
    goneAt := s.cycle } }

/-- What a core records of its waits at an abort (R141, R156, R160, R241): the units blocked in WAIT, what each waits on,
which waits are on counters and which on rings, and the address of the first, or of the last CUT where none waits. -/
def State.recordWaits (s : State) (c : PCore) : State :=
  let r := s.core c
  let rings : List Waiter := (List.finRange 2).filterMap fun b => match r.bobs[b].ringWait with
    | some n => some ⟨5 + b.val, false, n, 1, 0, 0, match r.queues[(⟨4 + b.val, by omega⟩ : Queue)] with
        | .instr _ ia :: _ => ia
        | _ => 0⟩
    | none => none
  let ws := r.waiters ++ rings
  let base := coreBase c
  let units := (List.range 9).filter fun u => ws.any fun w => w.unit = u
  let s := s.wr base F.SEQ_ABORT_QMASK (units.foldl (fun m u => m + 2 ^ u) 0)
  let s := ws.foldl (fun s w => if w.unit < 9 then s.wr base F.SEQ_ABORTFLAG_WHO w.num w.unit else s) s
  let s := s.wr (spdBase c) F.SPD_ABORTKIND_KIND (((List.range 9).filter fun u => r.waiters.any fun w =>
    w.unit = u && w.ctr).foldl (fun m u => m + 2 ^ u) 0)
  let s := s.wr (bobcBase c) F.BOB_ABORTKIND_KIND (((List.finRange 2).filter fun b => r.bobs[b].ringWait.isSome).foldl
    (fun m b => m + 2 ^ b.val) 0)
  match units with
  | u :: _ => match ws.find? fun w => w.unit = u with
    | some w => s.wr base F.SEQ_ABORT_IADDR w.ia
    | none => s
  | [] => s.wr base F.SEQ_ABORT_IADDR r.lastCut

/-- What a core of a task that aborts records (R144, R145). `who` is the core and address of the instruction at fault, where there is one. -/
def State.abortRecord (s : State) (cause : Nat) (who : Option (PCore × Nat)) (c : PCore) : State :=
  let s := s.recordWaits c
  let s := s.wr (coreBase c) F.SEQ_ABORT_CAUSE cause
  match who with
  | some (k, ia) => if k = c then s.wr (coreBase c) F.SEQ_ABORT_IADDR ia else s
  | none => s

/-- The instruction at the head of a bobbin's queue, which an abort takes away (R144, R237). -/
def CoreRec.bobHead (r : CoreRec) (b : Bob) (now : Nat) : Option (IWord × Nat) :=
  match r.queues[(⟨4 + b.val, by omega⟩ : Queue)] with
  | .instr w ia :: _ => if r.headAt[(⟨4 + b.val, by omega⟩ : Queue)] ≤ now then some (w, ia) else none
  | _ => none

/-- A core of a task that aborts stops (R144): its sequencer in state 4 with its queues empty, its units stopped, its windows closed. -/
def State.abortUnits (s : State) (c : PCore) : State :=
  let s := (s.wr (coreBase c) F.SEQ_STATUS_STATE 4).wr (coreBase c) F.SEQ_STATUS_BLOCK 0
  let s := s.onCore c fun r => { r with
    queues := Vector.replicate 8 []
    headAt := Vector.replicate 8 s.cycle
    cutSince := Vector.replicate 8 none
    waiters := []
    netOps := []
    bobs := Vector.ofFn fun b : Bob => ({ r.bobs[b] with goneHead := r.bobHead b s.cycle } : BobRec) }
  let s := { s with net := { s.net with src := s.net.src.filter fun x =>
    !(decide (x.core = c.val) && x.ops.any fun o => decide (o.2 < 2 ^ 32)) } }
  let s := (List.finRange 4).foldl (fun s e => (s.stopEngine c e).stopDrain c e) s
  let s := (List.finRange 2).foldl (fun s b => s.stopBobbin c b) s
  ((s.closeWindows c).disableRings c).quarBegin c

/-- One core of a task that aborts (R144). -/
def State.abortCore (s : State) (cause : Nat) (who : Option (PCore × Nat)) (c : PCore) : State := (s.abortRecord cause who c).abortUnits c

/-- The lowest logical core of a list of cores (R352, R395). -/
def State.lowestLogical (s : State) (cs : List PCore) : Nat :=
  cs.foldl (fun m c => match s.logicalOf c with
    | some l => min m l
    | none => m) 63

/-- Whether the units of a partition's cores have stopped after an abort: no stream, fold or request of them is left (R357). -/
def State.abortStopped (s : State) (p : Nat) : Bool :=
  let cs := allCores.filter fun c => decide (s.partOf c = p)
  let mine (m : MemSrc) : Bool := match m with
    | .bobbin k _ _ => cs.any fun c => c.val = k
    | .drain k _ => cs.any fun c => c.val = k
    | .work k _ _ => cs.any fun c => c.val = k
    | _ => false
  (cs.all fun c =>
    ((List.finRange 4).all fun e => decide (s.rd (opeBase c e) F.OPE_STATUS_STATE ≠ 3) && (s.core c).engines[e].issued.isEmpty) &&
    (List.finRange 2).all fun b => (s.core c).bobs[b].reqs.isEmpty) &&
  s.noRequest fun r => mine r.src

/-- The KIND 0x02 record of an abort is written once its units have stopped (R357). -/
def State.abortReport (s : State) (p : Nat) : State :=
  if h : p < 16 then
    match s.parts[p].abortRec with
    | some (low, cause) =>
      if s.abortStopped p then
        ({ s with parts := vupd s.parts ⟨p, h⟩ fun r => { r with abortRec := none } }).cqPost p 0x02 low cause 0
      else s
    | none => s
  else s

/-- Abort the task of a partition (TASK_ABORT; R144, R383): every core of the task stops; one log record with CAUSE 0x10,
PF0 vector 0, and a KIND 0x02 completion record unless a partition reset reports the abort (`post` false). The cores of `silent`, whose reset
aborts the task, record nothing (R370). A partition with no task, or whose task has ended on every core, has nothing to abort. -/
def State.abortTask (s : State) (p cause : Nat) (who : Option (PCore × Nat)) (post : Bool := true) (silent : List PCore := []) : State :=
  let cs := s.taskCores p
  if !cs.any fun c => decide (s.seqState c = 1) || decide (s.seqState c = 2) then s
  else
    let told := cs.filter fun c => !silent.contains c
    let low := s.lowestLogical told
    let s := cs.foldl (fun s c => if silent.contains c then s.abortUnits c else s.abortCore cause who c) s
    let s := if h : p < 16 then
        { s with
          parts := vupd s.parts ⟨p, h⟩ fun r => { r with
            quiet := 0
            declared := none
            abortRec := if post then some (if told.isEmpty then 0xFFFF else low, cause) else r.abortRec }
          mir := vupd s.mir ⟨p, h⟩ fun m => { m with
            cutStart := none
            cutLost := (m.cutStart.map fun t => (s.rd mirBase F.MIR_EPOCH_NEXT p, t)).orElse fun _ => m.cutLost } }
      else s
    let s := s.errLog (errRec 2 0x10 p (cause + low * 256) p 0x10 0xA 0)
    let s := s.msix 0 0
    s.abortReport p

/-! ### Skip and log -/

/-- Write an entry of `SEQ_ILLOG` for a skipped instruction and count it (R142, R175). -/
def State.logSkip (s : State) (c : PCore) (unit : Nat) (w : IWord) (ia reason : Nat) : State :=
  let b := coreBase c
  let k := s.rd b F.SEQ_ILLPTR_NEXT
  let s := s.sat b F.SEQ_ILLCNT_COUNT
  let s := s.wr b F.SEQ_ILLOG_WORD_LO (fieldOf w 0 64) k
  let s := s.wr b F.SEQ_ILLOG_WORD_HI (fieldOf w 64 64) k
  let s := s.wr b F.SEQ_ILLOG_IADDR ia k
  let s := s.wr b F.SEQ_ILLOG_REASON reason k
  let s := s.wr b F.SEQ_ILLOG_UNIT unit k
  let s := s.wr b F.SEQ_ILLOG_SEQNO (s.rd b F.SEQ_ILLCNT_COUNT) k
  let s := if k = 31 then s.setOn b F.SEQ_ILLPTR_WRAPPED else s
  let s := s.wr b F.SEQ_ILLPTR_NEXT (k + 1)
  s.setOn b F.SEQ_ERR_ILLEGAL

/-- Skip an instruction (INSTRUCTION_SKIP; R142): log it, and in strict mode abort the task with cause 3 (R143). -/
def State.skip (s : State) (c : PCore) (unit : Nat) (w : IWord) (ia reason : Nat) : State :=
  let s := s.logSkip c unit w ia reason
  if s.on (coreBase c) F.SEQ_CTRL_STRICT then s.abortTask (s.partOf c) 3 (some (c, ia)) else s

/-! ### Flag increments -/

/-- Add to a flag of a core: beyond 65,535 it saturates and FLAG_OVF is set, and in strict mode the task aborts with
cause 3 (FLAG_SATURATE; R137, R143; log entry 12). -/
def State.flagAdd (s : State) (c : PCore) (f n : Nat) (ia : Option Nat := none) : State :=
  let v := s.flag c f + n
  if v ≤ 65535 then s.setFlag c f v
  else
    let s := (s.setFlag c f 65535).setOn (coreBase c) F.SEQ_ERR_FLAG_OVF
    if s.on (coreBase c) F.SEQ_CTRL_STRICT then s.abortTask (s.partOf c) 3 (ia.map fun a => (c, a)) else s

/-- An increment from outside the core's own SIGNALs: applied in states 0 to 3, absorbed and counted in states 4 and 5
and in a core reset (R137). -/
def State.flagAddExt (s : State) (c : PCore) (f n : Nat) : State :=
  if s.inReset c || decide (s.seqState c ≥ 4) then s.sat (coreBase c) F.SEQ_SIGDROP_COUNT else s.flagAdd c f n

/-- Signal a completion pair (R148): N = 0 requests no signal. -/
def State.signalPair (s : State) (c : PCore) (f n : Nat) (ia : Nat) : State :=
  if n = 0 then s else s.flagAdd c f n (some ia)

/-! ### Ending -/

/-- Whether every core of the partition's task has ended (R357). -/
def State.taskAllEnded (s : State) (p : Nat) : Bool := (s.taskCores p).all fun c => decide (s.seqState c = 3)

/-- The end of a core's program (END_COMPLETE; R154): state 3; when every core of the task has ended, the task's windows
close, its rings are disabled and a KIND 0x01 record is written (R191, R242, R357). -/
def State.endCore (s : State) (c : PCore) : State :=
  let p := s.partOf c
  let s := ((s.wr (coreBase c) F.SEQ_STATUS_STATE 3).wr (coreBase c) F.SEQ_STATUS_BLOCK 0).quarBegin c
  if s.taskAllEnded p then
    let s := (s.taskCores p).foldl (fun s c => (s.closeWindows c).disableRings c) s
    s.cqPost p 0x01 0xFFFF 0 0
  else s

/-- Take the instruction at a queue's head and skip it, logging the queue's class as the unit (R142, R147). -/
def State.skipHead (s : State) (c : PCore) (q : Queue) (w : IWord) (ia reason : Nat) : State :=
  (s.popQ c q).skip c (q.val + 1) w ia reason

/-- A page fault at a unit (PAGE_FAULT; R148, R236): the task aborts with cause 5 at the instruction's address. -/
def State.pageFault (s : State) (c : PCore) (ia : Nat) : State := s.abortTask (s.partOf c) 5 (some (c, ia))

/-- Marked data consumed (R384): one record with CAUSE 0x0F and the consuming unit, then the task aborts with cause 6. -/
def State.consumeFault (s : State) (c : PCore) (unit unitId addr ia : Nat) : State :=
  let s := s.errLog (errRec 2 unit unitId (if unit = 0x4 then ia else 0) (s.partOf c) 0x0F 0 0 addr)
  s.abortTask (s.partOf c) 6 (some (c, ia))

end Sys2Proof.Machine
end

