-- ==== Sys2Proof/Machine/Access.lean ====
section
/-!
DEFINITION. Who reaches what: the authority a host access carries (R342), the refusals recorded, the register file as
32- and 64-bit registers under the access types of R7, and widths and alignment (R10).
-/
namespace Sys2Proof.Machine

/-- The partition whose authority a function carries: `CXL_PFPART`.PART for PF0, n − 1 for VF n where that partition
exists, none otherwise (R342). -/
def State.authority (s : State) (f : Func) : Option Nat :=
  if f.val = 0 then some (s.rd cxlBase F.CXL_PFPART_PART)
  else if s.rdBit prtBase F.PRT_EXIST_EXIST (f.val - 1) then some (f.val - 1) else none

/-- The kinds of a refused access (`CXL_AUTHREJ`.KIND, R360). -/
inductive AccKind where
  | apRead | apWrite | register | memRead | memWrite | doorbell
  deriving DecidableEq, Repr

/-- The code of a kind (R360). -/
def AccKind.code : AccKind → Nat
  | .apRead => 0 | .apWrite => 1 | .register => 2 | .memRead => 3 | .memWrite => 4 | .doorbell => 5

/-- Record and count a refused access that carried the authority `part` (R342, R360). -/
def State.authRejectAs (s : State) (f : Func) (k : AccKind) (addr part : Nat) : State :=
  let s := s.wr cxlBase F.CXL_AUTHREJ_FUNC f.val
  let s := s.wr cxlBase F.CXL_AUTHREJ_KIND k.code
  let s := s.wr cxlBase F.CXL_AUTHREJ_PART part
  let s := s.wr cxlBase F.CXL_AUTHADDR_ADDR addr
  s.sat cxlBase F.CXL_AUTHCNT_COUNT

/-- Record and count a refused access under the function's own authority (R342, R360). -/
def State.authReject (s : State) (f : Func) (k : AccKind) (addr : Nat) : State := s.authRejectAs f k addr ((s.authority f).getD 0x10)

/-- Whether a core's slots answer: the core is enabled by the yield map and its cluster has power (R184, R455). -/
def State.answers (s : State) (c : PCore) : Bool := s.powered c && (s.logicalOf c).isSome

/-- Do `k` when function `f` carries the partition of core `c`; refuse and record the access otherwise (R342). The slots of a disabled core,
and of one without power, discard the write (R184, R455). -/
def State.asCore (s : State) (f : Func) (c : PCore) (kind : AccKind) (addr : Nat) (k : State → State) : State :=
  if !s.hostReady then s
  else if s.authority f = some (s.partOf c) then (if s.answers c then k s else s) else s.authReject f kind addr

/-- Do `k` when the function is PF0, which alone reaches module-level blocks; refuse otherwise (R342). -/
def State.asPF0 (s : State) (f : Func) (addr : Nat) (k : State → State) : State :=
  if !s.hostReady then s
  else if f.val = 0 then k s else s.authReject f .register addr

/-- Apply a write to one field under its access type (R7): `locked` says whether the register's LOCK is set, `v` is the
field's part of the value written. -/
def State.writeField (s : State) (base : Nat) (f : Fld) (locked : Bool) (v i : Nat) : State :=
  match f.acc with
  | .rw => s.wr base f v i
  | .rwl => if locked then s else s.wr base f v i
  | .w1c => s.wr base f ((s.rd base f i) ^^^ ((s.rd base f i) &&& v)) i
  | .w1s => s.wr base f ((s.rd base f i) ||| v) i
  | .ro => s
  | .wo => s
  | .rc => s

/-- Apply a write to instance `i` of a register, field by field; LOCK is tested as it stood before the write. -/
def State.writeReg (s : State) (base : Nat) (r : RegDef) (i v : Nat) : State :=
  let locked := match r.lock with
    | some l => s.on base l (if l.step = 0 then 0 else i)
    | none => false
  r.flds.foldl (fun s f => s.writeField base f locked (bits v f.lo f.w) i) s

/-- The value a register's instance reads as (R7, R9): WO fields and reserved bits read as zero. -/
def State.readReg (s : State) (base : Nat) (r : RegDef) (i : Nat) : Nat :=
  r.flds.foldl (fun v f => match f.acc with
    | .wo => v
    | _ => v + s.rd base f i * 2 ^ f.lo) 0

/-- A read clears the RC fields of a register to their reset values in the same access (R7). -/
def State.clearRC (s : State) (base : Nat) (r : RegDef) (i : Nat) : State :=
  r.flds.foldl (fun s f => if f.acc = .rc then s.wr base f f.rst i else s) s

/-- The register of a page at byte offset `off`, and its instance. -/
def regAt (page : List RegDef) (off : Nat) : Option (RegDef × Nat) :=
  page.findSome? fun r =>
    if off < r.off then none
    else if r.stride = 0 then (if off = r.off then some (r, 0) else none)
    else if (off - r.off) % r.stride = 0 ∧ (off - r.off) / r.stride < r.count then some (r, (off - r.off) / r.stride) else none

/-- Whether an access of `n` bytes at `addr` is one naturally aligned access of a register's full width: 8 bytes always
is, 4 bytes only of a 32-bit register (R10). -/
def widthOk (r : RegDef) (addr n : Nat) : Bool :=
  (decide (n = 8) && decide (addr % 8 = 0)) || (decide (n = 4) && decide (addr % 8 = 0) && decide (r.width = 32))

end Sys2Proof.Machine
end

