-- ==== Sys2Proof/Machine/Flags.lean ====
section
/-!
DEFINITION. The condition state: what CMP and CMPI set (R151) and how a predicate reads it (R129).
-/
namespace Sys2Proof.Machine

/-- Z: the operands are equal; S: the first is less as a signed integer; U: the first is less as an unsigned integer (R151). -/
def cmpFlags (a b : Word64) : Bool × Bool × Bool := (a == b, a.slt b, a.ult b)

/-- Set the condition state of a core from a comparison (R151). -/
def State.setCond (s : State) (c : PCore) (a b : Word64) : State :=
  let f := cmpFlags a b
  s.onCore c fun r => { r with condZ := f.1, condS := f.2.1, condU := f.2.2 }

/-- Whether an instruction's predicate holds on a core (R129). -/
def State.predOk (s : State) (c : PCore) (w : IWord) : Bool :=
  let r := s.core c
  predHolds (predOf w) r.condZ r.condS r.condU

end Sys2Proof.Machine
end

