-- ==== Sys2Proof/Machine/Sequencer.lean ====
section
/-!
DEFINITION. The sequencer: executing a class-0 instruction (R130, R131, R147, R150 to R154), QWAIT, SWAPI, END, and the
host's GO, STOP, RESUME and FLAGSIG (R123, R126, R127, R132, R134, R137, R476). The instruction executed is the word that
stands at the program counter; a command whose condition does not hold leaves the state as it is (log entry 2).
-/
namespace Sys2Proof.Machine

/-- Go to the next instruction after `cost` cycles; past index 8,191 there is none (R132). -/
def State.advance (s : State) (c : PCore) (cost : Nat) : State :=
  let s := s.wr (coreBase c) F.SEQ_STATUS_BLOCK 0
  let past := decide (s.pc c = 8191)
  let s := if past then s else s.wr (coreBase c) F.SEQ_STATUS_PC (s.pc c + 1)
  s.onCore c fun r => { r with readyAt := s.cycle + cost, pastEnd := r.pastEnd || past }

/-- Continue at index `t` of the active bank after `cost` cycles. -/
def State.jump (s : State) (c : PCore) (t cost : Nat) : State :=
  let s := s.wr (coreBase c) F.SEQ_STATUS_BLOCK 0
  let s := s.wr (coreBase c) F.SEQ_STATUS_PC t
  s.onCore c fun r => { r with readyAt := s.cycle + cost }

/-- Whether the sequencer may take the instruction at its program counter: it runs, the previous instruction's cycles
have passed, and it is not blocked in an instruction that has begun (R123, R130). -/
def State.seqReady (s : State) (c : PCore) : Bool :=
  let b := s.rd (coreBase c) F.SEQ_STATUS_BLOCK
  decide (s.seqState c = 1) && (decide (b = 0) || decide (b = 3) || decide (b = 5)) &&
    decide ((s.core c).readyAt ≤ s.cycle) && !(s.core c).pastEnd && !s.inReset c

/-- Count a fetched instruction (R145). -/
def State.countFetch (s : State) (c : PCore) : State := s.count (coreBase c) F.SEQ_FETCH_COUNT

/-- The class-0 opcodes that write RD (R150). -/
def writesRd (op : Nat) : Bool :=
  (1 ≤ op && op ≤ 0x0B) || op == 0x0F || op == 0x11 || op == 0x13 || op == 0x14

/-- Execute the class-0 instruction at the program counter when its opcode is `op`: the checks at fetch, the predicate,
the register hold, then `run` on the word (R129, R131, R147). One that `held` keeps from the full queues is not fetched yet (R130). -/
def State.execSeq (s : State) (c : PCore) (op : Nat) (run : State → IWord → State) (held : IWord → Bool := fun _ => false) : State :=
  let w := s.fetch c
  if !s.seqReady c || decide (opcodeOf w ≠ op) || decide (classOf w ≠ 0) then s
  else
    let reason := fetchCheck w
    if reason ≠ 0 then ((s.countFetch c).advance c 1).skip c 0 w (s.iaddr c) reason
    else if !s.predOk c w then (s.countFetch c).advance c 1
    else if writesRd op && regHeld (s.core c) (rdOf w) then s.wr (coreBase c) F.SEQ_STATUS_BLOCK 5
    else if held w then s.wr (coreBase c) F.SEQ_STATUS_BLOCK 3
    else run (s.countFetch c) w

/-- A scalar instruction that writes RD in `cost` cycles. -/
def State.writeRd (s : State) (c : PCore) (w : IWord) (v : Word64) (cost : Nat) : State :=
  (s.setX c (rdOf w) v).advance c cost

/-- The operands RS1 and RS2. -/
def State.rs1 (s : State) (c : PCore) (w : IWord) : Word64 := s.x c (rs1Of w)
def State.rs2 (s : State) (c : PCore) (w : IWord) : Word64 := s.x c (rs2Of w)

/-- NOP. -/
def execNop (c : PCore) (s : State) : Host.Outcome State Fault Refusal :=
  .next (s.execSeq c 0x00 fun s _ => s.advance c 1)
/-- ADD. -/
def execAdd (c : PCore) (s : State) : Host.Outcome State Fault Refusal :=
  .next (s.execSeq c 0x01 fun s w => s.writeRd c w (s.rs1 c w + s.rs2 c w) 1)
/-- SUB. -/
def execSub (c : PCore) (s : State) : Host.Outcome State Fault Refusal :=
  .next (s.execSeq c 0x02 fun s w => s.writeRd c w (s.rs1 c w - s.rs2 c w) 1)
/-- AND. -/
def execAnd (c : PCore) (s : State) : Host.Outcome State Fault Refusal :=
  .next (s.execSeq c 0x03 fun s w => s.writeRd c w (s.rs1 c w &&& s.rs2 c w) 1)
/-- OR. -/
def execOr (c : PCore) (s : State) : Host.Outcome State Fault Refusal :=
  .next (s.execSeq c 0x04 fun s w => s.writeRd c w (s.rs1 c w ||| s.rs2 c w) 1)
/-- XOR. -/
def execXor (c : PCore) (s : State) : Host.Outcome State Fault Refusal :=
  .next (s.execSeq c 0x05 fun s w => s.writeRd c w (s.rs1 c w ^^^ s.rs2 c w) 1)

/-- A shift amount: RS2[5:0]. -/
def State.shamt (s : State) (c : PCore) (w : IWord) : Nat := (s.rs2 c w).toNat % 64

/-- SHL. -/
def execShl (c : PCore) (s : State) : Host.Outcome State Fault Refusal :=
  .next (s.execSeq c 0x06 fun s w => s.writeRd c w (s.rs1 c w <<< s.shamt c w) 1)
/-- SHR: zero fill. -/
def execShr (c : PCore) (s : State) : Host.Outcome State Fault Refusal :=
  .next (s.execSeq c 0x07 fun s w => s.writeRd c w (s.rs1 c w >>> s.shamt c w) 1)
/-- SRA: sign fill. -/
def execSra (c : PCore) (s : State) : Host.Outcome State Fault Refusal :=
  .next (s.execSeq c 0x08 fun s w => s.writeRd c w ((s.rs1 c w).sshiftRight (s.shamt c w)) 1)
/-- MUL: the low 64 bits, in 3 cycles. -/
def execMul (c : PCore) (s : State) : Host.Outcome State Fault Refusal :=
  .next (s.execSeq c 0x09 fun s w => s.writeRd c w (s.rs1 c w * s.rs2 c w) 3)
/-- ADDI. -/
def execAddi (c : PCore) (s : State) : Host.Outcome State Fault Refusal :=
  .next (s.execSeq c 0x0A fun s w => s.writeRd c w (s.rs1 c w + immOf w) 1)
/-- LI. -/
def execLi (c : PCore) (s : State) : Host.Outcome State Fault Refusal :=
  .next (s.execSeq c 0x0B fun s w => s.writeRd c w (immOf w) 1)
/-- CMP (R151). -/
def execCmp (c : PCore) (s : State) : Host.Outcome State Fault Refusal :=
  .next (s.execSeq c 0x0C fun s w => (s.setCond c (s.rs1 c w) (s.rs2 c w)).advance c 1)
/-- CMPI (R151). -/
def execCmpi (c : PCore) (s : State) : Host.Outcome State Fault Refusal :=
  .next (s.execSeq c 0x0D fun s w => (s.setCond c (s.rs1 c w) (immOf w)).advance c 1)
/-- BR: a target above 8,191 has been skipped at fetch with reason 0x0F. -/
def execBr (c : PCore) (s : State) : Host.Outcome State Fault Refusal :=
  .next (s.execSeq c 0x0E fun s w => s.jump c (immOf w).toNat 3)
/-- JAL: RD takes the index of the next instruction, 8,192 at index 8,191. -/
def execJal (c : PCore) (s : State) : Host.Outcome State Fault Refusal :=
  .next (s.execSeq c 0x0F fun s w => (s.setX c (rdOf w) (BitVec.ofNat 64 (s.pc c + 1))).jump c (immOf w).toNat 3)
/-- JR: a target above 8,191 is skipped with reason 0x0F. -/
def execJr (c : PCore) (s : State) : Host.Outcome State Fault Refusal :=
  .next (s.execSeq c 0x10 fun s w =>
    let t := (s.rs1 c w).toNat
    if t > 8191 then (s.advance c 1).skip c 0 w (s.iaddr c) 0x0F else s.jump c t 3)

/-- Whether an 8-byte scratchpad access is aligned and within range (R148, R152). -/
def dwordOk (a : Nat) : Bool := decide (a % 8 = 0) && spadFits a 8

/-- LD: 8 B of the scratchpad, in 6 cycles; marked data is consumed and aborts the task with cause 6 (R152, R177, R384). -/
def execLd (c : PCore) (s : State) : Host.Outcome State Fault Refusal :=
  .next (s.execSeq c 0x11 fun s w =>
    let a := (s.rs1 c w + immOf w).toNat
    if !dwordOk a then (s.advance c 1).skip c 0 w (s.iaddr c) 0x13
    else
      let s := s.spadMeet c a 8
      if s.spadPoisoned c a 8 then s.consumeFault c 0x4 c.val (a / 64 * 64) (s.iaddr c)
      else s.writeRd c w (BitVec.ofNat 64 (s.spadLE c a 8)) 6)
/-- ST (R152). -/
def execSt (c : PCore) (s : State) : Host.Outcome State Fault Refusal :=
  .next (s.execSeq c 0x12 fun s w =>
    let a := (s.rs1 c w + immOf w).toNat
    if !dwordOk a then (s.advance c 1).skip c 0 w (s.iaddr c) 0x13
    else (s.spadWrite c a (leBytes 8 (s.rs2 c w).toNat)).advance c 1)

/-- The value of `SEQ_QDEPTH`: the entries each queue holds, 8 bits apart (R134, R145). -/
def State.qdepth (s : State) (c : PCore) : Nat :=
  (List.finRange 8).foldl (fun v q => v + (s.queue c q).length * 2 ^ (8 * q.val)) 0

/-- The value RDSYS returns for selector 0-7 (R153). -/
def State.sysValue (s : State) (c : PCore) (sel : Nat) : Nat :=
  match sel with
  | 0 => (s.logicalOf c).getD 0
  | 1 => c.val
  | 2 => s.partOf c
  | 3 => s.rd brdmBase F.BRD_MODID_ID
  | 4 => s.cycle - (s.core c).goCycle
  | 5 => s.qdepth c
  | 6 => s.powerClass
  | _ => 0xA0

/-- RDSYS (R153). -/
def execRdsys (c : PCore) (s : State) : Host.Outcome State Fault Refusal :=
  .next (s.execSeq c 0x13 fun s w => s.writeRd c w (BitVec.ofNat 64 (s.sysValue c (immOf w).toNat)) 1)
/-- RDFLAG: a flag above 63 is skipped with reason 0x13. -/
def execRdflag (c : PCore) (s : State) : Host.Outcome State Fault Refusal :=
  .next (s.execSeq c 0x14 fun s w =>
    let f := (immOf w).toNat
    if f > 63 then (s.advance c 1).skip c 0 w (s.iaddr c) 0x13
    else s.writeRd c w (BitVec.ofNat 64 (s.flag c f)) 1)

/-- The length of queue `q` of a core. -/
def State.qlen (s : State) (c : PCore) (q : Nat) : Nat := if h : q < 8 then (s.queue c ⟨q, h⟩).length else 0

/-- QWAIT: continues when queue q holds n or fewer entries, and blocks otherwise (R134). -/
def execQwait (c : PCore) (s : State) : Host.Outcome State Fault Refusal :=
  .next (s.execSeq c 0x15 fun s w =>
    if s.qlen c (rdOf w) ≤ (immOf w).toNat then s.advance c 1 else s.wr (coreBase c) F.SEQ_STATUS_BLOCK 2)
/-- QWAIT_SATISFIED: a blocked QWAIT finds its queue at or below n (R134). -/
def execQwaitSatisfied (c : PCore) (s : State) : Host.Outcome State Fault Refusal :=
  let w := s.fetch c
  .next (if s.seqState c = 1 ∧ s.rd (coreBase c) F.SEQ_STATUS_BLOCK = 2 ∧ s.qlen c (rdOf w) ≤ (immOf w).toNat then s.advance c 1
    else s)

/-- Whether all eight queues are empty. -/
def State.queuesEmpty (s : State) (c : PCore) : Bool := (s.core c).queues.toList.all List.isEmpty

/-- SWAPI begins its wait for the eight queues to empty (R126). -/
def execSwapi (c : PCore) (s : State) : Host.Outcome State Fault Refusal :=
  .next (s.execSeq c 0x16 fun s _ => s.wr (coreBase c) F.SEQ_STATUS_BLOCK 4)
/-- SWAPI_SWAP: the queues are empty; the active bank is inverted and the program counter set to the target (R126). -/
def execSwapiSwap (c : PCore) (s : State) : Host.Outcome State Fault Refusal :=
  .next (if s.seqState c = 1 ∧ s.rd (coreBase c) F.SEQ_STATUS_BLOCK = 4 ∧ s.queuesEmpty c then
      (s.wr (coreBase c) F.SEQ_STATUS_ACTIVE_BANK (s.bank c + 1)).jump c (immOf (s.fetch c)).toNat 1
    else s)

/-- Requests at the picots, or their responses, that a core's units sent. -/
def State.memBusy (s : State) (c : PCore) : Bool :=
  let mine : MemSrc → Bool := fun
    | .bobbin k _ _ => k = c.val
    | .drain k _ => k = c.val
    | .work k _ _ => k = c.val
    | _ => false
  !s.noRequest (fun r => mine r.src) || s.memResps.toList.any fun l => l.any fun r => mine r.dst

/-- Whether every operation a core has issued is complete: folds, drains with their results and updates, transfers,
picot operations, network sends and remote writes (R136, R154). -/
def State.coreIdle (s : State) (c : PCore) : Bool :=
  let r := s.core c
  r.engines.toList.all (fun e => e.issued.isEmpty) &&
  r.drains.toList.all (fun d => d.queue.isEmpty && d.run.isNone && d.ended.isEmpty && d.outs.isEmpty && decide (d.allOut ≤ s.cycle)) &&
  r.bobs.toList.all (fun b => b.ctxs.isEmpty && b.reqs.isEmpty) &&
  r.netOps.isEmpty && !s.memBusy c && (List.finRange 4).all fun e => !s.opFlying c (drainTag e)

/-- END holds the sequencer (R154). -/
def execEndTask (c : PCore) (s : State) : Host.Outcome State Fault Refusal :=
  .next (s.execSeq c 0x17 fun s _ => s.wr (coreBase c) F.SEQ_STATUS_BLOCK 6)
/-- END_COMPLETE: the waited-for work is complete and the core enters state 3 (R154, R357). -/
def execEndComplete (c : PCore) (s : State) : Host.Outcome State Fault Refusal :=
  .next (if s.seqState c = 1 ∧ s.rd (coreBase c) F.SEQ_STATUS_BLOCK = 6 ∧ s.queuesEmpty c ∧ s.coreIdle c then s.endCore c else s)

/-- FETCH_PAST_BANK_END: the task aborts with cause 6; IADDR holds the address of index 8,191 (R132, R150). -/
def execFetchPastBankEnd (c : PCore) (s : State) : Host.Outcome State Fault Refusal :=
  .next (if s.seqState c = 1 ∧ (s.core c).pastEnd ∧ (s.core c).readyAt ≤ s.cycle then
      s.abortTask (s.partOf c) 6 (some (c, s.bank c * 8192 + 8191))
    else s)

end Sys2Proof.Machine
end

