-- ==== Sys2Proof/Machine/Sync.lean ====
section
/-!
DEFINITION. Synchronisation: WAIT and WAITC (R135, R138, R156), SIGNAL (R136, R137, R155), RELEASE (R157), CUT (R158,
R160), the quiescence detector (R139 to R141), task abort (R144), and the host's GO, STOP, RESUME and FLAGSIG (R123,
R127, R137, R283, R476).
-/
namespace Sys2Proof.Machine

/-- The timeout in force, in core cycles: the operand in units of 256 cycles, `SEQ_WAITLIMIT`.LIMIT for 0, the
partition's WAITDEF for a LIMIT of 0 (R138). -/
def State.waitLimit (s : State) (c : PCore) (timeout : Nat) : Nat :=
  let l := s.rd (coreBase c) F.SEQ_WAITLIMIT_LIMIT
  256 * (if timeout ≠ 0 then timeout else if l ≠ 0 then l else s.rd prtBase F.PRT_P_WAITDEF (s.partOf c))

/-- What a wait looks at: a flag's value or an arrival counter's. -/
def State.waitValue (s : State) (c : PCore) (ctr : Bool) (n : Nat) : Nat := if ctr then s.arrive c n else s.flag c n

/-- Waits in the order in which they reached their heads: by cycle, and within a cycle the sequencer first, then the
queues in order (R135). -/
def insertWaiter (w : Waiter) : List Waiter → List Waiter
  | [] => [w]
  | v :: vs => if w.since < v.since ∨ (w.since = v.since ∧ w.unit < v.unit) then w :: v :: vs else v :: insertWaiter w vs

/-- The waits on the same flag or counter that stand before `w`. -/
def waitsBefore (ws : List Waiter) (w : Waiter) : List Waiter :=
  (ws.takeWhile fun v => v.unit ≠ w.unit).filter fun v => v.ctr = w.ctr && v.num = w.num

/-- Whether a waiter can be granted: no earlier wait on the same flag or counter stands before it, and the value suffices
(R135). -/
def State.grantable (s : State) (c : PCore) (w : Waiter) : Bool :=
  (waitsBefore (s.core c).waiters w).isEmpty && decide (w.need ≤ s.waitValue c w.ctr w.num)

/-! ### Credit (R189) -/

/-- The bytes of credit a source holds in a window's table. -/
def creditOf (t : List (Nat × Nat × Nat)) (m k : Nat) : Nat :=
  match t.find? fun e => e.1 = m && e.2.1 = k with
  | some e => e.2.2
  | none => 0

/-- Set a source's credit; an entry that reaches zero is freed. -/
def setCredit (t : List (Nat × Nat × Nat)) (m k v : Nat) : List (Nat × Nat × Nat) :=
  let t' := t.filter fun e => !(e.1 = m && e.2.1 = k)
  if v = 0 then t' else t' ++ [(m, k, v)]

/-- The credit table of a window. -/
def State.creditTable (s : State) (c : PCore) (w : Nat) : List (Nat × Nat × Nat) :=
  if h : w < 16 then (s.core c).credits[(⟨w, h⟩ : Fin 16)] else []

/-- Set the credit table of a window. -/
def State.setCreditTable (s : State) (c : PCore) (w : Nat) (t : List (Nat × Nat × Nat)) : State :=
  s.onCore c fun r => { r with credits := if h : w < 16 then vupd r.credits ⟨w, h⟩ fun _ => t else r.credits }

/-- Whether the pool and the table admit a request now. -/
def State.creditFits (s : State) (c : PCore) (q : CreditReq) : Bool :=
  let t := s.creditTable c q.win
  decide (q.bytes ≤ s.rd (spdBase c) F.SPD_WIN_B_POOL q.win) &&
    (decide (creditOf t q.srcM q.srcC > 0) || decide (t.length < 8))

/-- Tell the requester of a grant: its flag rises by N; another module is sent a credit grant (R189). -/
def State.tellGrant (s : State) (q : CreditReq) : State :=
  if q.srcM = 0xFFFF then
    match s.physOf q.srcC with
    | some r => if q.inc = 0 then s else s.flagAddExt r q.flag q.inc
    | none => s
  else s.emit (.creditGrant q.srcM q.srcC q.flag q.inc)

/-- Grant a request: the pool falls, the source's entry rises, and the requester is told (CREDIT_GRANT; R189). -/
def State.creditGrant (s : State) (c : PCore) (q : CreditReq) : State :=
  let t := s.creditTable c q.win
  let s := s.wr (spdBase c) F.SPD_WIN_B_POOL (s.rd (spdBase c) F.SPD_WIN_B_POOL q.win - q.bytes) q.win
  let s := s.setCreditTable c q.win (setCredit t q.srcM q.srcC (creditOf t q.srcM q.srcC + q.bytes))
  s.tellGrant q

/-- Go through the credit queue once in arrival order, granting what can be granted; a request never passes an earlier one
for the same window (R189). `held` lists the windows with an earlier request still waiting. -/
def State.creditPass (s : State) (c : PCore) : List CreditReq → List Nat → List CreditReq → State
  | [], _, kept => (s.onCore c fun r => { r with creditQ := kept.reverse }).wr (spdBase c) F.SPD_CREDIT_QDEPTH kept.length
  | q :: qs, held, kept =>
    if !held.contains q.win && s.creditFits c q then (s.creditGrant c q).creditPass c qs held kept
    else s.creditPass c qs (q.win :: held) (q :: kept)

/-- Grant whatever the credit queue's state now admits. -/
def State.creditSweep (s : State) (c : PCore) : State := s.creditPass c (s.core c).creditQ [] []

/-- When a WAITC consumes N from a counter bound to an open window in credit mode, N × 64 B return to its pool (R189). -/
def State.creditReturn (s : State) (c : PCore) (k n : Nat) : State :=
  match s.counterWindow c k with
  | some w =>
    if s.winOpen c w && s.on (spdBase c) F.SPD_WIN_A_CREDIT w then
      let s := s.wr (spdBase c) F.SPD_WIN_B_POOL
        (min (s.rd (spdBase c) F.SPD_WIN_A_LEN w) (s.rd (spdBase c) F.SPD_WIN_B_POOL w + n * 64)) w
      s.creditSweep c
    else s
  | none => s

/-! ### WAIT and WAITC -/

/-- Subtract what a satisfied wait asked for (R135, R156). -/
def State.consume (s : State) (c : PCore) (w : Waiter) : State :=
  if w.ctr then (s.wr (spdBase c) F.SPD_ARRIVE_COUNT (s.arrive c w.num - w.need) w.num).creditReturn c w.num w.need
  else s.setFlag c w.num (s.flag c w.num - w.need)

/-- A satisfied wait leaves its queue's head, or lets the sequencer continue. Unit 0 is the sequencer, 1-8 the queues. -/
def State.leave (s : State) (c : PCore) (unit : Nat) : State :=
  if h : 1 ≤ unit ∧ unit ≤ 8 then s.popQ c ⟨unit - 1, by omega⟩ else s.advance c 1

/-- A wait reaches its head: it is satisfied at once, or joins the waits of the core. -/
def State.reachWait (s : State) (c : PCore) (w : Waiter) : State :=
  let s := s.onCore c fun r => { r with waiters := insertWaiter w r.waiters }
  if s.grantable c w && decide (s.cycle < w.since + w.limit) then
    let s := s.onCore c fun r => { r with waiters := r.waiters.filter fun v => v.unit ≠ w.unit }
    (s.consume c w).leave c w.unit
  else if w.unit = 0 then s.wr (coreBase c) F.SEQ_STATUS_BLOCK 1 else s

/-- The wait an instruction word asks for, as unit `unit` that reached its head in cycle `h`. -/
def State.waiterOf (s : State) (c : PCore) (unit : Nat) (w : IWord) (ia h : Nat) : Waiter :=
  if opcodeOf w = 0x21 then ⟨unit, true, fieldOf w 107 5, fieldOf w 91 16, h, s.waitLimit c (fieldOf w 71 20), ia⟩
  else ⟨unit, false, fieldOf w 106 6, fieldOf w 90 16, h, s.waitLimit c (fieldOf w 70 20), ia⟩

/-- Take a Y-family instruction at unit `who` of a core (0 the sequencer, 1-8 the queues) when its opcode is `op`: the
sequencer's word at the program counter, or the head of a queue that is not already waiting. -/
def State.execSync (s : State) (c : PCore) (who : Fin 9) (op : Nat) (run : State → IWord → Nat → Nat → State) : State :=
  if hq : who.val = 0 then s.execSeq c op fun s w => run s w (s.iaddr c) s.cycle
  else
    let q : Queue := ⟨who.val - 1, by omega⟩
    match s.headInstr c q with
    | some (w, ia) =>
      if opcodeOf w = op ∧ !((s.core c).waiters.any fun v => v.unit = who.val) then run s w ia ((s.core c).headAt[q]) else s
    | none => s

/-- WAIT reaches its head (R135, R138). -/
def execWait (c : PCore) (who : Fin 9) (s : State) : Host.Outcome State Fault Refusal :=
  .next (s.execSync c who 0x20 fun s w ia h => s.reachWait c (s.waiterOf c who.val w ia h))

/-- Skip a Y-family instruction at its unit (R142, R147). -/
def State.skipAt (s : State) (c : PCore) (who : Fin 9) (w : IWord) (ia reason : Nat) : State :=
  (s.leave c who.val).skip c who.val w ia reason

/-- WAITC reaches its head: on a counter bound to no open window it is skipped with reason 0x15 (R156). -/
def execWaitc (c : PCore) (who : Fin 9) (s : State) : Host.Outcome State Fault Refusal :=
  .next (s.execSync c who 0x21 fun s w ia h =>
    match s.counterWindow c (fieldOf w 107 5) with
    | some k => if s.winOpen c k then s.reachWait c (s.waiterOf c who.val w ia h) else s.skipAt c who w ia 0x15
    | none => s.skipAt c who w ia 0x15)

/-- The waiter of a unit. -/
def State.waiterAt (s : State) (c : PCore) (who : Fin 9) : Option Waiter :=
  (s.core c).waiters.find? fun v => v.unit = who.val

/-- WAIT_SATISFIED: a wait finds its flag or counter at least N within its time, subtracts N and leaves (R135, R138). -/
def execWaitSatisfied (c : PCore) (who : Fin 9) (s : State) : Host.Outcome State Fault Refusal :=
  .next (match s.waiterAt c who with
    | some w =>
      if s.seqState c = 1 ∧ s.grantable c w ∧ s.cycle < w.since + w.limit then
        let s := s.onCore c fun r => { r with waiters := r.waiters.filter fun v => v.unit ≠ who.val }
        (s.consume c w).leave c who.val
      else s
    | none => s)

/-! ### The quiescence detector (R139, R140) -/

/-- Whether a waiter makes its core not quiescent: a flag in `SEQ_FLAGEXT`, or a counter whose window admits writes from
other modules (R139, R156). -/
def State.waitsOutside (s : State) (c : PCore) (w : Waiter) : Bool :=
  if w.ctr then
    match s.counterWindow c w.num with
    | some k => s.on (spdBase c) F.SPD_WIN_A_EXT k
    | none => false
  else s.rdBit (coreBase c) F.SEQ_FLAGEXT_MASK w.num

/-- Slots of a ring that are neither reserved nor filled (R240). -/
def State.ringRoom (s : State) (c : PCore) (r : Nat) : Bool :=
  let b := bobcBase c
  decide ((s.rd b F.BOB_RING_PTR_TAIL r + s.rd b F.BOB_RING_PTR_RSV r + 65536 - s.rd b F.BOB_RING_PTR_HEAD r) % 65536 <
    s.rd b F.BOB_RING_CFG_NSLOTS r)

/-- Whether a bobbin's queue waits for a ring that has no room (R241). -/
def State.ringBlocked (s : State) (c : PCore) (b : Bob) : Bool := (s.core c).bobs[b].ringWait.any fun r => !s.ringRoom c r

/-- Whether a queue is empty or has an unsatisfied wait, a waiting cut marker or an unsatisfied ring wait at its head (R139, R160, R241). -/
def State.queueQuiet (s : State) (c : PCore) (q : Queue) : Bool :=
  match s.queue c q with
  | [] => true
  | .marker .. :: _ => true
  | .instr .. :: _ =>
    (match (s.core c).waiters.find? fun v => v.unit = q.val + 1 with
      | some w => !s.grantable c w
      | none => false) ||
    (decide (q.val = 4) && s.ringBlocked c 0) || (decide (q.val = 5) && s.ringBlocked c 1)

/-- Whether the sequencer's instruction is still blocked as `SEQ_STATUS`.BLOCK says, what it waits for not having come (R139). -/
def State.seqBlocked (s : State) (c : PCore) : Bool :=
  let w := s.fetch c
  let full (q : List QItem) : Bool := decide (q.length ≥ 64)
  match s.rd (coreBase c) F.SEQ_STATUS_BLOCK with
  | 1 => match (s.core c).waiters.find? fun v => v.unit = 0 with
    | some w => !s.grantable c w
    | none => false
  | 2 => decide (s.qlen c (rdOf w) > (immOf w).toNat)
  | 3 => if classOf w = 0 then (s.core c).queues.toList.any full else decide (s.qlen c (classOf w - 1) ≥ 64)
  | 4 => !s.queuesEmpty c
  | 5 => regHeld (s.core c) (rdOf w)
  | 6 => !(s.queuesEmpty c && s.coreIdle c)
  | _ => false

/-- Whether a core of the task is quiescent in this cycle (R139). -/
def State.quiescent (s : State) (c : PCore) : Bool :=
  let st := s.seqState c
  let seqOk := decide (st = 3) || (decide (st = 1) && s.seqBlocked c)
  seqOk && (List.finRange 8).all (fun q => s.queueQuiet c q) && !(s.core c).waiters.any fun w => s.waitsOutside c w

/-- Whether an operation of a core of the partition is in flight; a quarantined engine counts as having one (R140, R389). -/
def State.coreInFlight (s : State) (c : PCore) : Bool :=
  !s.coreIdle c || (List.finRange 4).any fun e => decide (s.rd (opeBase c e) F.OPE_STATUS_STATE = 5)

/-- Whether a stream's flit or a credit message of the partition is on its way (R140). -/
def State.netInFlight (s : State) (p : Nat) : Bool :=
  s.net.flits.any (fun x => x.part = p) || s.net.late.any (fun x => x.2.part = p) || s.net.dst.any (fun x => x.part = p) ||
    s.net.merges.any (fun m => decide (m.part = p) && !(m.qa.isEmpty && m.qb.isEmpty)) ||
    s.net.src.any (fun x => if h : x.core < 64 then decide (s.partOf ⟨x.core, h⟩ = p) else false) ||
    s.creditMs.any fun m => s.partOf m.1 = p

/-- The conditions of R140 in this cycle: a task all of whose cores are in state 1 or 3 and quiescent, with an unsatisfied
wait, and no operation in flight. -/
def State.deadlockCond (s : State) (p : Nat) : Bool :=
  let cs := s.taskCores p
  !cs.isEmpty && cs.all (fun c => decide (s.seqState c ≠ 2) && s.quiescent c && !s.coreInFlight c) &&
    cs.any (fun c => decide (s.seqState c = 1) && (!(s.core c).waiters.isEmpty || (s.core c).bobs.toList.any (fun b => b.ringWait.isSome) ||
      (s.core c).queues.toList.any fun q => match q with
        | .marker .. :: _ => true
        | _ => false)) &&
    !s.sigs.any (fun m => m.part = p) && !s.netInFlight p

/-- Whether DEADLOCK has been declared for a partition and its abort has not begun (R140, R141). -/
def State.deadlocked (s : State) (p : Nat) : Bool :=
  if h : p < 16 then s.parts[(⟨p, h⟩ : Part)].declared.any fun t => decide (t ≤ s.cycle) else false

/-- DEADLOCK_DECLARE: the cycle after 4,096 quiescent cycles has come; the task of the partition aborts with cause 2, whatever increments have
arrived since (R140, R141). -/
def execDeadlockDeclare (p : Part) (s : State) : Host.Outcome State Fault Refusal :=
  .next (if s.deadlocked p.val then s.abortTask p.val 2 none else s)

/-- The start of a ring wait, which is a WAIT with TIMEOUT 0 (R241), and its limit. -/
def State.ringWaitOver (s : State) (c : PCore) (b : Bob) : Bool :=
  (s.core c).bobs[b].ringWait.isSome &&
    decide ((s.core c).headAt[(⟨4 + b.val, by omega⟩ : Queue)] + s.waitLimit c 0 ≤ s.cycle)

/-- The wait of a unit whose time runs: one that has joined the waits of its core, or a WAIT or WAITC at the head of a queue that has not, as one
that reaches its head while the core is halted (R138, R476). -/
def State.waitAt (s : State) (c : PCore) (who : Fin 9) : Option Waiter :=
  (s.waiterAt c who).orElse fun _ =>
    if hq : who.val = 0 then none
    else
      let q : Queue := ⟨who.val - 1, by omega⟩
      match s.queue c q with
      | .instr w ia :: _ =>
        let bound := match s.counterWindow c (fieldOf w 107 5) with
          | some k => s.winOpen c k
          | none => false
        if opcodeOf w = 0x20 ∨ (opcodeOf w = 0x21 ∧ bound = true) then some (s.waiterOf c who.val w ia ((s.core c).headAt[q])) else none
      | _ => none

/-- WAIT_TIMEOUT: an unsatisfied wait's time is over and the task aborts with cause 1, or 2 where DEADLOCK has been declared; a queue's wait
runs on while its core is halted (R138, R141, R241). -/
def execWaitTimeout (c : PCore) (who : Fin 9) (s : State) : Host.Outcome State Fault Refusal :=
  let p := s.partOf c
  let cause := if s.deadlocked p then 2 else 1
  let live := decide (s.seqState c = 1) || decide (s.seqState c = 2)
  let ring := (decide (who.val = 5) && s.ringWaitOver c 0) || (decide (who.val = 6) && s.ringWaitOver c 1)
  .next (match s.waitAt c who with
    | some w => if live && decide (w.since + w.limit ≤ s.cycle) then s.abortTask p cause none else s
    | none => if live && ring then s.abortTask p cause none else s)

/-- TASK_ABORT: a contained error that another unit reports (cause 6), or the host's abort (cause 7), aborts the task of a
partition (R144, R145). -/
def execTaskAbort (p : Part) (host : Bool) (s : State) : Host.Outcome State Fault Refusal :=
  .next (s.abortTask p.val (if host then 7 else 6) none)

/-! ### SIGNAL, RELEASE, CUT -/

/-- Whether every write a queue has issued is visible (O-release, R136): an engine queue's drains have written everything, the flits of
their rows at the far end too; a bobbin queue's transfers are complete, the network queue's sends have landed; the sequencer's stores and the vector
unit's results are visible at once. -/
def State.queueSettled (s : State) (c : PCore) (who : Fin 9) : Bool :=
  let r := s.core c
  if h : 1 ≤ who.val ∧ who.val ≤ 4 then
    let e : Eng := ⟨who.val - 1, by omega⟩
    r.drains[e].queue.isEmpty && r.drains[e].run.isNone && r.drains[e].ended.isEmpty && r.drains[e].outs.isEmpty && decide (r.drains[e].allOut ≤ s.cycle) && r.engines[e].issued.isEmpty &&
      !s.opFlying c (drainTag e) && s.noRequest fun q => decide (q.src = .drain c.val e.val)
  else if h : who.val = 5 ∨ who.val = 6 then
    let b : Bob := ⟨who.val - 5, by omega⟩
    r.bobs[b].ctxs.isEmpty && r.bobs[b].reqs.isEmpty
  else if who.val = 8 then r.netOps.isEmpty
  else true

/-- SIGNAL: once the queue's earlier writes are visible, adds n to a flag of this core, or sends it to another core of the
partition; a target outside is skipped with reason 0x12 (R136, R155). -/
def execSignal (c : PCore) (who : Fin 9) (s : State) : Host.Outcome State Fault Refusal :=
  .next (if !s.queueSettled c who then s
    else s.execSync c who 0x22 fun s w ia _ =>
      let f := fieldOf w 106 6
      let n := fieldOf w 90 16
      if fieldOf w 89 1 = 0 then (s.leave c who.val).flagAdd c f n (some ia)
      else
        match s.physOf (fieldOf w 83 6) with
        | none => s.skipAt c who w ia 0x12
        | some t =>
          if s.partOf t ≠ s.partOf c then s.skipAt c who w ia 0x12
          else if t = c then (s.leave c who.val).flagAdd c f n (some ia)
          else
            let s := s.leave c who.val
            { s with sigs := s.sigs ++ [⟨c, t, f, n, s.partOf c⟩] })

/-- Whether a remote SIGNAL travels now (R18, R219). -/
def State.sigFlows (s : State) (m : SigMsg) : Bool := s.flows m.part (dieOf m.src).val (dieOf m.core).val

/-- REMOTE_SIGNAL_ARRIVAL: the `i`-th remote SIGNAL on its way reaches its target, which applies or absorbs it (R137). -/
def execRemoteSignalArrival (i : Nat) (s : State) : Host.Outcome State Fault Refusal :=
  .next (match s.sigs[i]? with
    | some m => if !s.sigFlows m then s else ({ s with sigs := s.sigs.eraseIdx i }).flagAddExt m.core m.flag m.inc
    | none => s)

/-- The pieces of a list of places after its first `n` bytes. -/
def dropPieces : List (Place × Nat) → Nat → List (Place × Nat)
  | [], _ => []
  | p :: ps, n => if n < p.2 then p :: ps else dropPieces ps (n - p.2)

/-- The places a request reads, in order, with their lengths (log entry 31). -/
def BobReq.pieces (q : BobReq) : List (Place × Nat) := (q.src, q.len - (q.more.map Prod.snd).sum) :: q.more

/-- The places a request has not read whole yet. -/
def BobReq.unread (q : BobReq) : List (Place × Nat) := if q.data.isSome then [] else dropPieces q.pieces q.got.length

/-- Whether a place is a scratchpad. -/
def Place.isSpad (p : Place) : Bool :=
  match p with
  | .spad _ | .remSpad .. => true
  | _ => false

/-- Whether every scratchpad read a queue issued before its head is complete (R157): an engine queue's passes have
accepted their last operand, and with REPLAY set have been declared clean; a bobbin's transfers have issued every read, and none waits for
another core's scratchpad; the network port has read every line. -/
def State.readsDone (s : State) (c : PCore) (who : Fin 9) : Bool :=
  let r := s.core c
  if h : 1 ≤ who.val ∧ who.val ≤ 4 then
    let e : Eng := ⟨who.val - 1, by omega⟩
    let replay := s.on (opeBase c e) F.OPE_CTRL_REPLAY
    r.engines[e].issued.all fun p => decide (p.last < s.cycle) && (!replay || (decide (p.last + 32 < s.cycle) && !p.injected))
  else if h : who.val = 5 ∨ who.val = 6 then
    let b := r.bobs[(⟨who.val - 5, by omega⟩ : Bob)]
    b.ctxs.all (·.allSent) && b.reqs.all fun q => q.done || !q.unread.any fun p => p.1.isSpad
  else if who.val = 8 then r.netOps.all fun o => o.formed = o.total
  else true

/-- RELEASE: advances the head of a slot ring by N; skipped with reason 0x14 where the ring is not configured or N exceeds
the filled slots (R157, R240). -/
def execRelease (c : PCore) (who : Fin 9) (s : State) : Host.Outcome State Fault Refusal :=
  .next (if !s.readsDone c who then s
    else s.execSync c who 0x23 fun s w ia _ =>
      let r := fieldOf w 108 4
      let n := fieldOf w 103 5
      let b := bobcBase c
      let filled := (s.rd b F.BOB_RING_PTR_TAIL r + 65536 - s.rd b F.BOB_RING_PTR_HEAD r) % 65536
      if !s.on b F.BOB_RING_CFG_ENABLE r ∨ n > filled then s.skipAt c who w ia 0x14
      else (s.leave c who.val).count b F.BOB_RING_PTR_HEAD n r)

/-- CUT: an EPOCH other than the partition's next is skipped with reason 0x16; otherwise, once every queue has room, a
marker is appended to each (R158, R403). -/
def execCut (c : PCore) (s : State) : Host.Outcome State Fault Refusal :=
  let next (w : IWord) : Bool := decide (fieldOf w 96 16 = s.rd mirBase F.MIR_EPOCH_NEXT (s.partOf c) % 65536)
  .next (s.execSeq c 0x24 (held := fun w => next w && (s.core c).queues.toList.any fun q => decide (q.length ≥ 64)) fun s w =>
    if !next w then (s.advance c 1).skip c 0 w (s.iaddr c) 0x16
    else
      let ep := fieldOf w 96 16
      let ia := s.iaddr c
      let s := (List.finRange 8).foldl (fun s q => s.pushQ c q (.marker ep ia)) s
      let s := if h : s.partOf c < 16 then
          { s with mir := vupd s.mir ⟨s.partOf c, h⟩ fun m => { m with cutStart := m.cutStart.orElse fun _ => some s.us } }
        else s
      (s.onCore c fun r => { r with lastCut := ia }).advance c 1)

/-- CUT_TIMEOUT: a cut marker has waited at the head of its queue for the wait limit of a TIMEOUT of 0; the task aborts with
cause 1, or 2 where DEADLOCK has been declared (R141, R160). -/
def execCutTimeout (c : PCore) (q : Queue) (s : State) : Host.Outcome State Fault Refusal :=
  .next (match s.queue c q with
    | .marker .. :: _ =>
      if (s.seqState c = 1 ∨ s.seqState c = 2) ∧ (s.core c).headAt[q] + s.waitLimit c 0 ≤ s.cycle then
        s.abortTask (s.partOf c) (if s.deadlocked (s.partOf c) then 2 else 1) none
      else s
    | _ => s)

/-! ### The host's control of a sequencer -/

/-- GO: in states 0, 2 and 3 fetching starts at `SEQ_START`, the core takes its partition's seed, and the memory map is
locked from then on; in any other state, and in a core reset, it is discarded (R123, R248, R283). -/
def State.go (s : State) (c : PCore) : State :=
  let st := s.seqState c
  if s.inReset c ∨ (s.core c).fillEnd.isSome ∨ ¬ (st = 0 ∨ st = 2 ∨ st = 3) then s
  else
    let b := coreBase c
    let s := s.wr b F.SEQ_STATUS_PC (s.rd b F.SEQ_START_PC)
    let s := s.wr b F.SEQ_STATUS_ACTIVE_BANK (s.rd b F.SEQ_START_BANK)
    let s := (s.wr b F.SEQ_STATUS_STATE 1).wr b F.SEQ_STATUS_BLOCK 0
    let s := s.wr b F.SEQ_RNGSEED_SEED (s.rd mmemBase F.MSE_SEED_SEED (s.partOf c))
    let s := s.onCore c fun r => { r with goCycle := s.cycle, readyAt := s.cycle + 1, pastEnd := false }
    { s with mapLock := true }

/-- Whether a self-test of a core's scratchpad, accumulators or instruction memory has begun and has not ended (R25, R387). -/
def State.underTest (s : State) (c : PCore) : Bool :=
  s.quar.any fun q => q.started.isSome && ((decide (q.unit = 0x2) && decide (q.unitId / 4 = c.val)) ||
    ((decide (q.unit = 0x4) || decide (q.unit = 0x5)) && decide (q.unitId = c.val)))

/-- The host's GO of one core waits while such a test runs (R25). -/
def State.hostGo (s : State) (c : PCore) : State :=
  if s.underTest c then (if s.held.contains (.go c) then s else { s with held := s.held ++ [.go c] }) else s.go c

/-- SEQ_GO: a write of GO (R123). -/
def execSeqGo (f : Func) (c : PCore) (s : State) : Host.Outcome State Fault Refusal :=
  .next (s.asCore f c .register (coreBase c) fun s => s.hostGo c)

/-- STOP: the running sequencer halts; a class-0 instruction blocked or held is abandoned without effect (R476). In states 0, 3 and 5, for
which the rule says nothing, and in 2 and 4, STOP changes nothing (log entry 91). -/
def State.stop (s : State) (c : PCore) : State :=
  if s.seqState c ≠ 1 then s
  else
    let s := (s.wr (coreBase c) F.SEQ_STATUS_STATE 2).wr (coreBase c) F.SEQ_STATUS_BLOCK 0
    s.onCore c fun r => { r with waiters := r.waiters.filter fun v => v.unit ≠ 0 }

/-- SEQ_STOP (R476). -/
def execSeqStop (f : Func) (c : PCore) (s : State) : Host.Outcome State Fault Refusal :=
  .next (s.asCore f c .register (coreBase c) fun s => s.stop c)

/-- RESUME: a halted sequencer continues at its program counter; nothing that waited at an engine's head begins before (R123, R127, R476). -/
def State.resume (s : State) (c : PCore) : State :=
  if s.seqState c ≠ 2 ∨ s.inReset c then s
  else (s.wr (coreBase c) F.SEQ_STATUS_STATE 1).onCore c fun r => { r with
    readyAt := s.cycle + 1
    engines := r.engines.map fun e => { e with floor := max e.floor (s.cycle + 1) } }

/-- SEQ_RESUME (R123). -/
def execSeqResume (f : Func) (c : PCore) (s : State) : Host.Outcome State Fault Refusal :=
  .next (s.asCore f c .register (coreBase c) fun s => s.resume c)

/-- SEQ_FLAGSIG: a write adds COUNT to a flag of the core; a COUNT of 0 is ignored (R137, R145). -/
def State.flagSig (s : State) (c : PCore) (v : Nat) : State :=
  if bits v 16 16 = 0 then s else s.flagAddExt c (bits v 0 6) (bits v 16 16)

/-- SEQ_FLAGSIG (R137). -/
def execSeqFlagsig (f : Func) (c : PCore) (v : BitVec 32) (s : State) : Host.Outcome State Fault Refusal :=
  .next (s.asCore f c .register (coreBase c + 0x30) fun s => s.flagSig c v.toNat)

end Sys2Proof.Machine
end

