-- ==== Sys2Proof/Machine/Engine.lean ====
section
/-!
DEFINITION. The outer-product engine: PASS, its fold and its faults (R29 to R39, R43 to R63, R161, R162), LOADW and its
front (R40 to R42, R163), CLOSE and DRAIN at the head of an engine queue (R39, R99), pre-emption (R48, R49), the deferred
quarantine (R51) and in-service known-answer passes (R61). All times are core cycles; a command whose condition does not
hold leaves the state as it is (log entry 2).
-/
namespace Sys2Proof.Machine

/-- The engine queue of an engine: EQ0 to EQ3. -/
def eqOf (e : Eng) : Queue := ⟨e.val, by omega⟩

/-- Change what an engine holds beside its registers. -/
def State.onEng (s : State) (c : PCore) (e : Eng) (f : EngRec → EngRec) : State :=
  s.onCore c fun r => { r with engines := vupd r.engines e f }

/-- What an engine holds beside its registers. -/
def State.eng (s : State) (c : PCore) (e : Eng) : EngRec := (s.core c).engines[e]

/-- The stored engine state (R62): 3 to 7, or 0 where STATE follows from the passes in progress. -/
def State.engState (s : State) (c : PCore) (e : Eng) : Nat := s.rd (opeBase c e) F.OPE_STATUS_STATE

/-- STATE as it reads (R62): idle, streaming or folding where nothing else is stored. -/
def State.engStateRead (s : State) (c : PCore) (e : Eng) : Nat :=
  let st := s.engState c e
  if st ≠ 0 then st
  else
    let r := s.eng c e
    if r.issued.any (fun p => decide (p.first ≤ s.cycle) && decide (s.cycle ≤ p.last)) then 1
    else if r.issued.isEmpty then 0 else 2

/-- The cycle from which an engine has been idle, as far as its passes and fronts go (R474): idle cycles are counted from
there while its queue is empty and nothing is issued. -/
def State.idleSince (s : State) (c : PCore) (e : Eng) : Nat :=
  let r := s.eng c e
  let front := match r.front with
    | some t => t + 128
    | none => 0
  let last := match r.lastE with
    | some t => t + 1
    | none => 0
  max (max (s.core c).headAt[eqOf e] r.foldEnd) (max front last)

/-- Whether the engine has been idle for 2,048 consecutive cycles (R474). -/
def State.engIdle2048 (s : State) (c : PCore) (e : Eng) : Bool :=
  let r := s.eng c e
  (s.queue c (eqOf e)).isEmpty && r.issued.isEmpty && r.loads.isEmpty && decide (s.idleSince c e + 2048 ≤ s.cycle)

/-! ### Operands -/

/-- Base and pitch are multiples of 64 and the region lies in the scratchpad (R162, reason 0x13). -/
def Opnd.ok (o : Opnd) : Bool :=
  decide (o.base % 64 = 0) && decide (o.pitch % 64 = 0) && spadFits o.region.1 o.region.2

/-- The region of a LOADW's operand lies in the scratchpad; a transposed read asks for 64 B aligned base and pitch (R163, R181). -/
def Opnd.lies (o : Opnd) (aligned : Bool) : Bool :=
  (!aligned || (decide (o.base % 64 = 0) && decide (o.pitch % 64 = 0))) && spadFits o.region.1 o.region.2

/-- The operands a pass streams (R162): the a-operand, the b-operand of an OS pass. -/
def State.passA (s : State) (c : PCore) (w : IWord) : Opnd :=
  let p := passF w
  opndOf (s.x c (fieldOf w 57 5)) p.fa p.ta (if p.ws then p.m else p.k) (if p.ws then p.k else p.m)
def State.passB (s : State) (c : PCore) (w : IWord) : Opnd :=
  let p := passF w
  opndOf (s.x c (fieldOf w 52 5)) p.fb p.tb p.k p.n

/-- The offsets and lengths of the MX scale arrays (R162): block q of row or column i at offset + q × 128 + i. -/
def State.passScales (s : State) (c : PCore) (w : IWord) : List (Nat × Nat) :=
  let p := passF w
  if !p.mx then []
  else
    let x := (s.x c (fieldOf w 47 5)).toNat
    let q := p.k / 32 - 1
    [(bits x 0 32, q * 128 + p.m), (bits x 32 32, q * 128 + p.n)]

/-! ### The engine's checks of a PASS (R59, R161 to R163, R174) -/

/-- Whether mode and formats go together, the pair being permitted (R55, R59): split mode multiplies only, and equality
count takes integers only. -/
def modeOk (p : PassF) : Bool :=
  (decide (p.mode = 0) || !decide (rateClass p.fa = some .split)) && (decide (p.mode ≠ 6) || Fmt.isInt p.fa)

/-- K is in range for the mode and class (R30, R33). -/
def kOk (p : PassF) : Bool :=
  match rateClass p.fa with
  | none => false
  | some r =>
    if p.ws then decide (1 ≤ p.k) && decide (p.k ≤ r.wsK)
    else decide (16 ≤ p.k) && decide (p.k % 16 = 0) && decide (p.k ≤ if r = .split then 1360 else 4096)

/-- The format and KW of the weights a pass meets that waits behind the LOADWs an engine holds: those of the last of them (R41). -/
def EngRec.weightsAhead (r : EngRec) : Nat × Nat :=
  match r.loads.getLast? with
  | some l => (loadFmt l.word, loadKW l.word)
  | none => (r.wFmt, r.wKW)

/-- The reason an engine skips a PASS, the lowest code first, or 0 (R59, R174). -/
def State.passCheck (s : State) (c : PCore) (e : Eng) (w : IWord) : Nat :=
  let p := passF w
  let g := (s.eng c e).weightsAhead
  if !pairOk p.fa p.fb || (p.ws && decide (g.2 ≠ 0) && decide (p.fb ≠ g.1)) || (p.ta && decide (p.fa = 1)) ||
      (p.tb && decide (p.fb = 1)) then 0x07
  else if !modeOk p then 0x08
  else if !kOk p then 0x09
  else if p.mx && decide (p.k % 32 ≠ 0) then 0x0A
  else if p.m = 0 ∨ p.m > 128 ∨ p.n = 0 ∨ p.n > 128 then 0x0B
  else if p.ws && decide (p.k > g.2) then 0x0C
  else if p.stream > 4096 then 0x0D
  else if 2 ≤ p.mode ∧ p.mode ≤ 6 ∧ !s.licensed 1 then 0x0E
  else if !(s.passA c w).ok || (!p.ws && !(s.passB c w).ok) ||
      (s.passScales c w).any (fun g => !spadFits g.1 g.2) then 0x13
  else 0

/-! ### What a pass reads and computes -/

/-- What a pass takes from its registers and the weights when it is issued (R131, R161, R162). -/
def State.passOps (s : State) (c : PCore) (e : Eng) (w : IWord) : PassOps where
  a := s.passA c w
  b := s.passB c w
  xs := (s.x c (fieldOf w 47 5)).toNat
  wN := if (passF w).ws then (s.eng c e).wN else 0
  wData := if (passF w).ws then (s.eng c e).wData else []

/-- Codes of the a-operand along K for row `i`, of the b-operand or the weights for column `j`. -/
def PassOps.aCodes (o : PassOps) (mem : SMap Byte) (p : PassF) (i : Nat) : List Nat :=
  (List.range p.k).map fun k =>
    if p.ws then operandElem mem o.a.base o.a.pitch o.a.w o.a.tr i k else operandElem mem o.a.base o.a.pitch o.a.w o.a.tr k i
@[inherit_doc PassOps.aCodes] def PassOps.bCodes (o : PassOps) (mem : SMap Byte) (p : PassF) (j : Nat) : List Nat :=
  (List.range p.k).map fun k =>
    if p.ws then (if j < o.wN then o.wData.getD (k * o.wN + j) 0 else 0) else operandElem mem o.b.base o.b.pitch o.b.w o.b.tr k j

/-- The E8M0 scale of block `q` (R73, R162): `side` 0 for rows of a, 1 for columns of b. -/
def PassOps.scale (o : PassOps) (mem : SMap Byte) (p : PassF) (side i q : Nat) : Nat :=
  match p.scales with
  | 1 => bits o.xs (8 * side) 8
  | 2 => readLE mem (bits o.xs (32 * side) 32 + q * 128 + i) 1
  | _ => 0x7F

/-- The words a pass leaves in its pass register, row by row (R29 to R33, R55 to R57, R70 to R78). -/
def PassOps.result (o : PassOps) (mem : SMap Byte) (p : PassF) : List AccWord :=
  (List.range p.m).flatMap fun i => (List.range p.n).map fun j =>
    passCell p (o.aCodes mem p i) (o.bCodes mem p j) (o.scale mem p 0 i) (o.scale mem p 1 j)

/-- The result of a pass that is issued now. -/
def State.passResult (s : State) (c : PCore) (e : Eng) (w : IWord) : List AccWord := (s.passOps c e w).result (s.core c).spad (passF w)

/-- The scratchpad ranges a pass reads (R52, R177). -/
def State.passRanges (s : State) (c : PCore) (w : IWord) : List (Nat × Nat) :=
  (s.passA c w).pieces ++ (if (passF w).ws then [] else (s.passB c w).pieces) ++ s.passScales c w

/-- The lowest marked line among some lines. -/
def State.firstMarked (s : State) (c : PCore) (ls : List Nat) : Option Nat :=
  ls.foldl (fun m l => if SMap.get false (s.core c).spadPois l then some (match m with | some k => min k l | none => l) else m) none

/-- The offset of the first marked line a pass accepts (R384): by stream cycle, the lowest of a cycle; scale arrays, read
beside the stream, come last (log entry 21). -/
def State.passMarked (s : State) (c : PCore) (w : IWord) : Option Nat :=
  let p := passF w
  let a := s.passA c w
  let b := s.passB c w
  let per := if p.ws then 1 else ((rateClass p.fa).map RateClass.steps).getD 1
  let groups := (List.range (ceilDiv (if p.ws then p.m else p.k) per)).map fun g =>
    (List.range per).flatMap fun i =>
      vectorLines a.base a.pitch a.w a.tr (g * per + i) a.elems ++
        (if p.ws then [] else vectorLines b.base b.pitch b.w b.tr (g * per + i) b.elems)
  let all := groups ++ (s.passScales c w).map fun g => linesOf g.1 g.2
  (all.findSome? fun ls => s.firstMarked c ls).map (· * 64)

/-! ### The start of a pass -/

/-- Cycles of staging before a transposed operand's first vector (R182): T + 4. -/
def stagingOf (fmt : Nat) : Nat := 128 / ((rateClass fmt).map RateClass.steps).getD 1 + 4

/-- When a pass could begin but for the fold path and the front: it is at the head of a queue that issues, the stream before it has
ended, and its transposed operands are staged, each from the cycle on in which a staging buffer of it is free (R36, R49, R182). -/
def State.passBase (s : State) (c : PCore) (e : Eng) (w : IWord) : Nat :=
  let p := passF w
  let h := (s.core c).headAt[eqOf e]
  let from_ (tr : Bool) (buf : Nat) : Nat := if tr then max h buf + stagingOf p.fa else h
  let staged := max (from_ p.ta (s.eng c e).bufA) (from_ (p.tb && !p.ws) (s.eng c e).bufB)
  let free := max staged (s.eng c e).floor
  match (s.eng c e).lastE with
  | some t => max free (t + 1)
  | none => free

/-- The first cycle R36, R40 and R43 allow a pass to start in. -/
def State.passCould (s : State) (c : PCore) (e : Eng) (w : IWord) : Nat :=
  let p := passF w
  let r := s.eng c e
  let b := s.passBase c e w
  let fold := match r.lastE with
    | some t => t + 1 + (r.lastF - p.stream)
    | none => 0
  let front := if p.ws then r.front.getD 0 else 0
  max b (max fold front)

/-- The cycle from which no drain in place holds the tile's live half (R101). -/
def State.passHold (s : State) (c : PCore) (e : Eng) (t : Nat) : Nat :=
  SMap.get 0 (s.eng c e).halfRead (t * 2 + if s.rdBit (accBase c e) F.ACC_LIVE_LIVE t then 1 else 0)

/-- The live half of a tile (R94). -/
def State.liveHalf (s : State) (c : PCore) (e : Eng) (t : Nat) : Nat := if s.rdBit (accBase c e) F.ACC_LIVE_LIVE t then 1 else 0

/-- Whether a request bound to a half has not read its last row (R99, R101). -/
def State.halfBound (s : State) (c : PCore) (e : Eng) (t h : Nat) : Bool :=
  let d := (s.core c).drains[e]
  d.queue.any (fun q => decide (q.tile = t) && decide (q.half = h)) ||
    (match d.run with
      | some r => decide (r.req.tile = t) && decide (r.req.half = h)
      | none => false)

/-- The ramp window in force (R44, R45): the short ramp has effect in Class L only. -/
def State.rampLen (s : State) (c : PCore) (e : Eng) : Nat :=
  if s.on (opeBase c e) F.OPE_CTRL_RAMP_SHORT && decide (s.powerClass = 0) then 16 else 32

/-- Whether a pass that could begin in cycle `could` ramps (R43): 64 or more cycles lie between the last stream cycle and
that one, or the pass is the first after a core reset. Cycles in which the pass waits for a RESUME belong to the gap (log entry 82). -/
def State.passRamps (s : State) (c : PCore) (e : Eng) (could : Nat) : Bool :=
  match (s.eng c e).lastE with
  | some t => decide (could - t - 1 ≥ 64)
  | none => true

/-- The count of passes whose fold is pending on a half (R39, R120). -/
def State.pendingOf (s : State) (c : PCore) (e : Eng) (t h : Nat) : Nat := s.rd (accBase c e) F.ACC_PENDING_COUNT (2 * t + h)

/-- Change a pending count. -/
def State.setPending (s : State) (c : PCore) (e : Eng) (t h v : Nat) : State := s.wr (accBase c e) F.ACC_PENDING_COUNT v (2 * t + h)

/-- The stream steps of a pass accepted before cycle `t` (R44, R45, R62). -/
def Issued.accepted (q : Issued) (t : Nat) : Nat :=
  let n := t - q.first
  min q.steps (if q.ramp = 0 then n else ((rampCycles q.ramp).filter fun k => decide (k < n)).length + (n - q.ramp))

/-- A pass that starts in cycle `start` as the engine then holds it: its operands are read and its result is formed in the step that issues
it (log entry 83). -/
def State.formPass (s : State) (c : PCore) (e : Eng) (w : IWord) (ia start could : Nat) : Issued :=
  let p := passF w
  let ramp := if s.passRamps c e could then s.rampLen c e else 0
  { word := w
    ia := ia
    first := start
    last := start + (if ramp = 0 then p.stream else rampedStream ramp p.stream) - 1
    foldLen := p.foldLen
    tile := p.tile
    half := s.liveHalf c e p.tile
    res := s.passResult c e w
    ops := s.passOps c e w
    ranges := s.passRanges c w
    steps := p.stream
    poisonAt := s.passMarked c w
    injected := s.on (opeBase c e) F.OPE_CTRL_INJECT
    replayed := false
    unguard := p.ws && (s.eng c e).wUnguard
    ramp := ramp
    rows := 0 }

/-- The cycle from which a staging buffer of a transposed operand of `n` vectors is free for the next instruction: when the last of its tiles
begins to stream, where it has more than one, and otherwise at once (R182). -/
def Issued.bufFree (q : Issued) (n : Nat) : Nat :=
  let t := stagingOf (passF q.word).fa - 4
  if n ≤ 128 then 0 else q.last + 1 - (q.steps - (ceilDiv n 128 - 1) * t)

/-- Issue a pass that starts in cycle `start` (R29, R36, R39, R43): the errors stored in its operands are met, and the counters of R62 and
R120 move. -/
def State.issuePass (s : State) (c : PCore) (e : Eng) (w : IWord) (ia start could : Nat) : State :=
  let p := passF w
  let b := opeBase c e
  let s := (s.passRanges c w).foldl (fun s g => s.spadMeet c g.1 g.2) s
  let q := s.formPass c e w ia start could
  let s := s.wr b F.OPE_CTRL_INJECT 0
  let s := s.count b F.OPE_STREAM_COUNT (q.accepted s.cycle)
  let s := if q.ramp = 0 then s else s.count b F.OPE_RAMPS_COUNT
  let s := if q.unguard && s.on b F.OPE_CTRL_REPLAY then s.sat b F.OPE_UNGUARD_COUNT else s
  let s := s.setPending c e p.tile q.half (s.pendingOf c e p.tile q.half + 1)
  let s := s.popQ c (eqOf e)
  s.onEng c e fun r => { r with
    issued := r.issued ++ [q]
    lastE := some q.last
    lastF := p.foldLen
    bufA := if p.ta then q.bufFree q.ops.a.vecs else r.bufA
    bufB := if p.tb && !p.ws then q.bufFree q.ops.b.vecs else r.bufB }

/-- An engine abandons its in-service test pass when a program's pass reaches it (KNOWN_ANSWER_PASS_ABANDON; R61). -/
def State.abandonTest (s : State) (c : PCore) (e : Eng) : State :=
  if s.engState c e = 7 then (s.wr (opeBase c e) F.OPE_STATUS_STATE 0).onEng c e fun r => { r with testSince := none, leftTest := true } else s

/-- Take an engine instruction at the head of its queue when its opcode is `op`: on a disabled engine the task aborts with
cause 4 before any check (R22, R54); on a quarantined one it waits (R389). -/
def State.execEng (s : State) (c : PCore) (e : Eng) (op : Nat) (run : State → IWord → Nat → State) : State :=
  match s.headInstr c (eqOf e) with
  | some (w, ia) =>
    if opcodeOf w ≠ op then s
    else if s.engState c e = 6 then s.abortTask (s.partOf c) 4 (some (c, ia))
    else if s.engState c e = 5 then s
    else run s w ia
  | none => s

/-- Whether the engine issues passes and starts fronts: no pre-emption and no replay under way (R48, R49, R51). -/
def State.engIssues (s : State) (c : PCore) (e : Eng) : Bool :=
  decide (s.engState c e ≠ 3) && decide (s.engState c e ≠ 4)

/-- PASS: checked when it reaches the engine, skipped or issued at its start cycle (R29, R36, R59, R101). -/
def execPass (c : PCore) (e : Eng) (s : State) : Host.Outcome State Fault Refusal :=
  .next (s.execEng c e 0x40 fun s w ia =>
    let s := s.abandonTest c e
    let reason := s.passCheck c e w
    let p := passF w
    if !s.engIssues c e || !(s.eng c e).loads.isEmpty then s
    else if reason ≠ 0 then s.skipHead c (eqOf e) w ia reason
    else if s.halfBound c e p.tile (s.liveHalf c e p.tile) then s
    else
      let could := s.passCould c e w
      let start := max could (s.passHold c e p.tile)
      if start ≤ s.cycle then s.issuePass c e w ia start could else s)

/-! ### Fold (R32 to R34, R37, R38) -/

/-- The engine's first error (R60, R62): its place is recorded while no earlier error flag stands. -/
def State.engError (s : State) (c : PCore) (e : Eng) (flag : Fld) (row col ia tile : Nat) : State :=
  let b := opeBase c e
  let first := !(s.on b F.OPE_ERR_RESIDUE || s.on b F.OPE_ERR_PAR_A || s.on b F.OPE_ERR_PAR_B || s.on b F.OPE_ERR_PAR_W ||
    s.on b F.OPE_ERR_PAR_FOLD)
  let s := if first then
      (((s.wr b F.OPE_ERR_ROW row).wr b F.OPE_ERR_COL col).wr b F.OPE_ERR_IADDR ia).wr b F.OPE_ERR_TILE tile
    else s
  (s.setOn b flag).sat b (if flag = F.OPE_ERR_RESIDUE then F.OPE_ERRCNT_RESIDUE_CNT else F.OPE_ERRCNT_PARITY_CNT)

/-- The physical row of a logical row (R27): every row at or below one out of service moves down by one. -/
def State.physRow (s : State) (c : PCore) (e : Eng) (r : Nat) : Nat :=
  let a := s.rd (opeBase c e) F.OPE_STATUS_SPARE_ROW_A
  let b := s.rd (opeBase c e) F.OPE_STATUS_SPARE_ROW_B
  let n := s.rd (opeBase c e) F.OPE_STATUS_SPARES_USED
  let lo := if n = 2 then min a b else a
  let r1 := if n ≥ 1 ∧ lo ≤ r then r + 1 else r
  if n = 2 ∧ max a b ≤ r1 then r1 + 1 else r1

/-- LOCATION of an engine record (R395). -/
def State.engLoc (s : State) (c : PCore) (e : Eng) (row col : Nat) : Nat := row + col * 256 + s.physRow c e row * 65536

/-- UNIT_ID of an engine, accumulator or drain (R395). -/
def engId (c : PCore) (e : Eng) : Nat := c.val * 4 + e.val

/-- A replayed pass has folded. The oldest replay under way has succeeded when the last of its passes has: it is counted, recorded as corrected,
and the engine's self-test is deferred (R51). -/
def State.replayDone (s : State) (c : PCore) (e : Eng) : State :=
  match (s.eng c e).repairing with
  | [] => s
  | x :: rest =>
    if 1 < x.left then s.onEng c e fun r => { r with repairing := { x with left := x.left - 1 } :: rest }
    else
      let b := opeBase c e
      let s := (s.sat b F.OPE_REPLAYS_DONE).setOn b F.OPE_ERR_REPLAY_OK
      let s := s.errLog (errRec 0 0x1 (engId c e) (s.engLoc c e x.row x.col) (s.partOf c) x.cause 0x2 3 x.ia)
      let d : DeferredTest := ⟨s.engLoc c e x.row x.col, x.cause, s.rd errBase F.ERR_LOGPTR_SEQNO⟩
      s.onEng c e fun r => { r with repairing := rest, deferTest := r.deferTest.orElse fun _ => some d }

/-- The rows of its fold a pass has written by the end of cycle `t` (R34); a pass that will be declared faulted writes none (R37). -/
def Issued.rowsBy (q : Issued) (t : Nat) : Nat :=
  if q.injected || q.poisonAt.isSome then 0 else min q.foldLen (t + 1 - (q.last + 48))

/-- Write the rows of an issued pass's fold that are due by the end of cycle `t`: each row's read meets the errors stored in it, and its
write leaves none (R34, R96). -/
def State.foldTo (s : State) (c : PCore) (e : Eng) (t : Nat) (q : Issued) : State :=
  let rows := (List.range (q.rowsBy t - q.rows)).map fun i => (2 * q.tile + q.half) * 128 + q.rows + i
  let s := rows.foldl (fun s r => (s.accMeet c e r).accClean c e r) s
  s.onCore c fun r => { r with acc := vupd r.acc e (foldInto (passF q.word) q.half q.res q.rows (q.rowsBy t)) }

/-- Every row due by the end of cycle `t` of the passes an engine has issued (R34). -/
def State.foldDue (s : State) (c : PCore) (e : Eng) (t : Nat) : State :=
  let due := (s.eng c e).issued.filter fun q => decide (q.rows < q.rowsBy t)
  if due.isEmpty then s
  else (due.foldl (fun s q => s.foldTo c e t q) s).onEng c e fun r =>
    { r with issued := r.issued.map fun q => { q with rows := max q.rows (q.rowsBy t) } }

/-- A pre-empting engine whose boundary has come is PREEMPTED once the folds of the passes issued and the front that moves are complete
(R48). -/
def State.settle (s : State) (c : PCore) (e : Eng) : State :=
  let r := s.eng c e
  let moves := match r.front with
    | some f => decide (s.cycle < f + 128)
    | none => false
  if s.engState c e = 3 ∧ r.preemptAt.isNone ∧ r.issued.isEmpty ∧ moves = false then s.wr (opeBase c e) F.OPE_STATUS_STATE 4 else s

/-- The last row of a pass's fold is written: its pending count falls, and a fold with INIT over the whole half clears its poison
(R39, R97). -/
def State.foldEnd (s : State) (c : PCore) (e : Eng) (q : Issued) : State :=
  let p := passF q.word
  let s := s.onEng c e fun r => { r with
    issued := r.issued.tail
    foldEnd := q.last + 48 + q.foldLen
    halfFold := SMap.set 0 r.halfFold (q.tile * 2 + q.half) (s.cycle + 1) }
  let s := s.setPending c e q.tile q.half (s.pendingOf c e q.tile q.half - 1)
  let s := s.count (opeBase c e) F.OPE_PASSES_COUNT
  if p.init && decide (p.m = 128) && decide (p.n = 128) then
    s.wrBit (accBase c e) F.ACC_POISON_POISON (2 * q.tile + q.half) false else s

/-- An error on the fold path at a logical row and column: the half is poisoned, and the error is recorded (R38). -/
def State.foldError (s : State) (c : PCore) (e : Eng) (q : Issued) (row col : Nat) : State :=
  let s := s.wrBit (accBase c e) F.ACC_POISON_POISON (2 * q.tile + q.half) true
  let s := s.engError c e F.OPE_ERR_PAR_FOLD row col q.ia q.tile
  s.errLog (errRec 1 0x1 (engId c e) (s.engLoc c e row col) (s.partOf c) 0x05 0x1 0 q.ia)

/-- PASS_FOLD: the fold of the oldest pass issued, declared clean, writes its last row; `err` is a fold-path parity error met
while the rows were written, and its place (FOLD_PATH_ERROR; R34, R38, R97). -/
def execPassFold (c : PCore) (e : Eng) (err : Option (Fin 128 × Fin 128)) (s : State) : Host.Outcome State Fault Refusal :=
  .next (match (s.eng c e).issued with
    | q :: _ =>
      if q.injected || q.poisonAt.isSome || decide (s.cycle < q.last + 48 + q.foldLen - 1) then s
      else
        let s := (s.foldDue c e s.cycle).foldEnd c e q
        let s := match err with
          | some (row, col) => s.foldError c e q row.val col.val
          | none => s
        (if q.replayed then s.replayDone c e else s).settle c e
    | [] => s)

/-! ### Fault and replay (R50 to R54) -/

/-- The flag of an engine error (R62). -/
def errFlag : PassErr → Fld
  | .residue => F.OPE_ERR_RESIDUE
  | .parA => F.OPE_ERR_PAR_A
  | .parB => F.OPE_ERR_PAR_B
  | .parW => F.OPE_ERR_PAR_W

/-- The CAUSE of an engine error (R396). -/
def errCause : PassErr → Nat
  | .residue => 0x03
  | _ => 0x04

/-- A fault while a front moves: the weights being loaded are discarded, and with them those that wait (R54). -/
def EngRec.dropLoads (r : EngRec) (now : Nat) : EngRec :=
  match r.front with
  | some f => if now < f + 128 then { r with loads := [], raced := [], racedF := [], wKW := 0, wN := 0, wData := [], wRange := [], wOpnd := none }
    else { r with loads := [], raced := [] }
  | none => { r with loads := [], raced := [] }

/-- The replays that keep every pass when only the oldest `n` issued passes stay: those that are left count (R51). -/
def keepRepairs : Nat → List Redo → List Redo
  | _, [] => []
  | n, x :: xs => if x.left ≤ n then x :: keepRepairs (n - x.left) xs else []

/-- Abandon passes `n` and later of an engine: none folds, each pending count falls, and the weights being loaded are discarded; a replay that
loses a pass has not succeeded (R39, R50, R51, R54). -/
def State.dropPasses (s : State) (c : PCore) (e : Eng) (n : Nat) : State :=
  let gone := (s.eng c e).issued.drop n
  let s := gone.foldl (fun s q => s.setPending c e q.tile q.half (s.pendingOf c e q.tile q.half - 1)) s
  s.onEng c e fun r => { (r.dropLoads s.cycle) with
    issued := r.issued.take n
    repairing := keepRepairs ((r.issued.take n).filter (·.replayed)).length r.repairing }

/-- What streams again after a fault (R51, R54): the front that is repeated, once it has, and the passes. -/
structure Restream where
  front  : Option Nat
  issued : List Issued

/-- Stream passes again from cycle `at0` in their order, each by R36, and with a ramp of `ramp` cycles after an idle gap of 64 or more (R43, R51).
`prev` is the last cycle streamed and, behind a pass, the fold length. The front that started in cycle `front`, if it is repeated, moves
behind the pass before it and ahead of the first pass that used its weights (R51, R54). A pass whose operands were overwritten computes from
what the scratchpad holds now, and from the weights `fresh` where the front is repeated for it (R52). -/
def restream (at0 ramp : Nat) (mem : SMap Byte) (fresh : List Nat) (prev : Nat × Nat) (front : Option Nat) (moved : Option Nat) :
    List Issued → Restream
  | [] => ⟨moved.orElse fun _ => front.map fun _ => max at0 (prev.1 + 1), []⟩
  | q :: qs =>
    let base := max at0 (if prev.2 = 0 then at0 else prev.1 + 1)
    let moved := moved.orElse fun _ => match front with
      | some f => if f ≤ q.first then some base else none
      | none => none
    let first := max base (if prev.2 = 0 then at0 else prev.1 + 1 + (prev.2 - q.steps))
    let len := if 64 ≤ first - prev.1 - 1 then ramp else 0
    let last := first + (if len = 0 then q.steps else rampedStream len q.steps) - 1
    let ops := if (passF q.word).ws && moved.isSome then { q.ops with wData := fresh } else q.ops
    let x := restream at0 ramp mem fresh (last, q.foldLen) front moved qs
    ⟨x.front, { q with first := first, last := last, replayed := true, injected := false, ramp := len, rows := 0, ops := ops,
                       res := if q.unguard then ops.result mem (passF q.word) else q.res } :: x.issued⟩

/-- PASS_REPLAY: the faulted pass streams again 4 cycles after the decision, then the passes abandoned with it. The front that loads the weights
hit by a weight-path error is repeated first; one that still moves is discarded and repeated in its place (R51, R54). -/
def State.replay (s : State) (c : PCore) (e : Eng) (n : Nat) (q : Issued) (k : PassErr) (row col : Nat) : State :=
  let r := s.eng c e
  let moves := match r.front with
    | some f => decide (s.cycle < f + 128)
    | none => false
  let hit := decide (k = .parW) && (passF q.word).ws
  let at0 := if hit then max (q.last + 36) (r.front.getD 0 + 128) else q.last + 36
  let streamed := ((r.issued.drop n).filter fun p => decide (p.first ≤ s.cycle)).foldl (fun m p => max m (min p.last s.cycle)) q.last
  let fresh := match r.wOpnd with
    | some o => loadEntries (s.core c).spad [] 0 r.wFmt o
    | none => r.wData
  let front := if hit then r.front.map fun f => min f q.first else if moves then r.front else none
  let x := restream at0 (s.rampLen c e) (s.core c).spad fresh (streamed, 0) front none (r.issued.drop n)
  let s := s.count (opeBase c e) F.OPE_RAMPS_COUNT ((x.issued.zip (r.issued.drop n)).filter fun y => y.1.ramp ≠ 0).length
  s.onEng c e fun r => { r with
    issued := r.issued.take n ++ x.issued
    lastE := (x.issued.getLast?.map (·.last)).orElse fun _ => r.lastE
    front := x.front.orElse fun _ => r.front
    wData := if front.isSome then fresh else r.wData
    repairing := r.repairing ++ [⟨errCause k, row, col, q.ia, x.issued.length⟩] }

/-- Whether issued pass `q` may be declared faulted now: in cycles e + 29 to e + 32 (R37); the module declares one it is bound to (an injected
mismatch, marked data) there at the latest, and it never folds. -/
def Issued.decides (q : Issued) (now : Nat) : Bool := decide (q.last + 29 ≤ now) && decide (now ≤ q.last + 32)

/-- Issued pass `n` of an engine, `q`, is declared faulted: for the injected mismatch, for an error of kind `k` at a logical row and column, or
because it consumed marked data, which is never replayed. Basic control, a second fault, or a pass made non-replayable ends in quarantine and an
abort with cause 4 (R50 to R52, R384, R386). -/
def State.passFault (s : State) (c : PCore) (e : Eng) (n : Nat) (q : Issued) (k : PassErr) (row col : Nat) : State :=
  match q.poisonAt with
  | some a => (s.dropPasses c e n).consumeFault c 0x1 (engId c e) a q.ia
  | none =>
    let b := opeBase c e
    let k := if q.injected then PassErr.residue else k
    let s := s.engError c e (errFlag k) row col q.ia q.tile
    if s.on b F.OPE_CTRL_REPLAY && !q.replayed && !q.unguard then s.replay c e n q k row col
    else
      let s := if s.on b F.OPE_CTRL_REPLAY then (s.sat b F.OPE_REPLAYS_FAILED).setOn b F.OPE_ERR_REPLAY_FAIL else s
      let s := s.dropPasses c e n
      let loc := s.engLoc c e row col
      let s := s.errLog (errRec 2 0x1 (engId c e) loc (s.partOf c) (errCause k) 0x2 3 q.ia)
      let s := s.quarantine 2 0x1 (engId c e) loc (errCause k)
      let s := s.wr b F.OPE_STATUS_STATE 5
      s.abortTask (s.partOf c) 4 (some (c, q.ia))

/-- PASS_FAULT: issued pass `n` of an engine is declared faulted, in its window (R37, R50). -/
def execPassFault (c : PCore) (e : Eng) (n : Nat) (k : PassErr) (row col : Fin 128) (s : State) :
    Host.Outcome State Fault Refusal :=
  .next (match (s.eng c e).issued[n]? with
    | some q => if q.decides s.cycle then s.passFault c e n q k row.val col.val else s
    | none => s)

/-- A pass that the module is bound to declare faulted is declared so in cycle e + 32, where no command did it before; the place of an injected
mismatch is the module's choice (R37, R60; log entry 105). -/
def State.boundFault (s : State) (c : PCore) (e : Eng) : State :=
  let bound (q : Issued) : Bool := (q.injected || q.poisonAt.isSome) && decide (q.last + 32 ≤ s.cycle)
  match (s.eng c e).issued.findIdx? bound with
  | some n =>
    match (s.eng c e).issued[n]? with
    | some q =>
      let x := s.fresh
      x.2.passFault c e n q .residue (Config.freeValue x.1 % 128) (Config.freeValue x.1 / 128 % 128)
    | none => s
  | none => s

/-! ### LOADW (R40 to R42, R163) -/

/-- The reason an engine skips a LOADW, or 0 (R163, R174). -/
def State.loadCheck (s : State) (c : PCore) (w : IWord) : Nat :=
  match rateClass (loadFmt w) with
  | none => 0x07
  | some .split => 0x07
  | some r =>
    if loadKW w < 16 ∨ loadKW w % 16 ≠ 0 ∨ loadKW w > r.wsK then 0x09
    else if loadN w = 0 ∨ loadN w > 128 then 0x0B
    else if !(s.loadOpnd c w).lies (loadTW w) then 0x13
    else 0

/-- LOADW reaches its engine in cycle a: its front may start at e + 1 while the array last accepted a vector in cycle
e ≥ a, at a + 1 otherwise, not before a RESUME it waits for, and not before its transposed read is staged (R40, R49, R182). -/
def execLoadw (c : PCore) (e : Eng) (s : State) : Host.Outcome State Fault Refusal :=
  .next (s.execEng c e 0x41 fun s w ia =>
    let reason := s.loadCheck c w
    if !s.engIssues c e then s
    else if reason ≠ 0 then s.skipHead c (eqOf e) w ia reason
    else
      let a := max (s.core c).headAt[eqOf e] (s.eng c e).floor
      let t := match (s.eng c e).lastE with
        | some l => if a ≤ l then l + 1 else a + 1
        | none => a + 1
      let t := if loadTW w then max t (max a (s.eng c e).bufW + stagingOf (loadFmt w)) else t
      let o := s.loadOpnd c w
      let s := s.popQ c (eqOf e)
      s.onEng c e fun r => { r with loads := r.loads ++ [⟨w, o, ia, a, t⟩] })

/-- The weights of a front that starts in cycle `t` are in the cells (R40, R41): entries as the scratchpad holds them, free between old and
new where a write raced with the LOADW since its dispatch (log entry 81). -/
def State.loadFront (s : State) (c : PCore) (e : Eng) (l : PendingLoad) (t : Nat) : State :=
  let o := l.opnd
  let mine (k : Nat) : Bool := overlaps o.region.1 o.region.2 (k * 64, 64)
  let old := SMap.wipe (fun k => !mine k) (s.eng c e).raced
  let x := if old.isEmpty then (0, s) else s.fresh
  let s := x.2
  let data := loadEntries (s.core c).spad old (Config.freeValue x.1) (loadFmt l.word) o
  let rest := (s.core c).waitingLoads e (s.loadOpnd c)
  s.onEng c e fun r => { r with
    wFmt := loadFmt l.word
    wKW := loadKW l.word
    wN := loadN l.word
    wData := data
    front := some t
    wOpnd := some o
    racedF := old
    raced := SMap.wipe (fun k => !rest.any fun p => overlaps p.region.1 p.region.2 (k * 64, 64)) r.raced
    wRange := [o.region]
    wUnguard := false
    bufW := if loadTW l.word ∧ 128 < loadKW l.word then t + 128 - (stagingOf (loadFmt l.word) - 4) else r.bufW }

/-- The cycle in which the front of a waiting LOADW may start (R41, R182): 128 cycles after the front before it, not before a RESUME (R48), and not
before its transposed read is staged in a buffer that the one before it has freed. -/
def EngRec.frontAt (r : EngRec) (l : PendingLoad) : Nat :=
  max (max (max l.earliest r.floor) (if loadTW l.word ∧ l.arrived < r.bufW then r.bufW + stagingOf (loadFmt l.word) else 0)) (match r.front with
    | some f => f + 128
    | none => 0)

/-- LOADW_FRONT_START: the front of the oldest waiting LOADW starts; marked data is consumed and aborts the task with cause 6 (R41, R384). -/
def execLoadwFrontStart (c : PCore) (e : Eng) (s : State) : Host.Outcome State Fault Refusal :=
  .next (match (s.eng c e).loads with
    | l :: ls =>
      let t := (s.eng c e).frontAt l
      if !s.engIssues c e || decide (s.engState c e = 5) || decide (s.engState c e = 6) || decide (s.cycle < t) then s
      else
        let o := l.opnd
        let s := s.onEng c e fun r => { r with loads := ls }
        let s := o.pieces.foldl (fun s g => s.spadMeet c g.1 g.2) s
        match (List.range o.vecs).findSome? fun v => s.firstMarked c (vectorLines o.base o.pitch o.w o.tr v o.elems) with
        | some line => s.consumeFault c 0x1 (engId c e) (line * 64) l.ia
        | none => s.loadFront c e l t
    | [] => s)

/-! ### CLOSE and DRAIN (R39, R94, R99, R164) -/

/-- The tile of a CLOSE or DRAIN. -/
def drainTile (w : IWord) : Nat := fieldOf w 108 4

/-- Requests in an engine's drain queue, the running one included (R99, R120). -/
def State.drainDepth (s : State) (c : PCore) (e : Eng) : Nat :=
  let d := (s.core c).drains[e]
  d.queue.length + (if d.run.isSome then 1 else 0)

/-- Whether the drain queue has an entry that a request may take in this cycle: one freed in it may be taken from the next one on (R99). -/
def State.drainFull (s : State) (c : PCore) (e : Eng) : Bool :=
  let d := (s.core c).drains[e]
  decide (s.drainDepth c e + (if d.freedAt = s.cycle then d.freed else 0) ≥ 16)

/-- Bind a drain request to a physical half. -/
def State.bindDrain (s : State) (c : PCore) (e : Eng) (w : IWord) (ia t h : Nat) : State :=
  s.onCore c fun r => { r with drains := vupd r.drains e fun d => { d with queue := d.queue ++ [⟨w, ia, t, h⟩] } }

/-- CLOSE: swaps the tile's halves and binds a request to the former live half; it waits while the shadow half has a drain
that is not complete, or the drain queue is full (R39, R94, R99). -/
def execClose (c : PCore) (e : Eng) (s : State) : Host.Outcome State Fault Refusal :=
  .next (s.execEng c e 0x42 fun s w ia =>
    let t := drainTile w
    let h := s.liveHalf c e t
    if s.rdBit (accBase c e) F.ACC_SHADOW_BUSY_BUSY t || s.drainFull c e then s
    else
      let s := s.popQ c (eqOf e)
      let s := s.wrBit (accBase c e) F.ACC_LIVE_LIVE t (decide (h = 0))
      let s := s.wrBit (accBase c e) F.ACC_SHADOW_BUSY_BUSY t true
      s.bindDrain c e w ia t h)

/-- DRAIN: binds a request to the live half without a swap (R99). -/
def execDrain (c : PCore) (e : Eng) (s : State) : Host.Outcome State Fault Refusal :=
  .next (s.execEng c e 0x43 fun s w ia =>
    let t := drainTile w
    if s.drainFull c e then s
    else (s.popQ c (eqOf e)).bindDrain c e w ia t (s.liveHalf c e t))

/-! ### Pre-emption (R48, R49) -/

/-- A write of PREEMPT: the engine stops issuing passes and starting fronts; on an engine under self-test the request waits for the test to
end (R25). -/
def State.preempt (s : State) (c : PCore) (e : Eng) : State :=
  let st := s.engState c e
  if st = 5 then s.onEng c e fun r => { r with askedStop := true }
  else if st = 3 ∨ st = 4 ∨ st = 6 then s
  else ((s.abandonTest c e).wr (opeBase c e) F.OPE_STATUS_STATE 3).onEng c e fun r => { r with preemptAt := some s.cycle }

/-- A write of RESUME: a pre-empting or pre-empted engine issues from its queue again, and what it then starts starts no earlier. -/
def State.engResume (s : State) (c : PCore) (e : Eng) : State :=
  let st := s.engState c e
  if st = 3 ∨ st = 4 then
    (s.wr (opeBase c e) F.OPE_STATUS_STATE 0).onEng c e fun r => { r with preemptAt := none, floor := s.cycle }
  else if st = 5 then s.onEng c e fun r => { r with askedStop := false }
  else s

/-- OPE_PREEMPT. -/
def execOpePreempt (f : Func) (c : PCore) (e : Eng) (s : State) : Host.Outcome State Fault Refusal :=
  .next (s.asCore f c .register (opeBase c e) fun s => s.preempt c e)

/-- The boundary of a pre-emption requested in cycle `q`: the cycle after the last stream step (R48); with REPLAY set it is not known before
the passes streamed are declared, and replays move it (R54). -/
def EngRec.boundary (r : EngRec) (replay : Bool) (q now : Nat) : Option Nat :=
  let b := match r.lastE with
    | some t => max q (t + 1)
    | none => q
  if b ≤ now ∧ (!replay ∨ r.issued.all fun p => decide (p.last + 32 < now)) then some b else none

/-- ENGINE_PREEMPT_BOUNDARY: the stream in progress has ended; the wait is recorded, and the engine enters PREEMPTED once the folds of the
passes issued and its front are complete (R48). -/
def execEnginePreemptBoundary (c : PCore) (e : Eng) (s : State) : Host.Outcome State Fault Refusal :=
  let r := s.eng c e
  .next (match r.preemptAt with
    | some q =>
      match r.boundary (s.on (opeBase c e) F.OPE_CTRL_REPLAY) q s.cycle with
      | some b =>
        if s.engState c e = 3 then
          ((s.wr (opeBase c e) F.OPE_PREEMPT_WAIT_CYCLES (b - q)).onEng c e fun r => { r with preemptAt := none }).settle c e
        else s
      | none => s
    | none => s)

/-- OPE_RESUME. -/
def execOpeResume (f : Func) (c : PCore) (e : Eng) (s : State) : Host.Outcome State Fault Refusal :=
  .next (s.asCore f c .register (opeBase c e) fun s => s.engResume c e)

/-! ### Deferred quarantine and in-service tests (R51, R61, R391) -/

/-- Whether a core's task has ended: every core of its partition's task has (R51, R154). -/
def State.taskEnded (s : State) (c : PCore) : Bool :=
  !decide (s.seqState c = 1) && !decide (s.seqState c = 2) && (s.taskCores (s.partOf c)).all fun k => decide (s.seqState k = 3)

/-- ENGINE_IDLE_QUARANTINE: after a successful replay, or a known-answer pass that failed as a program's pass came, 2,048 idle cycles or the end of
the task quarantine the engine (R51, R398); one that was disabled meanwhile stays so (R22). -/
def execEngineIdleQuarantine (c : PCore) (e : Eng) (s : State) : Host.Outcome State Fault Refusal :=
  .next (match (s.eng c e).deferTest with
    | some d =>
      if s.engState c e = 6 then s
      else if (s.engIdle2048 c e || s.taskEnded c) && (s.eng c e).issued.isEmpty then
        let s := (s.abandonTest c e).onEng c e fun r => { r with deferTest := none }
        (s.quarantineAs 0 0x1 (engId c e) d.loc d.cause d.seqno).wr (opeBase c e) F.OPE_STATUS_STATE 5
      else s
    | none => s)

/-- A known-answer pass of an engine fails at a row and column: counted and recorded as corrected (R391, R396). -/
def State.katFails (s : State) (c : PCore) (e : Eng) (loc : Nat) : State :=
  (s.sat errBase F.ERR_IST_KAT_FAIL).errLog (errRec 0 0x1 (engId c e) loc 0x10 0x1D 0x2 3)

/-- KNOWN_ANSWER_PASS: starts on an engine idle for 2,048 cycles while IST_EN is set; a failure is recorded and quarantines the engine, after the
program's work where a program's pass had the test abandoned (R61, R386, R391, R398, R399). -/
def execKnownAnswerPass (c : PCore) (e : Eng) (ev : KatEvent) (s : State) : Host.Outcome State Fault Refusal :=
  let b := opeBase c e
  .next (match ev with
    | .start =>
      if s.on errBase F.ERR_CTRL_IST_EN ∧ s.engState c e = 0 ∧ s.engIdle2048 c e then
        ((s.wr b F.OPE_STATUS_STATE 7).sat errBase F.ERR_IST_KAT).onEng c e fun r => { r with testSince := some s.cycle, leftTest := false }
      else s
    | .clean =>
      if s.engState c e = 7 then (s.wr b F.OPE_STATUS_STATE 0).onEng c e fun r => { r with testSince := none }
      else s.onEng c e fun r => { r with leftTest := false }
    | .fail row col =>
      let loc := s.engLoc c e row.val col.val
      if s.engState c e = 7 then
        let s := (s.onEng c e fun r => { r with testSince := none }).katFails c e loc
        (s.quarantine 0 0x1 (engId c e) loc 0x1D).wr b F.OPE_STATUS_STATE 5
      else if (s.eng c e).leftTest then
        let s := s.katFails c e loc
        let d : DeferredTest := ⟨loc, 0x1D, s.rd errBase F.ERR_LOGPTR_SEQNO⟩
        s.onEng c e fun r => { r with leftTest := false, deferTest := r.deferTest.orElse fun _ => some d }
      else s)

end Sys2Proof.Machine
end

