-- ==== Sys2Proof/Machine/Random.lean ====
section
/-!
DEFINITION. Random streams: the counter of a position (R280), the word W of a key and position (R281), and the sources of a
core's seed and position (R282).
-/
namespace Sys2Proof.Machine

/-- A position: element, tile, layer, step (R280). -/
structure RngPos where
  elem  : Nat
  tile  : Nat
  layer : Nat
  step  : Nat
  deriving DecidableEq, Repr

/-- The counter words c0 to c3 of a position (R280). -/
def RngPos.words (p : RngPos) : Nat × Nat × Nat × Nat :=
  (p.elem % 2 ^ 32, p.tile % 2 ^ 32, p.layer % 2 ^ 12 + (p.step % 2 ^ 20) * 2 ^ 12, p.step / 2 ^ 20 % 2 ^ 28)

/-- The rounds of R281. -/
def rngRounds : Nat → Nat → Nat → Nat × Nat × Nat × Nat → Nat
  | 0, _, _, (c0, _, _, _) => c0
  | n + 1, k0, k1, (c0, c1, c2, c3) =>
    let p := 0xC8A14E6B * c0
    let q := 0xB5E39D27 * c2
    rngRounds n ((k0 + 0x7F4A7C15) % 2 ^ 32) ((k1 + 0xA54FF53B) % 2 ^ 32)
      ((q >>> 32) ^^^ c1 ^^^ k0, q % 2 ^ 32, (p >>> 32) ^^^ c3 ^^^ k1, p % 2 ^ 32)

/-- W of a seed, stream id and position (R281). -/
def rngWord (seed sid : Nat) (p : RngPos) : Nat :=
  rngRounds 10 (seed % 2 ^ 32) ((seed >>> 32) % 2 ^ 32 ^^^ ((sid % 2 ^ 16) * 2 ^ 16 + sid % 2 ^ 16)) p.words

/-- The word a core's drain or vector unit draws for a tile and element at a step and layer (R282). -/
def State.coreRng (s : State) (c : PCore) (sid step layer tile elem : Nat) : Nat :=
  rngWord (s.rd (coreBase c) F.SEQ_RNGSEED_SEED) sid ⟨elem, tile, layer, step⟩

/-- STEP and LAYER of `SEQ_RNGPOS` as they stand. -/
def State.rngStep (s : State) (c : PCore) : Nat := s.rd (coreBase c) F.SEQ_RNGPOS_STEP
@[inherit_doc State.rngStep] def State.rngLayer (s : State) (c : PCore) : Nat := s.rd (coreBase c) F.SEQ_RNGPOS_LAYER

end Sys2Proof.Machine
end

