-- ==== Sys2Proof/Machine/Memory.lean ====
section
/-!
DEFINITION. HBM: the interleave (R247 to R249), owner entries (R255, R262), reading and writing bytes with poison marks
(R246), dirty bits and captures (R267, R405), the failure of an epoch (R409), the snoop filter (R346), and requests on their
way to a picot (R253).
-/
namespace Sys2Proof.Machine

/-- One GiB. -/
def gib : Nat := 0x40000000
/-- A page of local HBM address (R262). -/
def pageSize : Nat := 0x200000
/-- Pages of local HBM address (R262). -/
def pageCount : Nat := 655360

/-! ### The interleave -/

/-- The stacks in the interleave, in ascending order (R249). -/
def State.stacksUp (s : State) : List Nat := (List.range 20).filter fun k => s.rdBit mmemBase F.HBM_MAP_STACKS_UP k

/-- The stack and stack offset of a local HBM address; none outside the mapped regions (R247, R249, R255). -/
def State.locate (s : State) (a : Nat) : Option (Nat × Nat) :=
  let n := s.rd mmemBase F.HBM_MAP_DIELOCAL
  let up := s.stacksUp
  let u := up.length
  let spot (l : List Nat) (rel base : Nat) : Option (Nat × Nat) :=
    let g := rel / 4096
    l[g % l.length]?.map fun k => (k, base + (g / l.length) * 4096 + rel % 4096)
  let g := a / gib
  if g < u * (64 - n) then spot up a 0
  else if g < 20 * (64 - n) ∨ n = 0 then none
  else
    let r := g - 20 * (64 - n)
    let l := up.filter fun k => k / 5 = r / (5 * n)
    if r / (5 * n) < 4 ∧ r % (5 * n) < l.length * n then spot l (r % (5 * n) * gib + a % gib) ((64 - n) * gib) else none

/-- The key of a byte in the stacks: stack × 2^36 + stack offset. -/
def State.hbmKey (s : State) (a : Nat) : Option Nat := (s.locate a).map fun (k, o) => k * 2 ^ 36 + o

/-- The stack of a local HBM address, as a number of a vector. -/
def State.stackOf (s : State) (a : Nat) : Option Stack :=
  match s.locate a with
  | some (k, _) => if h : k < 20 then some ⟨k, h⟩ else none
  | none => none

/-! ### Owners -/

/-- OWNER of a page: a partition, 0x10 unowned, 0x11 scrubbing (R262). -/
def State.ownerOf (s : State) (page : Nat) : Nat := SMap.get 0 s.mem.owners page % 32
/-- MIRROR of a page. -/
def State.mirrorBit (s : State) (page : Nat) : Bool := decide (SMap.get 0 s.mem.owners page / 32 = 1)
/-- Set a page's owner entry; `PRT_PSTAT`.PAGES follows (R262, R380). -/
def State.setOwner (s : State) (page owner : Nat) (mirror : Bool) : State :=
  let old := s.ownerOf page
  let s := if old < 16 then s.wr prtBase F.PRT_PSTAT_PAGES (s.rd prtBase F.PRT_PSTAT_PAGES old - 1) old else s
  let s := if owner < 16 then s.wr prtBase F.PRT_PSTAT_PAGES (s.rd prtBase F.PRT_PSTAT_PAGES owner + 1) owner else s
  { s with mem := { s.mem with owners := SMap.set 0 s.mem.owners page (owner + if mirror then 32 else 0) } }

/-- The owner check of R255 for a request of partition `p`; partition 0x10 stands for CXL.mem, which reaches every page of a
partition (R345), 0x11 for firmware and the mirroring units, which are not checked (R401). -/
def State.ownerOk (s : State) (p a : Nat) : Bool :=
  let o := s.ownerOf (a / pageSize)
  if p = 0x11 then true else if p = 0x10 then decide (o < 16) else decide (o = p)

/-! ### Mirroring: dirty bits, captures and the failure of an epoch -/

/-- The key of a page in a partition's bitmap. -/
def dirtyKey (p page : Nat) : Nat := p * 2 ^ 20 + page

/-- The pages of partition `p` in a bitmap. -/
def pagesIn (m : SMap Bool) (p : Nat) : List Nat := (m.filter fun e => e.1 / 2 ^ 20 = p).map fun e => e.1 % 2 ^ 20

/-- A write to a page sets its bit in its owner's current bitmap when MIRROR is set (R267). -/
def State.markDirty (s : State) (page : Nat) : State :=
  let o := s.ownerOf page
  if o < 16 && s.mirrorBit page then
    { s with mem := { s.mem with dirty := SMap.set false s.mem.dirty (dirtyKey o page) true } }
  else s

/-- Change what a partition's mirror holds. -/
def State.onMir (s : State) (p : Part) (f : MirRec → MirRec) : State := { s with mir := vupd s.mir p f }

/-- The key of a line that a partition's epoch has captured, and of a granule it has sent (page × 512 + granule). -/
def capKey (p line : Nat) : Nat := p * 2 ^ 35 + line
@[inherit_doc capKey] def sentKey (p gran : Nat) : Nat := p * 2 ^ 29 + gran

/-- Forget a partition's closing bitmap, its captures and what was sent of it. -/
def State.dropClosing (s : State) (p : Nat) : State :=
  { s with mem := { s.mem with
    closing := SMap.wipe (fun k => k / 2 ^ 20 = p) s.mem.closing
    captured := SMap.wipe (fun k => k / 2 ^ 35 = p) s.mem.captured
    granSent := SMap.wipe (fun k => k / 2 ^ 29 = p) s.mem.granSent } }

/-- Put the set of a partition's closing bitmap back into the current one (R409, R410). -/
def State.reopenClosing (s : State) (p : Nat) : State :=
  let pages := pagesIn s.mem.closing p
  let s := { s with mem := { s.mem with
    dirty := pages.foldl (fun m g => SMap.set false m (dirtyKey p g) true) s.mem.dirty } }
  s.dropClosing p

/-- An epoch fails (R409, R410): its status is recorded, its set returns to the current bitmap, the failure is counted and
PF0 vector 5 sent; `lost` is ACK_TIMEOUT, which enters STATE 5. -/
def State.epochFail (s : State) (p : Part) (status : Nat) : State :=
  let lost := decide (status = 0x11)
  match s.mir[p].epoch with
  | none => s
  | some e =>
    let s := s.wr mirBase F.MIR_COMMIT_LASTSTAT status p.val
    let s := s.wr mirBase F.MIR_LAST_SEAL_US (s.us - e.doneAt) p.val
    let s := (s.wr mirBase F.MIR_LAST2_PAGES e.pages.length p.val).wr mirBase F.MIR_LAST2_CAPTURED
      (min e.captures (2 ^ F.MIR_LAST2_CAPTURED.w - 1)) p.val
    let s := s.reopenClosing p.val
    let s := s.onMir p fun m => { m with epoch := none }
    let s := s.sat mirBase F.MIR_CNT_FAILS 1 p.val
    let s := if lost then s.sat mirBase F.MIR_CNT_LOST 1 p.val else s
    let s := s.wr mirBase F.MIR_STATE_STATE (if lost then 5 else 1) p.val
    s.msix 0 5

/-- The partitions whose closing epochs hold a page: two of them where a page moved while an epoch was in transit (R262, R405). -/
def State.closingOf (s : State) (page : Nat) : List Part :=
  (List.finRange 16).filter fun p => SMap.get false s.mem.closing (dirtyKey p.val page)

/-- The granule of a local address: page × 512 + granule. -/
def granuleOf (a : Nat) : Nat := a / 4096

/-- The granules of a partition's reserve pages that lie on a stack: the slots its picot may use (R401, R405). -/
def State.reserveSlots (s : State) (p : Part) (k : Nat) : Nat :=
  let b := s.rd mirBase F.MIR_RESBASE_BASE p.val
  let n := s.rd mirBase F.MIR_CFG_RESERVE p.val
  ((List.range (n * 512)).filter fun g => (s.locate (b * pageSize + g * 4096)).map Prod.fst = some k).length

/-- The slots in use at a stack: granules with captured lines that have not been sent. -/
def State.slotsUsed (s : State) (p : Part) (k : Nat) : List Nat :=
  (((s.mem.captured.filter fun e => decide (e.1 / 2 ^ 35 = p.val)).map fun e => e.1 % 2 ^ 35).filter fun l =>
    decide ((s.locate (l * 64)).map Prod.fst = some k)).map (· / 64) |>.eraseDups

/-- The bytes of a line, and whether it is marked. -/
def State.hbmBytes (s : State) (a n : Nat) : List Byte := (List.range n).map fun i => match s.hbmKey (a + i) with
  | some k => SMap.get 0 s.mem.bytes k
  | none => 0

/-- Whether any line of a range is poisoned (R246). -/
def State.hbmPoisoned (s : State) (a n : Nat) : Bool :=
  (linesOf a n).any fun l => match s.hbmKey (l * 64) with
    | some k => SMap.get false s.mem.poison (k / 64)
    | none => false

/-- The partitions for whose epochs a write to a line must capture it first: it is in the set, and neither sent nor captured yet (R405). -/
def State.captureDue (s : State) (line : Nat) : List Part :=
  if s.mem.closing.isEmpty then []
  else (s.closingOf (line / 32768)).filter fun p => !SMap.get false s.mem.granSent (sentKey p.val (line / 64)) &&
    !s.mem.captured.any fun e => e.1 = capKey p.val line

/-- A line is copied to the reserve of a partition; with no slot free its epoch fails with RESERVE_FULL (R405). -/
def State.captureFor (s : State) (line : Nat) (p : Part) : State :=
  match s.locate (line * 64) with
  | none => s
  | some (k, _) =>
    let used := s.slotsUsed p k
    if !used.contains (line / 64) && decide (used.length ≥ s.reserveSlots p k) then s.epochFail p 0x10
    else
      let s := { s with mem := { s.mem with
        captured := SMap.put (capKey p.val line) (s.hbmBytes (line * 64) 64, s.hbmPoisoned (line * 64) 64) s.mem.captured } }
      s.onMir p fun m => { m with epoch := m.epoch.map fun e => { e with captures := e.captures + 1 } }

/-- LINE_CAPTURE: the first write to an unsent line of a closing epoch is preceded by its copy to the reserve; with no slot
free the epoch fails with RESERVE_FULL and the write applies (R405). -/
def State.capture (s : State) (line : Nat) : State := (s.captureDue line).foldl (fun s p => s.captureFor line p) s

/-! ### Writing -/

/-- Set or clear the mark of the line that holds a local address (R246). -/
def State.markLine (s : State) (line : Nat) (b : Bool) : State :=
  match s.hbmKey (line * 64) with
  | some k => { s with mem := { s.mem with poison := SMap.set false s.mem.poison (k / 64) b } }
  | none => s

/-- Write bytes where nothing is captured or counted: the array itself. A write that covers a whole marked line clears its
mark; marked data marks every line it touches (R246, R384). -/
def State.hbmRaw (s : State) (a : Nat) (bs : List Byte) (poison : Bool) : State :=
  let n := bs.length
  let s := { s with mem := { s.mem with
    bytes := (bs.zipIdx).foldl (fun m (b, i) => match s.hbmKey (a + i) with
      | some k => SMap.set 0 m k b
      | none => m) s.mem.bytes } }
  (linesOf a n).foldl (fun s l =>
    if poison then s.markLine l true
    else if a ≤ l * 64 ∧ l * 64 + 64 ≤ a + n then s.markLine l false else s) s

/-- Write bytes by a picot: captures come first, and the pages become dirty (R267, R405). -/
def State.hbmWrite (s : State) (a : Nat) (bs : List Byte) (poison : Bool := false) : State :=
  let ls := linesOf a bs.length
  let s := ls.foldl (fun s l => s.capture l) s
  let s := s.hbmRaw a bs poison
  ((ls.map fun l => l / 32768).eraseDups).foldl (fun s g => s.markDirty g) s

/-- A little-endian number of HBM. -/
def State.hbmLE (s : State) (a n : Nat) : Nat := leNat (s.hbmBytes a n)

/-- Write a little-endian number of `n` bytes. -/
def State.hbmPutLE (s : State) (a n v : Nat) (poison : Bool := false) : State := s.hbmWrite a (leBytes n v) poison

/-! ### The snoop filter (R346) -/

/-- Whether the host has been granted a line. -/
def State.tracked (s : State) (line : Nat) : Bool := s.mem.filter.any fun e => e.1 = line

/-- Count the filter's entries in `CXL_SF`. -/
def State.sfCount (s : State) : State :=
  let n : Nat := s.mem.filter.length
  let s := s.wr cxlBase F.CXL_SF_INUSE n
  if n > s.rd cxlBase F.CXL_SF_PEAK then s.wr cxlBase F.CXL_SF_PEAK n else s

/-- Drop a line from the filter. -/
def State.untrack (s : State) (line : Nat) : State :=
  ({ s with mem := { s.mem with filter := s.mem.filter.filter fun e => e.1 ≠ line } }).sfCount

/-- Send a back-invalidate snoop for a line (BI_SNOOP; R346). -/
def State.snoop (s : State) (line : Nat) (inv : Bool) : State :=
  let s := (s.count cxlBase F.CXL_BISNP_COUNT).emit (.biSnoop line inv)
  { s with mem := { s.mem with snooped := (s.mem.snooped.filter fun e => e.line ≠ line) ++ [⟨line, s.us, inv, false⟩] } }

/-- The entries of the snoop filter (R346). -/
def filterSize : Nat := 262144

/-- Room for a grant: with the filter full, the line granted longest ago is back-invalidated, and the grant waits for its
answer; the state, and whether the grant may go on (R346). -/
def State.grantRoom (s : State) (line : Nat) : State × Bool :=
  if s.tracked line || decide (s.mem.filter.length < filterSize) then (s, true)
  else
    match s.mem.filter with
    | e :: _ => if s.mem.snooped.any (fun x => x.line = e.1) then (s, false) else (s.snoop e.1 true, false)
    | [] => (s, true)

/-- The host is granted a line (R346). -/
def State.grantLine (s : State) (line : Nat) : State :=
  if s.tracked line then s
  else ({ s with mem := { s.mem with filter := s.mem.filter ++ [(line, s.us)] } }).sfCount

/-- Before a request of a module unit applies to lines, each that the host holds must have been snooped and answered: the state
in which it may proceed, or the state that waits (R346). -/
def State.snoopGateL (s : State) (ls : List Nat) (inv : Bool) : State × Bool :=
  let need := ls.filter fun l => s.tracked l && !s.mem.snooped.any (fun e => e.line = l && (e.inv || !inv))
  if s.mem.snooped.any (fun e => ls.contains e.line && !e.answered) then (s, false)
  else if !need.isEmpty then (need.foldl (fun s l => s.snoop l inv) s, false)
  else ({ s with mem := { s.mem with snooped := s.mem.snooped.filter fun e => !ls.contains e.line } }, true)

/-- The same for a range of bytes. -/
def State.snoopGate (s : State) (a n : Nat) (inv : Bool) : State × Bool := s.snoopGateL (linesOf a n) inv

/-! ### Requests on their way (R253) -/

/-- Bytes a request covers, for the snoop gate and the owner check, and whether it changes them. -/
def MemReq.span (r : MemReq) : Nat × Bool :=
  match r.op with
  | .read n => (n, false)
  | .write bs _ => (bs.length, true)
  | .atomic op fmt vs _ => (vs.length * (if op = 0 then Fmt.width fmt / 8 else 8), true)
  | .atomicOver op fmt .. => (if op = 0 then Fmt.width fmt / 8 else 8, true)
  | .part d _ n _ _ => (n, decide (d.getD 0 0 % 16 ≠ 4))
  | .recRead => (64, false)
  | .recUpdate .. => (64, true)
  | .recCommit _ => (64, true)
  | .norm .. => (0, false)
  | .normFetch .. => (0, false)

/-- The words of a memory-side descriptor by field (R258). -/
structure MopF where
  op : Nat
  fmt : Nat
  space : Nat
  alg : Nat
  wcopy : Bool
  zeroG : Bool
  wrnd : Nat
  mask : Nat
  stream : Nat
  clear : Bool
  dst : Nat
  src : Nat
  len : Nat
  mom1 : Nat
  mom2 : Nat
  work : Nat
  tagW : Nat
  tagG : Nat
  tagU : Nat
  layer : Nat
  lr : Nat
  wd : Nat
  beta1 : Nat
  beta2 : Nat
  eps : Nat
  gscale : Nat
  step : Nat
  tile : Nat
  deriving DecidableEq, Repr

/-- Read the fields of a memory-side descriptor. -/
def mopF (d : List Nat) : MopF :=
  let w (i : Nat) := d.getD i 0
  { op := bits (w 0) 0 4, fmt := bits (w 0) 4 4, space := bits (w 0) 8 1, alg := bits (w 0) 9 2,
    wcopy := (w 0).testBit 11, zeroG := (w 0).testBit 12, wrnd := bits (w 0) 13 2, mask := bits (w 0) 15 3,
    stream := bits (w 0) 18 12, clear := (w 0).testBit 30,
    dst := w 1, src := w 2, len := bits (w 3) 0 40, mom1 := w 4, mom2 := w 5, work := w 6,
    tagW := bits (w 7) 0 12, tagG := bits (w 7) 16 12, tagU := bits (w 7) 32 12, layer := bits (w 7) 48 12,
    lr := bits (w 8) 0 32, wd := bits (w 8) 32 32, beta1 := bits (w 9) 0 32, beta2 := bits (w 9) 32 32,
    eps := bits (w 10) 0 32, gscale := bits (w 10) 32 32, step := w 11, tile := bits (w 12) 0 32 }

/-- The width in bytes of an element of DST. -/
def MopF.width (m : MopF) : Nat :=
  match m.op with
  | 1 => 8
  | 2 => 8
  | 3 => 4
  | 5 => 1
  | 6 => 32
  | _ => Fmt.width m.fmt / 8

/-- The indices of the elements that begin in the `len` bytes of DST from `off` on (log entry 34). -/
def MopF.elems (m : MopF) (off len : Nat) : List Nat :=
  let i0 := ceilDiv off m.width
  (List.range (ceilDiv (off + len) m.width - i0)).map (· + i0)

/-- The bytes of DST those elements cover: the first, and how many. -/
def MopF.cover (m : MopF) (off len : Nat) : Nat × Nat :=
  let i0 := ceilDiv off m.width
  (i0 * m.width, (ceilDiv (off + len) m.width - i0) * m.width)

/-- The norm tags an operation names (R258, R263). -/
def MopF.tags (f : MopF) : List Nat :=
  match f.op with
  | 3 => ([(0, f.tagW), (1, f.tagG), (2, f.tagU)].filter fun t => f.mask.testBit t.1).map Prod.snd
  | 4 => [f.tagW]
  | _ => []

/-- The arrays of an optimiser step that have a placement rule (R261). -/
def MopF.arrays (f : MopF) : List Nat :=
  [f.dst, f.src] ++ (if f.alg = 0 then [] else [f.mom1]) ++ (if f.alg = 2 then [f.mom2] else [])

/-- The local HBM address of a device virtual address of a partition, where it lies in this module's HBM. -/
def State.localOf (s : State) (p a : Nat) : Option Nat :=
  match s.translate p a with
  | some (false, pa) => if (s.locate pa).isSome then some pa else none
  | _ => none

/-- Whether the module ID of a global address names this module (R6). An address that names 0xFFFE, which R6 reserves, is taken as this
module's while `BRD_MODID`.ID still holds its reset value 0xFFFE (log entry 85). -/
def State.isHere (s : State) (a : Nat) : Bool := decide (a >>> 48 % 65536 = 0xFFFF) || decide (a >>> 48 % 65536 = s.modId)

/-- The local HBM address a 64-bit address of a partition's program leads to; none where it names another module (R6, R226). -/
def State.hereOf (s : State) (p a : Nat) : Option Nat := if s.isHere a then s.localOf p (a % 2 ^ 48) else none

/-- The lines of HBM that `n` bytes from a device virtual address of a partition touch; `none` among them where a byte leads to no HBM of this
module. -/
def State.vaLines (s : State) (p a n : Nat) : List (Option Nat) :=
  ((linesOf a n).flatMap fun l =>
    [max a (l * 64), min (a + n - 1) (l * 64 + 63)].map fun x => (s.localOf p x).map (· / 64)).eraseDups

/-- The lines of HBM a request touches; a part touches those of every array it reads or writes but its working copy, which is written by
requests of its own (R253, R261, R346). -/
def State.reqSpots (s : State) (r : MemReq) : List (Option Nat) :=
  match r.op with
  | .part d off len _ _ =>
    let f := mopF d
    let g := f.cover off len
    (if f.op = 3 then f.arrays else [f.dst]).flatMap fun b => s.vaLines r.part (b + g.1) g.2
  | .norm .. | .normFetch .. => []
  | .atomicOver _ _ _ _ rest => [some (r.addr / 64), some (rest / 64)]
  | _ => (linesOf r.addr r.span.1).map some
@[inherit_doc State.reqSpots] def State.reqLines (s : State) (r : MemReq) : List Nat := (s.reqSpots r).filterMap id

/-- Whether the partition of a request owns every page it touches, and every byte of it lies in HBM here (R255). -/
def State.reqOwned (s : State) (r : MemReq) : Bool := (s.reqSpots r).all fun l => match l with
  | some l => s.ownerOk r.part (l * 64)
  | none => false

/-- Whether a request waits for the host's answer to a snoop (R346). -/
def State.reqHeld (s : State) (r : MemReq) : Bool :=
  match r.src with
  | .host _ line true => !s.tracked line && decide (filterSize ≤ s.mem.filter.length) && (match s.mem.filter with
    | e :: _ => s.mem.snooped.any fun x => x.line = e.1
    | [] => false)
  | .host _ _ false => false
  | _ =>
    let ls := s.reqLines r
    (s.reqOwned r) && s.mem.snooped.any fun e => ls.contains e.line && !e.answered

/-- The requests of a list that are in the replay queue: those with an earlier one of their line before them, which `seen` begins with, and
those that wait for a snoop's answer (R254, R346). -/
def State.replayCount (s : State) (seen : List Nat) : List MemReq → Nat
  | [] => 0
  | r :: l =>
    let ls := s.reqLines r
    (if ls.any seen.contains || s.reqHeld r then 1 else 0) + s.replayCount (ls ++ seen) l

/-! ### Arrival at a picot (R253, R254) -/

/-- The picot cycle at which the module stands: a sixth of the root clock (R457). -/
def State.picotCycle (s : State) : Nat := s.ticks / 6

/-- A number for the unit that sends a request. -/
def MemSrc.unit : MemSrc → Nat
  | .bobbin c b _ => c * 2 + b
  | .drain c e => 128 + c * 4 + e
  | .work c b _ => 384 + c * 2 + b
  | .host .. => 512
  | .hostNorm => 513
  | .firmware => 514
  | .link .. => 515

/-- The input channel of a stack's picot on which a request arrives (R253): which one is the pricking's, so it is free (log entry 101). -/
def MemReq.channel (r : MemReq) (k : Stack) : Nat := Config.inputChannel k.val r.src.unit % 6

/-- The channels of a picot that are stopped: those on which a request waits (R254). -/
def State.stopped (s : State) (k : Stack) : List Nat := s.arrivals[k].waiting.map fun r => r.channel k

/-- The channels of the requests that have arrived at a picot in this picot cycle. -/
def State.inCycle (s : State) (k : Stack) : List Nat := if s.arrivals[k].cycle = s.picotCycle then s.arrivals[k].chans else []

/-- A bobbin's request joins those that have arrived at its stack (R212). -/
def MemSrc.arrive (m : MemSrc) (l : List MemSrc) : List MemSrc :=
  match m with
  | .bobbin .. => (l.filter fun x => decide (x ≠ m)) ++ [m]
  | _ => l

/-- A request takes its arrival position: after all of earlier picot cycles, and after those of this one on its channel or a lower one (R253). -/
def State.place (s : State) (k : Stack) (r : MemReq) : State :=
  let cs := s.inCycle k
  let j := (cs.takeWhile fun c => decide (c ≤ r.channel k)).length
  { s with
    memReqs := vupd s.memReqs k fun l => l.insertIdx (l.length - cs.length + j) r
    arrivals := vupd s.arrivals k fun a => { a with
      cycle := s.picotCycle
      chans := cs.insertIdx j (r.channel k)
      order := r.src.arrive a.order } }

/-- Whether a request would enter the replay queue of a stack while its 256 places are taken (R254). -/
def State.queueFull (s : State) (k : Stack) (r : MemReq) : Bool :=
  let busy := s.memReqs[k].flatMap s.reqLines
  (s.reqLines r).any busy.contains && decide (256 ≤ s.replayCount [] s.memReqs[k])

/-- A request reaches a picot: it takes its arrival position, or waits where its channel is stopped or stops with it (R253, R254). -/
def State.accept (s : State) (k : Stack) (r : MemReq) : State :=
  if (s.stopped k).contains (r.channel k) || s.queueFull k r then
    { s with arrivals := vupd s.arrivals k fun a => { a with waiting := a.waiting ++ [r] } }
  else s.place k r

/-- The requests at a picot's stopped channels arrive as far as there is room (R254). -/
def State.letIn (s : State) (k : Stack) : State :=
  let w := s.arrivals[k].waiting
  if w.isEmpty then s
  else w.foldl (fun s r => s.accept k r) { s with arrivals := vupd s.arrivals k fun a => { a with waiting := [] } }

/-- `MSE_STATUS` and `MSE_REPLAYPEAK` follow the requests of a stack: REPLAYQ, and CHSTOP for the stopped channels (R254, R270). -/
def State.replayShow (s : State) (k : Stack) : State :=
  let n := s.replayCount [] s.memReqs[k]
  let s := s.wr (mseBase k) F.MSE_STATUS_REPLAYQ n
  let s := s.wr (mseBase k) F.MSE_STATUS_CHSTOP ((s.stopped k).foldl (fun m c => m ||| 2 ^ c) 0)
  if n > s.rd (mseBase k) F.MSE_REPLAYPEAK_PEAK then s.wr (mseBase k) F.MSE_REPLAYPEAK_PEAK n else s

/-- Send a request to the picot of a local address; nothing happens where no stack holds it (R255). -/
def State.memSend (s : State) (r : MemReq) : State :=
  match s.stackOf r.addr with
  | some k => (s.accept k r).replayShow k
  | none => s

/-- Send a norm update to the picot that holds a tag (R263, R264). -/
def State.normSend (s : State) (r : MemReq) (tag : Nat) : State :=
  let k : Stack := ⟨tag % 20, Nat.mod_lt _ (by omega)⟩
  (s.accept k r).replayShow k

/-- A unit refuses a request at issue, as an owner refusal, where no mapped stack holds its address (R255). -/
def State.mapped (s : State) (a : Nat) : Bool := (s.stackOf a).isSome

end Sys2Proof.Machine
end

