-- ==== Sys2Proof/Machine/Picot.lean ====
section
/-!
DEFINITION. The picots and stack controllers: requests applied in arrival position (R246, R253 to R255), atomics (R256, R257),
parts of memory-side operations (R258 to R261), the norm table (R263 to R265), scale records (R85 to R88, R266), owner changes
(R262), patrol, refresh and retirement (R244, R250 to R252), and responses (R212).
-/
namespace Sys2Proof.Machine

/-! ### Scale records (R85 to R88) -/

/-- The fields of a scale record at a local address (R85). -/
structure ScaleRec where
  amax   : List Nat
  scale  : Nat
  fmt    : Nat
  margin : Nat
  ptr    : Nat
  len    : Nat
  valid  : Bool
  frozen : Bool
  tag    : Nat
  deriving DecidableEq, Repr

/-- Read a record. -/
def State.scaleRec (s : State) (a : Nat) : ScaleRec where
  amax := (List.range 16).map fun i => s.hbmLE (a + 2 * i) 2
  scale := s.hbmLE (a + 32) 1
  fmt := s.hbmLE (a + 33) 1 % 16
  margin := s.hbmLE (a + 33) 1 / 16 % 8
  ptr := s.hbmLE (a + 34) 1 % 16
  len := s.hbmLE (a + 34) 1 / 16
  valid := (s.hbmLE (a + 35) 1).testBit 0
  frozen := (s.hbmLE (a + 35) 1).testBit 1
  tag := s.hbmLE (a + 40) 2 % 4096

/-- Whether updates and commits of a record apply: VALID is set and FMT lies in 0x4–0xC (R87). -/
def ScaleRec.ok (r : ScaleRec) : Bool := r.valid && decide (4 ≤ r.fmt) && decide (r.fmt ≤ 0xC)

/-- Whether one BF16 pattern of the amax history is greater than another: non-negative patterns order as numbers (R86). -/
def amaxMax (a b : Nat) : Nat := if (Fmt.decode 3 a).lt (Fmt.decode 3 b) then b else a

/-- An update applies (R86): amax into the current entry, overflows added with saturation, NAN_SEEN. -/
def State.recUpdate (s : State) (a amax ovf : Nat) (nan : Bool) : State :=
  let r := s.scaleRec a
  let s := s.hbmPutLE (a + 2 * r.ptr) 2 (amaxMax (r.amax.getD r.ptr 0) amax)
  let s := s.hbmPutLE (a + 36) 4 (satAdd 32 (s.hbmLE (a + 36) 4) ovf)
  if nan then s.hbmPutLE (a + 35) 1 (putBit (s.hbmLE (a + 35) 1) 2 true) else s

/-- The largest of the HIST_LEN entries that end at HIST_PTR, counting back modulo 16 (R88). -/
def ScaleRec.histMax (r : ScaleRec) : Nat :=
  (List.range (if r.len = 0 then 16 else r.len)).foldl (fun h i => amaxMax h (r.amax.getD ((r.ptr + 16 - i) % 16) 0)) 0

/-- SCALE after a commit (R88): 127 + ceil(log2(h ÷ max_FMT)) + MARGIN clamped, where FROZEN is 0 and h > 0. -/
def ScaleRec.nextScale (r : ScaleRec) : Nat :=
  match Fmt.decode 3 r.histMax with
  | .fin _ m e =>
    if r.frozen ∨ m = 0 then r.scale
    else
      let mx := Fmt.maxFin r.fmt
      -- ceil(log2(m·2^e ÷ (M·2^f))): the least k with m·2^e ≤ M·2^(f + k)
      let g : Int := floorLog2 m e - floorLog2 mx.1 mx.2
      let k : Int := if ltMag (mx.1) (mx.2 + g) m e then g + 1 else if ltMag (mx.1) (mx.2 + g - 1) m e then g else g - 1
      (127 + max (-127) (min 127 (k + r.margin))).toNat
  | .inf _ => if r.frozen then r.scale else 254
  | .nan => r.scale

/-- A commit applies (R88): SCALE, the next entry cleared, HIST_PTR advanced, STEP. -/
def State.recCommit (s : State) (a step : Nat) : State :=
  let r := s.scaleRec a
  let p := (r.ptr + 1) % 16
  let s := s.hbmPutLE (a + 32) 1 r.nextScale
  let s := s.hbmPutLE (a + 34) 1 (p + r.len * 16)
  let s := s.hbmPutLE (a + 2 * p) 2 0
  s.hbmPutLE (a + 48) 8 step

/-! ### The norm table (R263 to R265) -/

/-- An entry that has taken no update. -/
def NormEnt.zero : NormEnt := ⟨0, 0, 0, 0, 0⟩

/-- The entry of a tag. -/
def State.normEnt (s : State) (tag : Nat) : NormEnt := SMap.get NormEnt.zero s.mem.norms tag

/-- Set the entry of a tag. -/
def State.setNorm (s : State) (tag : Nat) (e : NormEnt) : State :=
  { s with mem := { s.mem with norms := SMap.set NormEnt.zero s.mem.norms tag e } }

/-- The 32 bytes of an entry (R263). -/
def NormEnt.bytes (e : NormEnt) : List Byte :=
  leBytes 8 e.sumSq.toNat ++ leBytes 8 e.count ++ leBytes 4 e.amax ++ leBytes 4 e.nonfin ++ leBytes 4 e.updates ++ leBytes 4 0

/-- Whether a tag lies in a partition's range; CXL and firmware use every tag (R263, R265). -/
def State.tagOk (s : State) (p tag : Nat) : Bool :=
  decide (tag < 4096) && (decide (p ≥ 16) || (decide (s.rd mmemBase F.MSE_NORMRANGE_BASE p ≤ tag) &&
    decide (tag < s.rd mmemBase F.MSE_NORMRANGE_BASE p + s.rd mmemBase F.MSE_NORMRANGE_COUNT p)))

/-- A pattern of a magnitude rounded toward +∞ to FP32 (R263). -/
def fp32Up (x : Num) : Nat :=
  match x with
  | .fin _ m e =>
    if m = 0 then 0
    else
      let t := roundFlt 23 127 1 0 m e
      let m' := if ltMag t.1 t.2 m e then t.1 + 1 else t.1
      if ltMag (Fmt.maxFin 1).1 (Fmt.maxFin 1).2 m' t.2 then 0x7F800000 else encodeFlt 8 23 127 false m' t.2
  | _ => 0

/-- An update applies to an entry (R264). -/
def NormEnt.add (e : NormEnt) (sumSq finite nonfin amax : Nat) : NormEnt where
  sumSq := BitVec.ofNat 48 (Fmt.rne 2 ((Fmt.decode 2 e.sumSq.toNat).add (Fmt.decode 2 sumSq)))
  count := (e.count + finite) % 2 ^ 64
  amax := if (Fmt.decode 1 e.amax).lt (Fmt.decode 1 amax) then amax else e.amax
  nonfin := satAdd 32 e.nonfin nonfin
  updates := satAdd 32 e.updates 1

/-- What one unit gathers for a norm update (R111, R264): the sum of squares, the counts, the largest finite magnitude. -/
structure NormSum where
  sum    : Num
  finite : Nat
  nonfin : Nat
  amax   : Num
  deriving DecidableEq, Repr

/-- Nothing gathered. -/
def NormSum.zero : NormSum := ⟨.fin false 0 0, 0, 0, .fin false 0 0⟩

/-- Gather one value in order: its square rounded once to AF48, then added with RNE; infinities and NaNs are only counted. -/
def NormSum.take (n : NormSum) (x : Num) : NormSum :=
  if x.isFin then
    { n with sum := (n.sum.add (x.mul x).af48).af48, finite := n.finite + 1, amax := n.amax.max x.abs }
  else { n with nonfin := n.nonfin + 1 }

/-- Gather a value, or one of a marked line, which is skipped and counted with the non-finite ones (R384). -/
def NormSum.takeIf (n : NormSum) (bad : Bool) (x : Num) : NormSum := if bad then { n with nonfin := n.nonfin + 1 } else n.take x

/-- The update of what was gathered, for a tag. -/
def NormSum.op (n : NormSum) (tag : Nat) : MemOp := .norm tag (Fmt.rne 2 n.sum) n.finite n.nonfin (fp32Up n.amax)

/-! ### Requests and responses -/

/-- The oldest request of a stack. -/
def State.front (s : State) (k : Stack) : Option MemReq := s.memReqs[k].head?

/-- Whether the `i`-th request of a stack arrived before the GO of the running owner change (R262). -/
def State.isEarly (s : State) (k : Stack) (i : Nat) : Bool := s.mem.ownCmd.any fun o => decide (i < o.early[k])

/-- Take the `i`-th request of a stack. -/
def State.popReq (s : State) (k : Stack) (i : Nat) : State :=
  let s := if s.isEarly k i then
      { s with mem := { s.mem with ownCmd := s.mem.ownCmd.map fun o => { o with early := vupd o.early k (· - 1) } } }
    else s
  let n := s.memReqs[k].length - s.arrivals[k].chans.length
  let s := if i < n then s
    else { s with arrivals := vupd s.arrivals k fun a => { a with chans := a.chans.eraseIdx (i - n) } }
  (({ s with memReqs := vupd s.memReqs k fun l => l.eraseIdx i }).letIn k).replayShow k

/-- Do `run` with the owner entries as they stood at a request's arrival: those before the GO of the running owner change for one that arrived
earlier (R255, R262, R268). -/
def State.atArrival (s : State) (early : Bool) (run : State → State) : State :=
  match s.mem.ownCmd with
  | some o =>
    if early then
      let t := run { s with mem := { s.mem with owners := o.was } }
      { t with mem := { t.mem with owners := s.mem.owners } }
    else run s
  | none => run s

/-- `HBM_RBUF` follows the reorder buffer of a stack's controller: a flit for each 128 B of a response (R198, R211, R269). -/
def State.bufferShow (s : State) (k : Stack) : State :=
  let n := (s.memResps[k].map fun r => max 1 (ceilDiv r.data.length 128)).sum
  if n > s.rd (hbmBase k) F.HBM_RBUF_PEAK then s.wr (hbmBase k) F.HBM_RBUF_PEAK (min n 4096) else s

/-- Answer a request, when its sender waits for an answer: a bobbin, the host, a link complex, or a drain that reads its
scale record (R86, R212). -/
def State.answer (s : State) (k : Stack) (r : MemReq) (data : List Byte) (poison : Bool) (status : Nat) : State :=
  let send : Bool := match r.src, r.op with
    | .firmware, _ => false
    | .drain .., .recRead => true
    | .drain .., _ => decide (status ≠ 0)
    | .work .., _ => false
    | _, _ => true
  match r.src with
  | .work c b tag =>
    -- the write of a working copy answers to its part: a refused one gives the part its status (R255, R259)
    if status = 0 then s
    else { s with memResps := s.memResps.map fun l => l.map fun x => if x.dst = .bobbin c b tag then { x with status := status } else x }
  | _ =>
  if send then ({ s with memResps := vupd s.memResps k fun l => l ++ [(⟨r.src, data, poison, status⟩ : MemResp)] }).bufferShow k else s

/-- A refused CXL.mem request is recorded as a refused access that carries no partition's authority (R342, R345). -/
def State.memReject (s : State) (write : Bool) (addr : Nat) : State :=
  let s := (s.wr cxlBase F.CXL_AUTHREJ_FUNC 0).wr cxlBase F.CXL_AUTHREJ_KIND (if write then 4 else 3)
  let s := (s.wr cxlBase F.CXL_AUTHREJ_PART 0x10).wr cxlBase F.CXL_AUTHADDR_ADDR addr
  s.sat cxlBase F.CXL_AUTHCNT_COUNT

/-- A refusal under R255: not applied, recorded; status 1; a refused read of the host returns zeros with poison (R345). -/
def State.ownerRefuse (s : State) (k : Stack) (r : MemReq) : State :=
  let b := mseBase k
  let s := (s.setOn b F.MSE_ERR_OWNER).sat b F.MSE_ERRCNT_OWNER_CNT
  match r.src, r.op with
  | .host .., .read n => (s.memReject false r.addr).answer k r (List.replicate n 0) true 1
  | .host .., _ => (s.memReject true r.addr).answer k r [] false 1
  | _, _ => s.answer k r [] false 1

/-- The stack page of a local address. -/
def State.stackPage (s : State) (a : Nat) : Nat := match s.locate a with
  | some (_, o) => o / pageSize
  | none => 0

/-- The effect of a line's ECC outcome (R246, R251). -/
def State.lineEcc (s : State) (k : Stack) (a : Nat) (ecc : LineEcc) : State :=
  let b := hbmBase k
  let off := match s.locate a with | some (_, o) => o | none => 0
  let place (s : State) (unc : Nat) : State := (s.wr b F.HBM_ECC_ADDR_OFFSET off).wr b F.HBM_ECC_ADDR_UNCORR unc
  let bump (s : State) : State := { s with mem := { s.mem with perStack := vupd s.mem.perStack k fun t =>
    { t with corr := SMap.set 0 t.corr (off / pageSize) (SMap.get 0 t.corr (off / pageSize) + 1) } } }
  match ecc with
  | .clean => s
  | .corrected =>
    let s := bump (place (s.sat b F.HBM_ECC_CORR) 0)
    s.errLog (errRec 0 0x9 k.val (off / pageSize) 0x10 0x01 0x1 0 a)
  | .reread =>
    let s := place (s.sat b F.HBM_ECC_REREAD) 0
    s.errLog (errRec 0 0x9 k.val (off / pageSize) 0x10 0x09 0x1 0 a)
  | .lost =>
    let s := place ((s.sat b F.HBM_ECC_REREAD).sat b F.HBM_ECC_UNCORR) 1
    let s := s.markLine (a / 64) true
    s.errLog (errRec 1 0x9 k.val (off / pageSize) 0x10 0x0A 0x1 0 a)

/-- What the reads of lines one after another find: an outcome for each in order, none where none is given (R246). -/
def State.linesEcc (s : State) (lines : List Nat) (ecc : List LineEcc) : State :=
  (lines.zip ecc).foldl (fun s x => match s.stackOf (x.1 * 64) with
    | some k => s.lineEcc k (x.1 * 64) x.2
    | none => s) s

/-! ### Whose turn it is (R253, R254) -/

/-- The norm tag a request names. -/
def MemReq.normTag (r : MemReq) : Option Nat :=
  match r.op with
  | .norm tag .. => some tag
  | .normFetch tag _ => some tag
  | _ => none

/-- The index of the first request of a list, from `i` on, that waits for nothing and has no earlier one of its lines or its norm
entry before it (R253, R254). -/
def State.turnFrom (s : State) (seen tags : List Nat) (i : Nat) : List MemReq → Option Nat
  | [] => none
  | r :: l =>
    let ls := s.reqLines r
    let free := !ls.any seen.contains && (match r.normTag with
      | some t => !tags.contains t
      | none => true)
    if free && !s.reqHeld r then some i
    else s.turnFrom (ls ++ seen) (r.normTag.toList ++ tags) (i + 1) l

/-- The request a picot applies next: the oldest that waits for nothing; one held back lets requests of other lines pass (R254). -/
def State.turn (s : State) (k : Stack) : Option Nat := s.turnFrom [] [] 0 s.memReqs[k]

/-- Apply the request of a stack whose turn it is when `want` holds of it: the owner check, the snoop gate, then `run` (R253 to R255,
R346). A host request is not snooped for: its own line. -/
def State.applyFront (s : State) (k : Stack) (want : MemOp → Bool) (run : State → MemReq → State) : State :=
  match s.turn k with
  | none => s
  | some i =>
    match s.memReqs[k][i]? with
    | none => s
    | some r =>
      if !want r.op then s
      else
        s.atArrival (s.isEarly k i) fun s =>
          if !s.reqOwned r then (s.popReq k i).ownerRefuse k r
          else
            let g := match r.src with
              | .host _ line grant => if grant then s.grantRoom line else (s, true)
              | _ => s.snoopGateL (s.reqLines r) r.span.2
            if g.2 then run (g.1.popReq k i) r else g.1.replayShow k

/-- An operation or update that names a norm tag outside its partition's range is discarded and counted (R263). -/
def State.tagError (s : State) (k : Stack) : State := (s.setOn (mseBase k) F.MSE_ERR_TAG).sat (mseBase k) F.MSE_ERRCNT_OTHER_CNT

/-! ### Reads, writes and fetches -/

/-- The lines that a write of `n` bytes reads: those it covers in part, whose code it forms anew, and those an epoch captures (R246, R405; log
entry 77). -/
def State.writeReads (s : State) (a n : Nat) : List Nat :=
  (linesOf a n).filter fun l => decide (l * 64 < a ∨ a + n < l * 64 + 64) || !(s.captureDue l).isEmpty

/-- PICOT_REQUEST_APPLY: a read, write, record read or norm fetch whose turn it is at a stack's picot is applied
(R253, R254, R265); `ecc` is what the reads of its lines find. -/
def execPicotRequestApply (k : Stack) (ecc : List LineEcc) (s : State) : Host.Outcome State Fault Refusal :=
  let want : MemOp → Bool := fun
    | .read _ => true | .write .. => true | .recRead => true | .normFetch .. => true
    | _ => false
  .next (s.applyFront k want fun s r =>
    match r.op with
    | .read n =>
      let s := s.linesEcc (s.reqLines r) ecc
      let s := match r.src with
        | .host _ line true => s.grantLine line
        | _ => s
      s.answer k r (s.hbmBytes r.addr n) (s.hbmPoisoned r.addr n) 0
    | .write bs poison => ((s.linesEcc (s.writeReads r.addr bs.length) ecc).hbmWrite r.addr bs poison).answer k r [] false 0
    | .recRead =>
      let s := s.linesEcc (s.reqLines r) ecc
      if s.hbmPoisoned r.addr 64 then
        let s := s.setOn (mseBase k) F.MSE_ERR_POISON
        s.answer k r (s.hbmBytes r.addr 64) true 2
      else s.answer k r (s.hbmBytes r.addr 64) false 0
    | .normFetch tag clear =>
      if s.tagOk r.part tag then
        let s := s.answer k r (s.normEnt tag).bytes false 0
        if clear then s.setNorm tag NormEnt.zero else s
      else
        (s.tagError k).answer k r [] false 0
    | _ => s)

/-! ### Atomics (R256, R257) -/

/-- Whether an arriving pair replaces a stored one (R257): greater under max, smaller under min; ties and NaNs never; a
stored NaN always yields to a value. -/
def pairBeats (isMax isF : Bool) (new old : Nat) : Bool :=
  let num (v : Nat) : Num := if isF then Fmt.decode 1 (v % 2 ^ 32) else Num.ofInt (signed 32 v)
  let a := num new
  let b := num old
  !a.isNan && (b.isNan || (if isMax then b.lt a else a.lt b))

/-- A stored element after an atomic of operation `op` (0 add, 1 max, 2 min) and format `fmt` with value `v`, and whether an
INT32 sum saturated (R256). -/
def atomicValue (op fmt old v : Nat) : Nat × Bool :=
  match op with
  | 0 =>
    if fmt = 0xD then
      let t := signed 32 old + signed 32 v
      let c := max (-(2 ^ 31 : Int)) (min t (2 ^ 31 - 1))
      (unsignedOf 32 c, decide (c ≠ t))
    else (Fmt.rne fmt ((Fmt.decode fmt old).add (Fmt.decode fmt v)), false)
  | 1 => (if pairBeats true (decide (fmt = 1)) v old then v else old, false)
  | _ => (if pairBeats false (decide (fmt = 1)) v old then v else old, false)

/-- The bytes of an element of an atomic. -/
def atomicWidth (op fmt : Nat) : Nat := if op = 0 then Fmt.width fmt / 8 else 8

/-- Apply an atomic to one element of HBM; marked data marks the target's lines (R256, R384). -/
def State.atomicAt (s : State) (k : Stack) (op fmt a v : Nat) (poison : Bool) : State :=
  let w := atomicWidth op fmt
  let r := atomicValue op fmt (s.hbmLE a w) v
  let bad := poison || s.hbmPoisoned a w
  let s := s.hbmPutLE a w r.1 bad
  let s := if bad then s.setOn (mseBase k) F.MSE_ERR_POISON else s
  if r.2 then s.setOn (mseBase k) F.MSE_ERR_SAT else s

/-- Apply an atomic to an element whose bytes past its 4 KiB granule lie from `rest` on (R114, R256). -/
def State.atomicOver (s : State) (k : Stack) (op fmt a rest v : Nat) (poison : Bool) : State :=
  let w := atomicWidth op fmt
  let n := min w (4096 - a % 4096)
  let r := atomicValue op fmt (leNat (s.hbmBytes a n ++ s.hbmBytes rest (w - n))) v
  let bad := poison || s.hbmPoisoned a n || s.hbmPoisoned rest (w - n)
  let bs := leBytes w r.1
  let s := (s.hbmWrite a (bs.take n) bad).hbmWrite rest (bs.drop n) bad
  let s := if bad then s.setOn (mseBase k) F.MSE_ERR_POISON else s
  if r.2 then s.setOn (mseBase k) F.MSE_ERR_SAT else s

/-- ATOMIC_APPLY: the request whose turn it is at a stack is an atomic, of MATOM, of a drain row or of another module; its elements
apply in order (R256); `ecc` is what the reads of its lines find (R246). -/
def execAtomicApply (q : Served) (s : State) : Host.Outcome State Fault Refusal :=
  let want : MemOp → Bool := fun
    | .atomic .. => true
    | .atomicOver .. => true
    | _ => false
  .next (s.applyFront q.stack want fun s r =>
    match r.op with
    | .atomic op fmt vals poison =>
      let w := atomicWidth op fmt
      let s := s.linesEcc (s.reqLines r) q.ecc
      let s := vals.zipIdx.foldl (fun s (v, i) => s.atomicAt q.stack op fmt (r.addr + i * w) v poison) s
      (s.count (mseBase q.stack) F.MSE_ATOMICS_COUNT vals.length).answer q.stack r [] false 0
    | .atomicOver op fmt v poison rest =>
      let s := (s.linesEcc (s.reqLines r) q.ecc).atomicOver q.stack op fmt r.addr rest v poison
      (s.count (mseBase q.stack) F.MSE_ATOMICS_COUNT).answer q.stack r [] false 0
    | _ => s)

/-! ### The parts of memory-side operations (R258 to R261) -/

/-- Bytes of a partition's device virtual addresses, and whether a line of theirs is marked. -/
def State.vaBytes (s : State) (p a n : Nat) : List Byte := (List.range n).map fun i => match s.localOf p (a + i) with
  | some l => (s.hbmBytes l 1).headD 0
  | none => 0
@[inherit_doc State.vaBytes] def State.vaPois (s : State) (p a n : Nat) : Bool := (List.range n).any fun i => match s.localOf p (a + i) with
  | some l => s.hbmPoisoned l 1
  | none => false

/-- Write bytes at a partition's device virtual addresses; marked data marks its lines. -/
def State.vaWrite (s : State) (p a : Nat) (bs : List Byte) (poison : Bool) : State :=
  bs.zipIdx.foldl (fun s (b, i) => match s.localOf p (a + i) with
    | some l => s.hbmWrite l [b] poison
    | none => s) s

/-- One element of an array of a partition. -/
def State.arrLE (s : State) (p base i w : Nat) : Nat := leNat (s.vaBytes p (base + i * w) w)
/-- Write one element of an array; an element of a marked line stays marked. -/
def State.arrPut (s : State) (p base i w v : Nat) (poison : Bool) : State :=
  s.vaWrite p (base + i * w) (leBytes w v) (poison || s.vaPois p (base + i * w) w)
/-- Whether a line of an element of an array is marked. -/
def State.arrPois (s : State) (p base i w : Nat) : Bool := s.vaPois p (base + i * w) w

/-- Apply an atomic to element `i` of a partition's array (R260). -/
def State.atomicEl (s : State) (k : Stack) (p op fmt base i v : Nat) (poison : Bool) : State :=
  let w := atomicWidth op fmt
  let r := atomicValue op fmt (s.arrLE p base i w) v
  let bad := poison || s.arrPois p base i w
  let s := s.arrPut p base i w r.1 bad
  let s := if bad then s.setOn (mseBase k) F.MSE_ERR_POISON else s
  if r.2 then s.setOn (mseBase k) F.MSE_ERR_SAT else s

/-- A power with a whole exponent, exact (R261). -/
def numPow (x : Num) (t : Nat) : Num :=
  match x with
  | .nan => if t = 0 then .fin false 1 0 else .nan
  | .inf s => if t = 0 then .fin false 1 0 else .inf (s && decide (t % 2 = 1))
  | .fin s m e => .fin (s && decide (t % 2 = 1)) (m ^ t) (e * t)

/-- One operation in FP64 (R261). -/
def op64 (x : Num) : Num := x.roundTo 0

/-- The new w, m and v of an element, as FP32 patterns, and the change in FP64 (R261): each operation of the table's
expressions, a power among them, rounds once to FP64, in the order written (log entry 27). -/
def optimiser (f : MopF) (w g m v : Nat) : Nat × Nat × Nat × Num × Num :=
  let n32 (x : Nat) := Fmt.decode 1 x
  let r32 (x : Num) := Fmt.rne 1 x
  let W := n32 w
  let G := op64 ((n32 f.gscale).mul (n32 g))
  let one : Num := .fin false 1 0
  let wd := op64 ((n32 f.wd).mul W)
  let apply (d : Num) : Nat := r32 (op64 (W.sub (op64 ((n32 f.lr).mul (op64 (d.add wd))))))
  let power (b : Nat) : Num := op64 (numPow (n32 b) f.step)
  let res : Nat × Nat × Nat :=
    match f.alg with
    | 0 => (apply G, m, v)
    | 1 =>
      let m' := r32 (op64 ((op64 ((n32 f.beta1).mul (n32 m))).add G))
      (apply (n32 m'), m', v)
    | _ =>
      let b1 := n32 f.beta1
      let b2 := n32 f.beta2
      let m' := r32 (op64 ((op64 (b1.mul (n32 m))).add (op64 ((op64 (one.sub b1)).mul G))))
      let v' := r32 (op64 ((op64 (b2.mul (n32 v))).add (op64 ((op64 (one.sub b2)).mul (op64 (G.mul G))))))
      let mh := op64 ((n32 m').div (op64 (one.sub (power f.beta1))))
      let vh := op64 ((n32 v').div (op64 (one.sub (power f.beta2))))
      (apply (op64 (mh.div (op64 ((op64 vh.sqrt).add (n32 f.eps))))), m', v')
  (res.1, res.2.1, res.2.2, G, op64 ((n32 res.1).sub W))

/-- What a part of an optimiser step gathers: the state, the norm sums of its three kinds, and the BF16 values of its working copy with their
marks. -/
structure OptAcc where
  st   : State
  w    : NormSum
  g    : NormSum
  u    : NormSum
  work : List (Nat × Bool)

/-- One element of an optimiser step (R261); a mark goes to what depends on it: m on m and g, v on v and g, w on w, g and the moments (R384). -/
def OptAcc.elem (x : OptAcc) (k : Stack) (p : Nat) (f : MopF) (i : Nat) : OptAcc :=
  let s := x.st
  let w := s.arrLE p f.dst i 4
  let g := s.arrLE p f.src i 4
  let m := if f.alg ≥ 1 then s.arrLE p f.mom1 i 4 else 0
  let v := if f.alg = 2 then s.arrLE p f.mom2 i 4 else 0
  let badW := s.arrPois p f.dst i 4
  let badG := s.arrPois p f.src i 4
  let badM := badG || (decide (f.alg ≥ 1) && s.arrPois p f.mom1 i 4)
  let badV := badG || (decide (f.alg = 2) && s.arrPois p f.mom2 i 4)
  let bad := badW || badM || badV
  let r := optimiser f w g m v
  let s := if bad then s.setOn (mseBase k) F.MSE_ERR_POISON else s
  let s := s.arrPut p f.dst i 4 r.1 bad
  let s := if f.alg ≥ 1 then s.arrPut p f.mom1 i 4 r.2.1 badM else s
  let s := if f.alg = 2 then s.arrPut p f.mom2 i 4 r.2.2.1 badV else s
  let seed := s.rd mmemBase F.MSE_SEED_SEED (s.ownerOf ((s.localOf p (f.dst + i * 4)).getD 0 / pageSize))
  let draw := rngWord seed 0xFFFF ⟨i, f.tile, f.layer, f.step⟩ % 65536
  let s := if f.zeroG then s.arrPut p f.src i 4 0 false else s
  { st := s
    w := if f.mask.testBit 0 then x.w.takeIf badW (Fmt.decode 1 w) else x.w
    g := if f.mask.testBit 1 then x.g.takeIf badG r.2.2.2.1 else x.g
    u := if f.mask.testBit 2 then x.u.takeIf bad r.2.2.2.2 else x.u
    work := x.work ++ [((Fmt.convert 3 f.wrnd 0 draw (Fmt.decode 1 r.1)).1, bad)] }

/-- The picot sends the working copy of a part as writes, each within an aligned 64 B of it, which answer to the part's request; a byte that leads
to no HBM here is a miss of the part (R255, R261). -/
def State.sendWork (s : State) (r : MemReq) (f : MopF) (at_ : Nat) (vals : List (Nat × Bool)) : State × Bool :=
  match r.src with
  | .bobbin c b tag =>
    let bs := vals.flatMap fun v => (leBytes 2 v.1).map fun x => (x, v.2)
    (linesOf (f.work + at_) bs.length).foldl (fun (x : State × Bool) l =>
      let a := max (f.work + at_) (l * 64)
      let part := (bs.drop (a - (f.work + at_))).take (l * 64 + 64 - a)
      match s.hereOf r.part a with
      | some pa => (x.1.memSend ⟨.work c b tag, r.part, .write (part.map Prod.fst) (part.any Prod.snd), pa⟩, x.2)
      | none => (x.1, false)) (s, true)
  | _ => (s, true)

/-- Element `i` of SRC of a region operation: from the bytes its bobbin read for the elements that begin in the part (R260, log entry 34). -/
def MopF.srcElem (f : MopF) (off : Nat) (src : List Byte) (i : Nat) : Nat :=
  leNat ((src.drop ((i - ceilDiv off f.width) * f.width)).take f.width)

/-- One part applies element by element (R259, R260): the state, and whether its working copy could be sent. -/
def State.applyPart (s : State) (k : Stack) (r : MemReq) (d : List Nat) (off len : Nat) (src : List Byte) (bad : Bool) : State × Bool :=
  let f := mopF d
  let p := r.part
  let es := f.elems off len
  let s := s.count (mseBase k) F.MSE_OPS_COUNT
  match f.op with
  | 3 =>
    let x := es.foldl (fun (x : OptAcc) i => x.elem k p f i) ⟨s, NormSum.zero, NormSum.zero, NormSum.zero, []⟩
    let send (s : State) (bit tag : Nat) (n : NormSum) : State :=
      if f.mask.testBit bit then s.normSend ⟨.firmware, p, n.op tag, 0⟩ tag else s
    let s := send (send (send x.st 0 f.tagW x.w) 1 f.tagG x.g) 2 f.tagU x.u
    if f.wcopy then s.sendWork r f (es.headD 0 * 2) x.work else (s, true)
  | 4 =>
    let w := f.width
    let n := es.foldl (fun (n : NormSum) i => n.takeIf (s.arrPois p f.dst i w) (Fmt.decode f.fmt (s.arrLE p f.dst i w))) NormSum.zero
    let s := if es.any (fun i => s.arrPois p f.dst i w) then s.setOn (mseBase k) F.MSE_ERR_POISON else s
    (s.normSend ⟨.firmware, p, n.op f.tagW, 0⟩ f.tagW, true)
  | 5 => (s.hbmWrite r.addr (List.replicate len 0) false, true)
  | _ => (es.foldl (fun s i => s.atomicEl k p f.op f.fmt f.dst i (f.srcElem off src i) bad) s, true)

/-- REGION_PART_APPLY: the request whose turn it is at a stack is a part of a memory-side operation (R259); `ecc` is what the reads of its lines
find (R246), of which a zero-fill makes only those of captures. A part of an operation with a norm tag outside the range is discarded (R263). -/
def execRegionPartApply (q : Served) (s : State) : Host.Outcome State Fault Refusal :=
  let want : MemOp → Bool := fun
    | .part .. => true
    | _ => false
  .next (s.applyFront q.stack want fun s r =>
    match r.op with
    | .part d off len src bad =>
      if (mopF d).tags.any fun t => !s.tagOk r.part t then (s.tagError q.stack).answer q.stack r [] false 0
      else
        let ls := s.reqLines r
        let s := s.linesEcc (if (mopF d).op = 5 then ls.filter fun l => !(s.captureDue l).isEmpty else ls) q.ecc
        let x := s.applyPart q.stack r d off len (src.getD []) bad
        x.1.answer q.stack r [] false (if x.2 then 0 else 1)
    | _ => s)

/-- An update or commit of a record discarded (R87, R266). -/
def State.recordError (s : State) (k : Stack) : State :=
  (s.setOn (mseBase k) F.MSE_ERR_RECORD).sat (mseBase k) F.MSE_ERRCNT_OTHER_CNT

/-- SCALE_RECORD_UPDATE: the request whose turn it is at a stack is a record update; a marked record is consumed (R86, R87, R384); `ecc` is what
the read of its line finds (R246). -/
def execScaleRecordUpdate (q : Served) (s : State) : Host.Outcome State Fault Refusal :=
  let want : MemOp → Bool := fun
    | .recUpdate .. => true
    | _ => false
  .next (s.applyFront q.stack want fun s r =>
    match r.op with
    | .recUpdate amax ovf nan =>
      let s := s.linesEcc (s.reqLines r) q.ecc
      if s.hbmPoisoned r.addr 64 then (s.setOn (mseBase q.stack) F.MSE_ERR_POISON).answer q.stack r (leBytes 8 r.addr) true 2
      else if (s.scaleRec r.addr).ok then (s.recUpdate r.addr amax ovf nan).answer q.stack r [] false 0
      else (s.recordError q.stack).answer q.stack r [] false 0
    | _ => s)

/-- SCALE_COMMIT_APPLY: the request whose turn it is at a stack is a scale commit; a marked record is consumed (R88, R384);
`ecc` is what the read of its line finds (R246). -/
def execScaleCommitApply (q : Served) (s : State) : Host.Outcome State Fault Refusal :=
  let want : MemOp → Bool := fun
    | .recCommit _ => true
    | _ => false
  .next (s.applyFront q.stack want fun s r =>
    match r.op with
    | .recCommit step =>
      let s := s.linesEcc (s.reqLines r) q.ecc
      if s.hbmPoisoned r.addr 64 then (s.setOn (mseBase q.stack) F.MSE_ERR_POISON).answer q.stack r [] true 2
      else if (s.scaleRec r.addr).ok then ((s.recCommit r.addr step).count (mseBase q.stack) F.MSE_OPS_COUNT).answer q.stack r [] false 0
      else (s.recordError q.stack).answer q.stack r [] false 0
    | _ => s)

/-- NORM_UPDATE: the request whose turn it is at a stack is a norm update; a tag outside the partition's range is discarded (R263,
R264). -/
def execNormUpdate (k : Stack) (s : State) : Host.Outcome State Fault Refusal :=
  let want : MemOp → Bool := fun
    | .norm .. => true
    | _ => false
  .next (s.applyFront k want fun s r =>
    match r.op with
    | .norm tag sumSq finite nonfin amax =>
      if s.tagOk r.part tag then s.setNorm tag ((s.normEnt tag).add sumSq finite nonfin amax)
      else s.tagError k
    | _ => s)

/-! ### Owner changes (R262) -/

/-- Whether the reserve of an enabled mirror or a valid store region holds a page (R401). -/
def State.mirrorHolds (s : State) (page : Nat) : Bool :=
  (List.range 16).any fun p =>
    (s.on mirBase F.MIR_CFG_EN p && decide (s.rd mirBase F.MIR_RESBASE_BASE p ≤ page) &&
      decide (page < s.rd mirBase F.MIR_RESBASE_BASE p + s.rd mirBase F.MIR_CFG_RESERVE p)) ||
    (s.on mirBase F.MIR_STORE_A_VALID p && decide (s.rd mirBase F.MIR_STORE_A_BASE p ≤ page) &&
      decide (page < s.rd mirBase F.MIR_STORE_A_BASE p + s.rd mirBase F.MIR_STORE_A_CAPACITY p))

/-- Whether a request that arrived before the GO of the running owner change, and has not applied, touches a page (R262, R268). -/
def State.earlyHolds (s : State) (o : OwnCmd) (page : Nat) : Bool :=
  (List.finRange 20).any fun k => ((s.memReqs[k]).take (o.early[k])).any fun r => (s.reqLines r).any fun l => decide (l / 32768 = page)

/-- The next page of a running command: pages that keep their owner are passed and counted (R262). -/
def State.ownAdvance (s : State) : Nat → State
  | 0 => s
  | n + 1 =>
    match s.mem.ownCmd with
    | none => s
    | some o =>
      if o.next = o.first + o.count then
        ({ s with mem := { s.mem with ownCmd := none } }).wr mmemBase F.MSE_OWNSTAT_STATE 2
      else if decide (s.ownerOf o.next = 0x11) || s.earlyHolds o o.next then s
      else
        let s := { s with mem := { s.mem with ownCmd := some { o with next := o.next + 1 } } }
        (s.count mmemBase F.MSE_OWNSTAT_DONE_PAGES).ownAdvance n

/-- A GO of an owner change (R262, R401): rejected whole, refused while another runs, or begun: pages whose owner changes go
to 0x11 at once, the others take MIRROR. -/
def State.ownGo (s : State) (first count owner : Nat) (mirror : Bool) : State :=
  if s.mem.ownCmd.isSome then s.setOn mmemBase F.MSE_OWNSTAT_BUSY_REJ
  else if count = 0 ∨ first + count > pageCount ∨ ¬ (owner < 16 ∨ owner = 0x10) ∨
      ((List.range count).any fun i => s.mirrorHolds (first + i)) = true then s.wr mmemBase F.MSE_OWNSTAT_STATE 3
  else
    let cmd : OwnCmd := ⟨first, count, owner, mirror, first, s.mem.owners, Vector.ofFn fun k => (s.memReqs[k]).length⟩
    let s := (List.range count).foldl (fun s i =>
      if s.ownerOf (first + i) = owner then s.setOwner (first + i) owner mirror
      else s.setOwner (first + i) 0x11 (s.mirrorBit (first + i))) s
    let s := (s.wr mmemBase F.MSE_OWNSTAT_STATE 1).wr mmemBase F.MSE_OWNSTAT_DONE_PAGES 0
    let s := { s with mem := { s.mem with ownCmd := some cmd } }
    let s := { s with arrivals := s.arrivals.map fun (a : Arrival) => ({ a with chans := [] } : Arrival) }
    s.ownAdvance (count + 1)

/-- Capture `n` lines from `first` up (R405). -/
def State.captureLines (s : State) (first n : Nat) : State := (List.range n).foldl (fun s i => s.capture (first + i)) s

/-- Zero a page as OP 5 does: captures first, bytes and marks cleared (R260, R262). -/
def State.zeroPage (s : State) (page : Nat) : State :=
  let s := if !(s.closingOf page).isEmpty then s.captureLines (page * 32768) 32768 else s
  let grans : List Nat := (List.range 512).filterMap fun g => (s.hbmKey (page * pageSize + g * 4096)).map (· / 4096)
  { s with mem := { s.mem with
    bytes := SMap.wipe (fun k => grans.contains (k / 4096)) s.mem.bytes
    poison := SMap.wipe (fun k => grans.contains (k / 64)) s.mem.poison } }

/-- OWNER_PAGE_COMPLETE: every picot has zero-filled the next page, which takes its new owner and MIRROR, and its dirty bit (R267); the page waits
while a request of its old owner that arrived before GO has not applied, and a page the host caches for its back-invalidates (R262, R268, R346,
R359). -/
def execOwnerPageComplete (s : State) : Host.Outcome State Fault Refusal :=
  .next (match s.mem.ownCmd with
    | none => s
    | some o =>
      let g := s.snoopGate (o.next * pageSize) pageSize true
      if s.earlyHolds o o.next then s
      else if s.ownerOf o.next ≠ 0x11 then s.ownAdvance (o.count + 1)
      else if !g.2 then g.1
      else
        let s := g.1.zeroPage o.next
        let s := (s.setOwner o.next o.owner o.mirror).markDirty o.next
        let s := { s with mem := { s.mem with ownCmd := some { o with next := o.next + 1 } } }
        (s.count mmemBase F.MSE_OWNSTAT_DONE_PAGES).ownAdvance (o.count + 1))

/-! ### The stack controller (R244, R250 to R252) -/

/-- What the read of a line of a stack's own space finds, for the patrol and the retirement copy (R246, R250). -/
def State.arrayEcc (s : State) (k : Stack) (line : Nat) (ecc : LineEcc) : State :=
  let b := hbmBase k
  let off := line * 64
  let key := k.val * 2 ^ 30 + line
  let place (s : State) (unc : Nat) : State := (s.wr b F.HBM_ECC_ADDR_OFFSET off).wr b F.HBM_ECC_ADDR_UNCORR unc
  match ecc with
  | .clean => s
  | .corrected =>
    let s := place (s.sat b F.HBM_ECC_CORR) 0
    let s := { s with mem := { s.mem with perStack := vupd s.mem.perStack k fun t =>
      { t with corr := SMap.set 0 t.corr (off / pageSize) (SMap.get 0 t.corr (off / pageSize) + 1) } } }
    s.errLog (errRec 0 0x9 k.val (off / pageSize) 0x10 0x01 0x1 0 off)
  | .reread =>
    let s := place (s.sat b F.HBM_ECC_REREAD) 0
    s.errLog (errRec 0 0x9 k.val (off / pageSize) 0x10 0x09 0x1 0 off)
  | .lost =>
    let s := place ((s.sat b F.HBM_ECC_REREAD).sat b F.HBM_ECC_UNCORR) 1
    let s := { s with mem := { s.mem with poison := SMap.set false s.mem.poison key true } }
    s.errLog (errRec 1 0x9 k.val (off / pageSize) 0x10 0x0A 0x1 0 off)

/-- HBM_PATROL_READ: while `ERR_CTRL`.IST_EN is set the patrol reads its next line of the stack and corrects it; a sweep ends with the corrected
counts cleared (R250, R251, R391). -/
def execHbmPatrolRead (k : Stack) (ecc : LineEcc) (s : State) : Host.Outcome State Fault Refusal :=
  let b := hbmBase k
  let line := s.mem.perStack[k].patrol
  .next (if !s.on errBase F.ERR_CTRL_IST_EN then s
    else
    let s := s.arrayEcc k line ecc
    let next : Nat := (line + 1) % 2 ^ 30
    let s := s.wr b F.HBM_SCRUB_PROGRESS (next / 2 ^ 14)
    let s := { s with mem := { s.mem with perStack := vupd s.mem.perStack k fun t =>
      { t with patrol := next, corr := if next = 0 then [] else t.corr } } }
    if next = 0 then s.count b F.HBM_SCRUB_PASSES else s)

/-- HBM_REFRESH: the controller issues a per-bank refresh; above 85 °C the interval is halved (R244). `temp` is the stack's
temperature readout. -/
def execHbmRefresh (k : Stack) (temp : BitVec 8) (s : State) : Host.Outcome State Fault Refusal :=
  let b := hbmBase k
  .next ((s.wr b F.HBM_STATUS_TEMP temp.toNat).wr b F.HBM_STATUS_REFRESH2X (if temp.toNat > 85 then 1 else 0))

/-- Whether a stack page is due for retirement (R251): it holds a poisoned line, or its corrected count has reached THRESH. -/
def State.retireDue (s : State) (k : Stack) (page : Nat) : Bool :=
  (s.mem.poison.any fun e => decide (e.1 / 32768 = k.val * 32768 + page)) ||
    decide (SMap.get 0 s.mem.perStack[k].corr page ≥ s.rd (hbmBase k) F.HBM_RETIRE_THRESH)

/-- PAGE_RETIREMENT_START: firmware starts moving a due stack page to a free spare, or flags NOSPARE (R251, R252). -/
def execPageRetirementStart (k : Stack) (page : Fin 32768) (s : State) : Host.Outcome State Fault Refusal :=
  let b := hbmBase k
  let t := s.mem.perStack[k]
  .next (if !s.retireDue k page.val ∨ t.retire.isSome then s
    else
      let s := s.wr b F.HBM_RETIRE_LAST_PAGE page.val
      if s.rd b F.HBM_RETIRE_COUNT ≥ 512 + t.freed then
        (s.setOn b F.HBM_RETIRE_NOSPARE).errLog (errRec 0 0x9 k.val page.val 0x10 0x0B 0x0)
      else { s with mem := { s.mem with perStack := vupd s.mem.perStack k fun t => { t with retire := some (page.val, 0) } } })

/-- RETIREMENT_LINE_COPY: the next line of the retiring page is read (the first of `ecc` is what the read finds, R246) and copied, with its
mark; after the last the remap switches, the spare is counted and the old page awaits its test (R251, R386). -/
def execRetirementLineCopy (q : Served) (s : State) : Host.Outcome State Fault Refusal :=
  .next (match s.mem.perStack[q.stack].retire with
    | none => s
    | some (page, front) =>
      let s := s.arrayEcc q.stack (page * 32768 + front) (q.ecc.headD .clean)
      if front + 1 < 32768 then
        { s with mem := { s.mem with perStack := vupd s.mem.perStack q.stack fun t => { t with retire := some (page, front + 1) } } }
      else
        let spare := s.rd (hbmBase q.stack) F.HBM_RETIRE_COUNT + 1
        let s := { s with mem := { s.mem with perStack := vupd s.mem.perStack q.stack fun t =>
          { t with retire := none, remap := SMap.set 0 t.remap page spare, corr := SMap.set 0 t.corr page 0 } } }
        let s := (s.count (hbmBase q.stack) F.HBM_RETIRE_COUNT).stackShow q.stack
        let s := s.errLog (errRec 0 0x9 q.stack.val page 0x10 0x0B 0x7 3)
        (s.quarantine 0 0x9 q.stack.val page 0x0B).reportChange)

/-- HBM_MAP_WRITE: sets the die-local size before the first GO; after it the write is discarded (R248). -/
def State.mapWrite (s : State) (n : Nat) : State :=
  if s.mapLock then s.setOn mmemBase F.HBM_MAPERR_LOCKED else s.wr mmemBase F.HBM_MAP_DIELOCAL n

end Sys2Proof.Machine
end

