-- ==== Sys2Proof/Machine/Drain.lean ====
section
/-!
DEFINITION. The drain unit (R93 to R118, R164, R165): a request's beginning with its checks, the rows it reads and carries
through stages S1 to S7 with reductions and norms, its end, and the writes of drain profiles (R116). Network destinations
hand their flits to the core's port (R202, R207).
-/
namespace Sys2Proof.Machine

/-! ### The core's network port as a destination -/

/-- A flit of 128 bytes from at most 128 bytes of data, filled with zeros. -/
def flitOf (bs : List Byte) (poison : Bool) : Flit :=
  ⟨true, false, poison, (bs ++ List.replicate (128 - bs.length) 0).take 128⟩

/-- Data cut into flits of `n` bytes each. -/
def flitsOf (n : Nat) (poison : Bool) : Nat → List Byte → List Flit
  | 0, _ => []
  | k + 1, bs => if bs.isEmpty then [] else flitOf (bs.take n) poison :: flitsOf n poison k (bs.drop n)

/-- The network cycle, after that of S7, in which flit `i` of a row of `n` flits is at the port: the second half of what a core cycle takes, up to
512 B, follows the first (R106, R202). -/
def flitDelay (n i : Nat) : Nat := if n ≤ 2 then i else i / 2

/-- A drain unit hands the flits of a row to its core's port for a stream, from network cycle `ready` on (R202). -/
def State.netPush (s : State) (c : PCore) (e : Eng) (stream ready : Nat) (fs : List Flit) : State :=
  { s with net := { s.net with src := s.net.src ++ fs.zipIdx.map fun (f, i) =>
    ⟨c.val, stream, ready + flitDelay fs.length i, f, [(c.val, drainTag e)]⟩ } }

/-- Whether the stream table of a core binds a stream to a role and unit (R207, R222). -/
def State.streamBound (s : State) (c : PCore) (stream role unit : Nat) : Bool :=
  (List.range 256).any fun i => decide (s.rd (coreBase c) F.NET_STREAM_STREAM i = stream) &&
    decide (s.rd (coreBase c) F.NET_STREAM_ROLE i = role) && (decide (role = 2) || decide (s.rd (coreBase c) F.NET_STREAM_UNIT i = unit))

/-! ### Profiles -/

/-- The fields of a drain profile (R121). -/
structure DrnF where
  biasMode : Nat
  vecFmt   : Nat
  biasNeg  : Bool
  scaleMode : Nat
  resOp    : Nat
  act      : Nat
  deriv    : Bool
  derivSrc : Nat
  aux0     : Nat
  aux1     : Nat
  scaleVal : Nat
  op0      : Nat
  tap0     : Nat
  k0       : Nat
  op1      : Nat
  tap1     : Nat
  k1       : Nat
  alpha    : Nat
  outFmt   : Nat
  rnd      : Nat
  sat      : Nat
  scaleSrc : Nat
  outScale : Nat
  normEn   : Bool
  normTap  : Nat
  normTag  : Nat
  stream   : Nat
  kind     : Nat
  cols     : Nat
  dest     : Nat
  picotOp  : Nat
  pitch    : Nat
  auxPitch : Nat
  scaleOff : Nat
  record   : Nat
  deriving DecidableEq, Repr

/-- Read the fields of profile words A to E. -/
def drnF (p : List Nat) : DrnF :=
  let a := p.getD 0 0
  let b := p.getD 1 0
  let c := p.getD 2 0
  let d := p.getD 3 0
  { biasMode := bits a 0 2, vecFmt := bits a 2 4, biasNeg := a.testBit 6, scaleMode := bits a 7 2, resOp := bits a 9 2,
    act := bits a 11 5, deriv := a.testBit 16, derivSrc := bits a 17 1, aux0 := bits a 18 4, aux1 := bits a 22 4,
    scaleVal := bits a 32 32,
    op0 := bits b 0 4, tap0 := bits b 4 2, k0 := bits b 6 3 + 1, op1 := bits b 9 4, tap1 := bits b 13 2, k1 := bits b 15 3 + 1,
    alpha := bits b 32 32,
    outFmt := bits c 0 4, rnd := bits c 4 2, sat := bits c 6 2, scaleSrc := bits c 8 2, outScale := bits c 10 8,
    normEn := c.testBit 18, normTap := bits c 19 2, normTag := bits c 21 12, stream := bits c 33 16, kind := bits c 49 2,
    cols := if bits c 51 7 = 0 then 128 else bits c 51 7,
    dest := bits d 0 2, picotOp := bits d 2 4, pitch := bits d 6 12 * 64, auxPitch := bits d 18 12 * 64,
    scaleOff := bits d 30 12 * 64, record := bits (p.getD 4 0) 0 42 * 64 }

/-- Whether any stage of S2 to S5 is enabled (R103). -/
def DrnF.stages (f : DrnF) : Bool :=
  decide (f.biasMode ≠ 0) || decide (f.scaleMode ≠ 0) || decide (f.resOp ≠ 0) || decide (f.act ≠ 0) || f.deriv

/-- Whether the profile names legal settings: no reserved value, only formats its fields allow, and no forbidden combination
(R105, R108, R109, R112, R114, R116, R121). PICOT_OP and TILE_KIND are held together only where DEST_KIND is 3 (log entry 86). -/
def DrnF.legal (f : DrnF) : Bool :=
  let vf (x : Nat) : Bool := decide (1 ≤ x) && decide (x ≤ 4)
  decide (f.biasMode ≠ 3) && vf f.vecFmt && decide (f.scaleMode ≠ 3) && decide (f.resOp ≠ 3) && decide (f.act ≤ 0xB) &&
  vf f.aux0 && vf f.aux1 && decide (f.op0 < 8) && decide (f.tap0 ≠ 3) && decide (f.op1 < 8) && decide (f.tap1 ≠ 3) &&
  decide (f.outFmt < 0xE) && decide (f.rnd ≠ 3) && decide (f.sat ≠ 3) && decide (f.normTap ≠ 3) && decide (f.kind ≠ 3) &&
  decide (f.picotOp < 3) &&
  (decide (f.scaleSrc ≠ 3) || (decide (f.dest = 1) && decide (5 ≤ f.outFmt) && decide (f.outFmt ≤ 9))) &&
  (decide (f.kind ≠ 2) || (!f.stages && decide (f.op0 = 0) && decide (f.op1 = 0) && decide (f.outFmt = 1 ∨ f.outFmt = 0xD))) &&
  (decide (f.dest ≠ 3) ||
    (if f.picotOp = 0 then decide (f.outFmt = 3 ∨ f.outFmt = 1 ∨ f.outFmt = 2 ∨ f.outFmt = 0xD) && decide (f.kind ≠ 2)
     else decide (f.kind = 2)))

/-- The five words of a profile as they stand. -/
def State.profWords (s : State) (c : PCore) (e : Eng) (n : Nat) : List Nat :=
  let b := drnBase c e
  [s.readReg b R.DRN_PROF_A n, s.readReg b R.DRN_PROF_B n, s.readReg b R.DRN_PROF_C n, s.readReg b R.DRN_PROF_D n,
   s.readReg b R.DRN_PROF_E n]

/-- A write to word `k` (A to E) of profile `n`, from the host or the core's program: applied, or discarded whole (R116);
the program's is discarded while `DRN_CTRL`.LOCK is set. -/
def State.profWrite (s : State) (c : PCore) (e : Eng) (n k v : Nat) (host : Bool) : State :=
  let b := drnBase c e
  let reject (s : State) : State := (s.setOn b F.DRN_ERR_PROF_REJ).sat b F.DRN_ERRCNT_PROF_REJ_CNT
  if !host && s.on b F.DRN_CTRL_LOCK then s
  else if !(drnF ((s.profWords c e n).set k v)).legal then reject s
  else
    let r := [R.DRN_PROF_A, R.DRN_PROF_B, R.DRN_PROF_C, R.DRN_PROF_D, R.DRN_PROF_E].getD k R.DRN_PROF_A
    s.writeReg b r n v

/-- DRAIN_PROFILE_WRITE (R116). -/
def execDrainProfileWrite (f : Func) (c : PCore) (e : Eng) (n : Fin 8) (k : Fin 5) (v : Word64) (s : State) :
    Host.Outcome State Fault Refusal :=
  .next (s.asCore f c .register (drnBase c e + 0x100 + n.val * 0x40 + k.val * 8) fun s => s.profWrite c e n.val k.val v.toNat true)

/-! ### The request -/

/-- The operands of a drain request (R115, R164). -/
def DrainReq.prof (r : DrainReq) : Nat := fieldOf r.word 105 3
def DrainReq.rows (r : DrainReq) : Nat := if fieldOf r.word 98 7 = 0 then 128 else fieldOf r.word 98 7
def DrainReq.cont (r : DrainReq) : Bool := decide (fieldOf r.word 97 1 = 1)
def DrainReq.emit (r : DrainReq) : Bool := decide (fieldOf r.word 96 1 = 1)
def DrainReq.fence (r : DrainReq) : Bool := decide (fieldOf r.word 95 1 = 1)

/-- The bytes of an element of the output: a value-and-index pair takes 8 (R105). -/
def DrnF.outBits (f : DrnF) : Nat := if f.kind = 2 then 64 else Fmt.width f.outFmt

/-- The bytes of an output row. -/
def DrnF.rowBytes (f : DrnF) : Nat := ceilDiv (f.cols * f.outBits) 8

/-- The bytes of an entry of a reduction operation (R109). -/
def redEntry (op k : Nat) : Nat :=
  match op with
  | 0 => 0
  | 3 => 8
  | 4 => 8
  | 5 => 8 * k
  | _ => 4

/-- The reason a request that begins is skipped: 0x17 for its stream, 0x13 for a region, or 0 (R165, R174). -/
def State.drainCheck (s : State) (c : PCore) (e : Eng) (r : DrainReq) (f : DrnF) (xd xa0 xa1 xv xr : Nat) : Nat :=
  let n := r.rows
  let fits (base len : Nat) : Bool := spadFits base len
  let rows (base pitch width : Nat) : Bool := fits base ((n - 1) * pitch + width)
  let dst := bits xd 0 32
  let destOk : Bool :=
    match f.dest with
    | 1 => decide (dst % 64 = 0) && rows dst f.pitch f.rowBytes &&
        (decide (f.scaleSrc ≠ 3) || fits (dst + f.scaleOff) (4 * n))
    | 3 => decide (xd % 64 = 0)
    | _ => true
  let use0 := decide (f.resOp ≠ 0) || decide (f.op0 = 6) || decide (f.op1 = 6)
  let use1 := f.deriv || decide (f.op0 = 7) || decide (f.op1 = 7)
  let auxOk := (!use0 || rows (bits xa0 0 32) f.auxPitch (ceilDiv (f.cols * Fmt.width f.aux0) 8)) &&
    (!use1 || rows (bits xa1 0 32) f.auxPitch (ceilDiv (f.cols * Fmt.width f.aux1) 8))
  let v := bits xv 0 32
  let vecOk := (decide (f.biasMode = 0) || fits v (ceilDiv ((if f.biasMode = 1 then f.cols else n) * Fmt.width f.vecFmt) 8)) &&
    (decide (f.scaleMode ≠ 2) || fits (v + 512) (4 * f.cols))
  let redOk := !r.emit || ((decide (f.op0 = 0) || fits (bits xr 0 32) (n * redEntry f.op0 f.k0)) &&
    (decide (f.op1 = 0) || fits (bits xr 0 32 + 8192) (n * redEntry f.op1 f.k1)))
  let recOk := decide (f.scaleSrc ≠ 2) || (match s.translate (s.partOf c) f.record with
    | some (false, pa) => s.mapped pa
    | some (true, _) => false
    | none => true)
  if !(destOk && auxOk && vecOk && redOk && recOk) then 0x13
  else if f.dest = 2 && !s.streamBound c (bits xd 0 12) 1 e.val then 0x17
  else 0

/-- Change a drain unit. -/
def State.onDrn (s : State) (c : PCore) (e : Eng) (f : DrainRec → DrainRec) : State :=
  s.onCore c fun k => { k with drains := vupd k.drains e f }

/-- What a drain unit holds. -/
def State.drn (s : State) (c : PCore) (e : Eng) : DrainRec := (s.core c).drains[e]

/-- A half has been read to its last row, or its request ended skipped: the queue entry is free from the next cycle on, and the tile's shadow is
free again where this half is its shadow and no other request is bound to it (R39, R99, R102, R165). A request is complete, for R39, R102 and
`ACC_SHADOW_BUSY`, when it has read its last row: the spec does not say which of its events that is (log entry 102). -/
def State.halfDone (s : State) (c : PCore) (e : Eng) (t h : Nat) : State :=
  let s := s.onDrn c e fun d => { d with freedAt := s.cycle, freed := if d.freedAt = s.cycle then d.freed + 1 else 1 }
  let s := if s.liveHalf c e t ≠ h ∧ !s.halfBound c e t h then s.wrBit (accBase c e) F.ACC_SHADOW_BUSY_BUSY t false else s
  s.onEng c e fun r => { r with halfRead := SMap.set 0 r.halfRead (t * 2 + h) (s.cycle + 1) }

/-- Whether the oldest request of a drain unit may begin (R39, R100): its half has no fold pending since an earlier cycle, the request before
it has read its last row, and a FENCE is met. -/
def State.drainMayBegin (s : State) (c : PCore) (e : Eng) (r : DrainReq) : Bool :=
  let d := s.drn c e
  d.run.isNone && decide (s.pendingOf c e r.tile r.half = 0) &&
    decide (SMap.get 0 (s.eng c e).halfFold (r.tile * 2 + r.half) ≤ s.cycle) &&
    (decide (d.lastRead = 0) || decide (d.lastRead < s.cycle)) &&
    (!r.fence || (d.ended.isEmpty && d.emits.isEmpty && d.outs.isEmpty && decide (d.allOut < s.cycle)))

/-- The running state of a request that begins: what it reads then and keeps (R86, R115, R282). -/
def State.drainStart (s : State) (c : PCore) (e : Eng) (r : DrainReq) : DrainRun :=
  let pw := s.profWords c e r.prof
  let f := drnF pw
  let x (lo : Nat) : Nat := (s.x c (fieldOf r.word lo 5)).toNat
  { req := r
    prof := pw
    xd := x 90
    xa0 := x 85
    xa1 := x 80
    xv := x 75
    xr := x 70
    step := s.rngStep c
    layer := s.rngLayer c
    nextAt := s.cycle
    row := 0
    scale := match f.scaleSrc with | 1 => some f.outScale | 2 => none | _ => some 0x7F
    recTag := 0
    sumSq := 0
    finite := 0
    nonfin := 0
    amax := 0
    recAmax := 0
    recOvf := 0
    recNan := false
    inject := s.on (drnBase c e) F.DRN_CTRL_INJECT
    poison := false
    outAt := 0 }

/-- DRAIN_REQUEST_BEGIN: the oldest request begins in a cycle in which R100 lets it; its settings are read and checked; under a scale record
the record is read first (R86, R100, R115, R165). -/
def execDrainRequestBegin (c : PCore) (e : Eng) (s : State) : Host.Outcome State Fault Refusal :=
  .next (match (s.drn c e).queue with
    | [] => s
    | r :: rest =>
      if !s.drainMayBegin c e r then s
      else
        let run := s.drainStart c e r
        let f := drnF run.prof
        let reason := s.drainCheck c e r f run.xd run.xa0 run.xa1 run.xv run.xr
        let s := s.onDrn c e fun d => { d with queue := rest }
        if reason ≠ 0 then (s.halfDone c e r.tile r.half).skip c (e.val + 1) r.word r.ia reason
        else
          let s := s.wr (drnBase c e) F.DRN_CTRL_INJECT 0
          let s := s.onDrn c e fun d => { d with
            run := some run, red0 := if r.cont then d.red0 else [], red1 := if r.cont then d.red1 else [] }
          if f.scaleSrc = 2 then
            match s.translate (s.partOf c) f.record with
            | some (_, pa) => s.memSend ⟨.drain c.val e.val, s.partOf c, .recRead, pa⟩
            | none => s.pageFault c r.ia
          else s)

/-- SCALE_RECORD_READ_RETURN: the record's SCALE arrives, and row 0 may be read in the next cycle; a refused read is a page
fault, and a marked record is consumed (R86, R255, R384). -/
def execScaleRecordReadReturn (c : PCore) (e : Eng) (k : Stack) (s : State) : Host.Outcome State Fault Refusal :=
  .next (match s.memResps[k].find? fun r => r.dst = .drain c.val e.val, (s.drn c e).run with
    | some p, some run =>
      let s := { s with memResps := vupd s.memResps k fun l => l.erase p }
      if p.status = 1 then s.pageFault c run.req.ia
      else if p.status = 2 then s.consumeFault c 0xA k.val (drnF run.prof).record run.req.ia
      else
        let s := s.onDrn c e fun d => { d with run := d.run.map fun r => { r with
          scale := some (leNat ((p.data.drop 32).take 1))
          recTag := leNat ((p.data.drop 40).take 2) % 4096
          nextAt := s.cycle + 1 } }
        s
    | _, _ => s)

/-! ### The pipeline (R103 to R114) -/

/-- Add terms pairwise until one is left, each add rounded once to AF48: `n` is how many there were, and the tree's add number `k` takes the
two terms `Config.adderTree` names (R110; log entry 22). -/
def treeAdd (n : Nat) : Nat → Nat → List Num → Num
  | 0, _, ts => (ts.headD (.fin false 0 0)).af48
  | fuel + 1, k, ts =>
    match ts with
    | [] => .fin false 0 0
    | [a] => a.af48
    | [a, b] => (a.add b).af48
    | ts =>
      let p := Config.adderTree n k
      let i := p.1 % ts.length
      let rest := ts.eraseIdx i
      let j := p.2 % rest.length
      treeAdd n fuel (k + 1) (rest.eraseIdx j ++ [((ts.getD i (.fin false 0 0)).add (rest.getD j (.fin false 0 0))).af48])

/-- A sum of terms by the fixed adder tree, with RNE at each add (R110, R111, R168). -/
def treeSum (ts : List Num) : Num := treeAdd ts.length ts.length 0 ts

/-- The limit of an activation at an infinite input (R108): function, sign of the infinity, α. -/
def actLimit (act : Nat) (neg : Bool) (alpha : Num) : Num :=
  let one : Num := .fin false 1 0
  let zero : Num := .fin false 0 0
  match act, neg with
  | 1, true => zero
  | 2, true => if alpha.isZero then zero else alpha.mul (.inf true)
  | 6, false => one
  | 6, true => zero
  | 7, false => one
  | 7, true => .fin true 1 0
  | 0, n => .inf n
  | 0xA, n => if n then alpha.neg else alpha
  | _, false => .inf false
  | 0xB, true => .inf false
  | _, true => zero

/-- The limit of a derivative at an infinite input (R108), and whether the derivative is that value everywhere near it. -/
def derivLimit (act : Nat) (neg : Bool) (alpha : Num) : Num × Bool :=
  let one : Num := .fin false 1 0
  let zero : Num := .fin false 0 0
  match act, neg with
  | 0, _ => (one, true)
  | 1, false => (one, true)
  | 1, true => (zero, true)
  | 2, false => (one, true)
  | 2, true => (alpha, true)
  | 6, _ => (zero, false)
  | 7, _ => (zero, false)
  | 8, false => (.inf false, false)
  | 0xA, _ => (zero, true)
  | 0xB, n => (.inf n, false)
  | _, false => (one, false)
  | _, true => (zero, false)

/-- The sign of f′(u) at a finite u, as ±1 or 0 (R108): below −2 the derivatives of the two GELU forms and of SiLU are negative, and those of σ,
tanh, e^x and softplus are positive everywhere. -/
def derivSign (act : Nat) (alpha u : Num) : Num :=
  let one : Num := .fin false 1 0
  let zero : Num := .fin false 0 0
  let signOf (x : Num) : Num := if x.isZero then zero else if x.lt zero then .fin true 1 0 else one
  match act with
  | 0 => one
  | 1 => if zero.lt u then one else zero
  | 2 => if zero.lt u then one else signOf alpha
  | 0xA => if alpha.neg.lt u && u.lt alpha then one else zero
  | 0xB => signOf u
  | 6 => one
  | 7 => one
  | 8 => one
  | 9 => one
  | a =>
    if u.lt (.fin true 2 0) then .fin true 1 0
    else match Elem.deriv a 0 (Elem.ofNum u) with
      | some d => if d < 0 then .fin true 1 0 else one
      | none => one

/-- The limit of f′(u) × v where u or v is infinite (R108): 0 where one factor is 0 all along, NaN where the limit depends on the way there. -/
def derivInf (act : Nat) (u v alpha : Num) : Num :=
  let zero : Num := .fin false 0 0
  match u with
  | .inf n =>
    let d := derivLimit act n alpha
    if d.1.isZero then (if v.isFin || d.2 then zero else .nan)
    else if v.isZero then zero
    else (d.1.mul v).af48
  | _ =>
    let d := derivSign act alpha u
    if d.isZero then zero else v.mul d

/-- The function whose derivative is taken and its α, where ACT_ALPHA is infinite or a NaN: a clamp to [−∞, ∞] is the identity, and one whose
bounds hold no x has the derivative 0 everywhere (R108). -/
def DrnF.derivAs (f : DrnF) (alpha : Num) : Nat × Num :=
  if f.act = 0xA && !alpha.isFin then
    match alpha with
    | .inf false => (0, alpha)
    | _ => (0xA, .fin false 0 0)
  else (f.act, alpha)

/-- Stage S5 (R104, R108): `aux` is AUX1's element. The functions and derivatives R104 bounds return one of the values it allows (log entry
23). -/
def stageAct (f : DrnF) (x aux : Num) : Num :=
  let alpha := Fmt.decode 1 f.alpha
  let near (v : Int) (deriv : Bool) (u w : Num) : Num :=
    (Elem.within 24 (-1058) v (Config.activation f.act deriv (Fmt.rne 2 u) (Fmt.rne 2 w) f.alpha)).af48
  if f.deriv then
    let u := if f.derivSrc = 0 then x else aux
    let v := if f.derivSrc = 0 then aux else x
    let g := f.derivAs alpha
    if u.isNan || v.isNan then .nan
    else if f.act = 2 && !alpha.isFin && !(Num.fin false 0 0).lt u then alpha.mul v
    else if !u.isFin || !v.isFin then derivInf g.1 u v g.2
    else match Elem.deriv g.1 (Elem.ofNum g.2) (Elem.ofNum u) with
      | some d => near (Elem.mul d (Elem.ofNum v)) true u v
      | none => if v.isZero then .fin false 0 0 else v.mul (.inf false)
  else if x.isNan then .nan
  else if !x.isFin then actLimit f.act (x.lt (.fin false 0 0)) alpha
  else
    match f.act with
    | 0 => x
    | 1 => if x.lt (.fin false 0 0) then .fin false 0 0 else x
    | 2 => if (Num.fin false 0 0).lt x then x else (alpha.mul x).af48
    | 0xA => if alpha.lt x then alpha else if x.lt alpha.neg then alpha.neg else x
    | 0xB => (x.mul x).af48
    | a => match Elem.act a (Elem.ofNum x) with
      | some v => near v false x (.fin false 0 0)
      | none => .inf false

/-- One element of a row as it goes through S1 to S6: the values at taps 0, 1 and 2, the code S6 writes, whether it
overflowed, and the value before scaling. -/
structure DrnElem where
  t0   : Num
  t1   : Num
  t2   : Num
  code : Nat
  ovf  : Bool
  aux0 : Num
  aux1 : Num
  deriving DecidableEq, Repr

/-- The MX scale of a block of values (R84): from its largest finite magnitude; 0x7F for zeros, 0xFF where it holds a NaN or
an infinity. -/
def mxScale (fmt : Nat) (xs : List Num) : Nat :=
  let emax : Int := match fmt with | 5 => 8 | 6 => 15 | 7 => 4 | _ => 2
  if xs.any fun x => !x.isFin then 0xFF
  else match xs.foldl (fun (m x : Num) => m.max x.abs) (Num.fin false 0 0) with
    | Num.fin _ m e => if m = 0 then 0x7F else (max 0 (min 0xFE (floorLog2 m e - emax + 127))).toNat
    | _ => 0xFF

/-- The value of a tile word as S1 delivers it (R103, R105). -/
def tileNum (f : DrnF) (w : AccWord) : Num :=
  if f.kind = 1 then
    let x := Num.ofInt (signed 48 w.toNat)
    if f.stages then x.af48 else x
  else Fmt.decode 2 w.toNat

/-- Row `i` of a request through S1 to S5 (R107, R108): the values after S4 and after S5, with AUX0 and AUX1. The elements of V are those the
scratchpad holds when the row is read, as S1 of R103 has it; R115's reading of the vectors when the request begins is taken to mean the register
that points to them (log entry 103). -/
def State.drainRow (s : State) (c : PCore) (e : Eng) (r : DrainRun) (f : DrnF) (i : Nat) : List (Num × Num × Num × Num) :=
  let mem := (s.core c).spad
  let acc := (s.core c).acc[e]
  let v := bits r.xv 0 32
  let aux (x fmt j : Nat) : Num := Fmt.decode fmt (readElem mem (bits x 0 32 + i * f.auxPitch) j (Fmt.width fmt))
  let use0 := decide (f.resOp ≠ 0) || decide (f.op0 = 6) || decide (f.op1 = 6)
  let use1 := f.deriv || decide (f.op0 = 7) || decide (f.op1 = 7)
  (List.range f.cols).map fun j =>
    let x := tileNum f (SMap.get 0 acc (accIndex r.req.tile r.req.half i j))
    let a0 := if use0 then aux r.xa0 f.aux0 j else .fin false 0 0
    let a1 := if use1 then aux r.xa1 f.aux1 j else .fin false 0 0
    let x := match f.biasMode with
      | 0 => x
      | m =>
        let b := Fmt.decode f.vecFmt (readElem mem v (if m = 1 then j else i) (Fmt.width f.vecFmt))
        ((if f.biasNeg then x.sub b else x.add b)).af48
    let x := match f.scaleMode with
      | 0 => x
      | 1 => (x.mul (Fmt.decode 1 f.scaleVal)).af48
      | _ => (x.mul (Fmt.decode 1 (readElem mem (v + 512) j 32))).af48
    let x := match f.resOp with
      | 0 => x
      | 1 => (x.add a0).af48
      | _ => (x.mul a0).af48
    let y := if f.act = 0 ∧ !f.deriv then x else stageAct f x a1
    (x, y, a0, a1)

/-- S6 for a row (R80 to R84, R112): the elements, and the block scales of an MX output. -/
def State.convertRow (s : State) (c : PCore) (r : DrainRun) (f : DrnF) (i : Nat) (xs : List (Num × Num × Num × Num)) :
    List DrnElem × List Nat :=
  let mx := decide (f.scaleSrc = 3)
  let scales := if mx then (blocks32 (xs.map fun x => x.2.1) (ceilDiv xs.length 32)).map (mxScale f.outFmt) else []
  let es := xs.zipIdx.map fun ((x, y, a0, a1), j) =>
    let sc := if mx then scales.getD (j / 32) 0x7F else r.scale.getD 0x7F
    let u := if f.rnd = 2 then s.coreRng c f.stream r.step r.layer (bits r.xv 32 32) (i * 128 + j) % 65536 else 0
    let cv := if mx && decide (sc = 0xFF) then (0, false)
      else Fmt.convert f.outFmt f.rnd (if mx then 1 else f.sat) u (if f.scaleSrc = 0 then y else y.unscale sc)
    let t2 := Fmt.decode f.outFmt cv.1
    { t0 := x, t1 := y, t2 := if f.scaleSrc = 0 then t2 else t2.withScale sc, code := cv.1, ovf := cv.2, aux0 := a0, aux1 := a1 }
  (es, scales)

/-- The value at a tap. -/
def DrnElem.tap (e : DrnElem) (t : Nat) : Num := match t with | 0 => e.t0 | 1 => e.t1 | _ => e.t2

/-- Put a value into the entries of a top-k, largest first, ties behind (R109, R110). -/
def topInsert (k : Nat) (isMin : Bool) (x : AccWord) (idx : Nat) : List (AccWord × Nat) → List (AccWord × Nat)
  | [] => if k = 0 then [] else [(x, idx)]
  | (y, j) :: r =>
    if k = 0 then []
    else
      let a := Fmt.decode 2 x.toNat
      let b := Fmt.decode 2 y.toNat
      if (if isMin then a.lt b else b.lt a) then ((x, idx) :: (y, j) :: r).take k else (y, j) :: topInsert (k - 1) isMin x idx r

/-- A row's result in one reduction unit (R109, R110): `old` is what an earlier request left, where CONT combines. -/
def reduceRow (op tap k base : Nat) (es : List DrnElem) (old : Option RedRow) (bad : Bool) : RedRow :=
  let o : RedRow := old.getD ⟨0, [], false⟩
  let vals := es.map fun e => e.tap tap
  let sum (ts : List Num) : AccWord :=
    let t := treeSum ts
    BitVec.ofNat 48 (Fmt.rne 2 (match old with | some r => (Fmt.decode 2 r.sum.toNat).add t | none => t))
  let top (kk : Nat) (isMin : Bool) : List (AccWord × Nat) :=
    vals.zipIdx.foldl (fun l (x, j) =>
      if x.isNan then l else topInsert kk isMin (BitVec.ofNat 48 (Fmt.rne 2 x)) ((base + j) % 2 ^ 32) l) o.ents
  let bad := bad || o.poison
  match op with
  | 1 => ⟨sum vals, [], bad⟩
  | 2 => ⟨sum (vals.map fun x => (x.mul x).af48), [], bad⟩
  | 3 => ⟨0, top 1 false, bad⟩
  | 4 => ⟨0, top 1 true, bad⟩
  | 5 => ⟨0, top k false, bad⟩
  | 6 => ⟨sum (es.map fun e => ((e.tap tap).mul e.aux0).af48), [], bad⟩
  | 7 => ⟨sum (es.map fun e => ((e.tap tap).mul e.aux1).af48), [], bad⟩
  | _ => o

/-- Row `i` of a unit's results replaced, the list grown to reach it. -/
def putRow (l : List RedRow) (i : Nat) (r : RedRow) : List RedRow :=
  (l ++ List.replicate (i + 1 - l.length) (⟨0, [], false⟩ : RedRow)).set i r

/-- The bytes of a row's entry (R109, R110): FP32 with RNE, missing entries the canonical NaN with index 0xFFFF_FFFF. -/
def redBytes (op k : Nat) (r : RedRow) : List Byte :=
  match redEntry op k with
  | 0 => []
  | 4 => leBytes 4 (Fmt.rne 1 (Fmt.decode 2 r.sum.toNat))
  | n => (List.range (n / 8)).flatMap fun i => match r.ents[i]? with
    | some (x, j) => leBytes 4 (Fmt.rne 1 (Fmt.decode 2 x.toNat)) ++ leBytes 4 j
    | none => leBytes 4 0x7FC00000 ++ leBytes 4 0xFFFFFFFF

/-- Packed elements as bytes, lowest first (R66): `w` bits each; the last byte is filled with zeros. -/
def packBytes (w : Nat) (xs : List Nat) : List Byte :=
  leBytes (ceilDiv (xs.length * w) 8) (xs.zipIdx.foldl (fun n (x, i) => n + (x % 2 ^ w) * 2 ^ (i * w)) 0)

/-- Packed elements written to a scratchpad row; bits of the last byte beyond the row stay (R66, R103). -/
def State.spadWriteElems (s : State) (c : PCore) (off w : Nat) (xs : List Nat) (poison : Bool) : State :=
  let bs := packBytes w xs
  let used := xs.length * w % 8
  let bs := if used = 0 then bs
    else
      let last := off + bs.length - 1
      let keep := (s.spadLE c last 1) / 2 ^ used * 2 ^ used
      bs.take (bs.length - 1) ++ [BitVec.ofNat 8 ((bs.getLast?.getD 0).toNat + keep)]
  s.spadWrite c off bs poison

/-- Cut a row for picots into pieces that lie in one granule each, and send each piece as atomics, an element that lies in two granules as one of
its own; none on a translation miss, as which an
address counts that names another module (R6, R114, R256; log entry 87). -/
def State.drainAtomics (s : State) (c : PCore) (e : Eng) (f : DrnF) (base : Nat) (xs : List Nat) (poison : Bool) : Option State :=
  let w := f.outBits / 8
  let page (x : Nat × Nat) : Nat := (base + x.2 * w) / 4096
  let split (x : Nat × Nat) : Bool := decide ((base + x.2 * w + w - 1) / 4096 ≠ page x)
  let src : MemSrc := .drain c.val e.val
  let va (i : Nat) : Nat := (base + i * w) % 2 ^ 64
  (xs.zipIdx.splitBy fun a b => page a == page b && !split b).foldl (fun (os : Option State) piece =>
    match os, piece with
    | some s, (x, i) :: rest =>
      if split (x, i) then
        match s.hereOf (s.partOf c) (va i), s.hereOf (s.partOf c) ((page (x, i) + 1) * 4096 % 2 ^ 64) with
        | some a, some b => some (s.memSend ⟨src, s.partOf c, .atomicOver f.picotOp f.outFmt x poison b, a⟩)
        | _, _ => none
      else
        match s.hereOf (s.partOf c) (va i) with
        | some a => some (s.memSend ⟨src, s.partOf c, .atomic f.picotOp f.outFmt (((x, i) :: rest).map Prod.fst) poison, a⟩)
        | none => none
    | o, _ => o) (some s)

/-- The four block scales of row `i` as they are written (R112); those of blocks that a row of fewer than 97 columns does not have are free
values other than 0x00, which R69 keeps for clamped scales; the same row gives the same ones (R92; log entry 84). -/
def blockScales (i : Nat) (codes scales : List Nat) : List Nat :=
  (scales ++ (List.range 4).map fun k => 1 + Config.absentScale i k (scales ++ codes) % 255).take 4

/-- S7: a row leaves for its destination (R114). The flag is false on a page fault. -/
def State.drainOut (s : State) (c : PCore) (e : Eng) (r : DrainRun) (f : DrnF) (i : Nat) (xs : List Nat) (scales : List Nat)
    (poison : Bool) : State × Bool :=
  match f.dest with
  | 1 =>
    let base := bits r.xd 0 32
    let s := s.spadWriteElems c (base + i * f.pitch) f.outBits xs poison
    if f.scaleSrc = 3 then
      (s.spadWrite c (base + f.scaleOff + 4 * i) ((blockScales i xs scales).map (BitVec.ofNat 8)) poison, true)
    else (s, true)
  | 3 =>
    match s.drainAtomics c e f (r.xd + i * f.pitch) xs poison with
    | some s => (s, true)
    | none => (s, false)
  | _ => (s, true)

/-- Row `i`, read in this cycle, goes on to S7, which it reaches 24 cycles later: a row for the network is due at the core's port in that cycle, and
any other waits beside the unit until then (R103, R114, R202). -/
def State.drainPass (s : State) (c : PCore) (e : Eng) (r : DrainRun) (f : DrnF) (i : Nat) (xs : List Nat) (scales : List Nat)
    (poison : Bool) : State :=
  match f.dest with
  | 0 => s
  | 2 =>
    let per := if f.outFmt = 2 ∧ f.kind ≠ 2 then 126 else 128
    s.netPush c e (bits r.xd 0 12) (2 * (s.cycle + 24)) (flitsOf per poison 16 (packBytes f.outBits xs))
  | _ => s.onDrn c e fun d => { d with outs := d.outs ++ [⟨s.cycle + 24, r, i, xs, scales, poison⟩] }

/-- The scratchpad ranges row `i` of a request reads at S1 (R103, R107): its AUX rows and its vector elements. -/
def drainReads (r : DrainRun) (f : DrnF) (i : Nat) : List (Nat × Nat) :=
  let v := bits r.xv 0 32
  let aux (x fmt : Nat) : Nat × Nat := (bits x 0 32 + i * f.auxPitch, rowBytes f.cols (Fmt.width fmt))
  let w := Fmt.width f.vecFmt
  (if f.resOp ≠ 0 ∨ f.op0 = 6 ∨ f.op1 = 6 then [aux r.xa0 f.aux0] else []) ++
  (if f.deriv ∨ f.op0 = 7 ∨ f.op1 = 7 then [aux r.xa1 f.aux1] else []) ++
  (match f.biasMode with
    | 0 => []
    | 1 => [(v, rowBytes f.cols w)]
    | _ => [(v + i * w / 8, w / 8)]) ++
  (if f.scaleMode = 2 then [(v + 512, 4 * f.cols)] else [])

/-- S1 of row `i` (R96, R103): the errors stored in the row and in what it reads beside it are met, and one that `DRN_CTRL`.INJECT forces at
a pair of the module's choice (log entry 88). The flag says whether the row is poisoned: its half is, or a line it reads is marked (R117,
R384). -/
def State.drainTake (s : State) (c : PCore) (e : Eng) (r : DrainRun) (f : DrnF) (i : Nat) : State × Bool :=
  let half := 2 * r.req.tile + r.req.half
  let s := s.accMeet c e (half * 128 + i)
  let s := if r.inject then
      let x := s.fresh
      x.2.accEcc c e (half * 128 + i) (Config.freeValue x.1 % 64) true
    else s
  let s := (drainReads r f i).foldl (fun s g => s.spadMeet c g.1 g.2) s
  (s, r.inject || s.rdBit (accBase c e) F.ACC_POISON_POISON half ||
    (drainReads r f i).any fun g => s.spadPoisoned c g.1 g.2)

/-- What a request's norm and record updates gather from a row (R86, R111). The record counts NaNs converted and NaNs written (R85). -/
def DrainRun.gather (r : DrainRun) (f : DrnF) (es : List DrnElem) : DrainRun :=
  let zero : Num := .fin false 0 0
  let taps := es.map fun x => x.tap f.normTap
  let fin := (taps.filter fun x => x.isFin).length
  let rowSum := treeSum (taps.map fun x => if x.isFin then (x.mul x).af48 else zero)
  { r with
    sumSq := if f.normEn then BitVec.ofNat 48 (Fmt.rne 2 ((Fmt.decode 2 r.sumSq.toNat).add rowSum)) else r.sumSq
    finite := r.finite + fin
    nonfin := r.nonfin + (taps.length - fin)
    amax := taps.foldl (fun m x => max m (fp32Up x.abs)) r.amax
    recAmax := es.foldl (fun m x => max m (bf16Up x.t1.abs)) r.recAmax
    recOvf := r.recOvf + (es.filter (·.ovf)).length
    recNan := r.recNan || es.any fun x => x.t1.isNan || x.t2.isNan }

/-- The results of row `i` that EMIT sends, each due 28 cycles after the row's read (R103, R109). -/
def emissions (now : Nat) (r : DrainRun) (f : DrnF) (i : Nat) (red0 red1 : RedRow) : List Emission :=
  let x := bits r.xr 0 32
  let one (base op k : Nat) (v : RedRow) : List Emission :=
    if op = 0 then [] else [⟨now + 28, base + i * redEntry op k, redBytes op k v, v.poison⟩]
  if r.req.emit then one x f.op0 f.k0 red0 ++ one (x + 8192) f.op1 f.k1 red1 else []

/-- Row `i` of the running request: stages S1 to S7 and the reductions. -/
def State.drainStep (s : State) (c : PCore) (e : Eng) (r : DrainRun) : State :=
  let f := drnF r.prof
  let i := r.row
  let x := s.drainTake c e r f i
  let s := x.1
  -- the first poisoned row of a request is recorded as it is drained (R117)
  let s := if x.2 && !r.poison then
      (s.setOn (drnBase c e) F.DRN_ERR_POISON).sat (drnBase c e) F.DRN_ERRCNT_POISON_CNT
    else s
  let d := s.drn c e
  let words := (List.range f.cols).map fun j => SMap.get 0 (s.core c).acc[e] (accIndex r.req.tile r.req.half i j)
  let cv := s.convertRow c r f i (if f.kind = 2 then [] else s.drainRow c e r f i)
  let codes := if f.kind = 2 then words.map fun w => w.toNat / 65536 + (w.toNat % 65536) * 2 ^ 32 else cv.1.map (·.code)
  let last := decide (i + 1 = r.req.rows)
  let out := s.cycle + if r.req.emit then 28 else 24
  let r' : DrainRun := { r.gather f cv.1 with
    row := i + 1
    nextAt := s.cycle + (if f.rowBytes > 512 then 2 else 1)
    inject := false
    poison := r.poison || x.2
    outAt := out }
  let red (op tap k : Nat) (l : List RedRow) : RedRow :=
    reduceRow op tap k (bits r.xr 32 32) cv.1 (if r.req.cont then l[i]? else none) x.2
  let red0 := red f.op0 f.tap0 f.k0 d.red0
  let red1 := red f.op1 f.tap1 f.k1 d.red1
  let s := s.count (drnBase c e) F.DRN_ROWS_COUNT
  let s := s.onDrn c e fun d => { d with
    run := if last then none else some r'
    ended := if last then d.ended ++ [r'] else d.ended
    red0 := if f.op0 = 0 then d.red0 else putRow d.red0 i red0
    red1 := if f.op1 = 0 then d.red1 else putRow d.red1 i red1
    emits := d.emits ++ emissions s.cycle r f i red0 red1
    lastRead := s.cycle
    allOut := max d.allOut out }
  let s := if last then s.halfDone c e r.req.tile r.req.half else s
  s.drainPass c e r f i codes cv.2 x.2

/-- DRAIN_ROW_READ: the running request reads its next row, at most one a cycle (one in two where an output row exceeds
512 B), and carries it through S1 to S7 and the reductions; after the last row its half is free (R99, R103, R106, R117). -/
def execDrainRowRead (c : PCore) (e : Eng) (s : State) : Host.Outcome State Fault Refusal :=
  .next (match (s.drn c e).run with
    | none => s
    | some r =>
      if r.scale.isNone || decide (s.cycle < r.nextAt) then s
      else s.drainStep c e r)

/-- The reduction results due by the end of cycle `t` are written (R103, R109). -/
def State.emitDue (s : State) (c : PCore) (e : Eng) (t : Nat) : State :=
  let due := (s.drn c e).emits.filter fun x => decide (x.due ≤ t)
  if due.isEmpty then s
  else due.foldl (fun s x => s.spadWrite c x.off x.bytes x.poison)
    (s.onDrn c e fun d => { d with emits := d.emits.filter fun x => decide (t < x.due) })

/-- Whether the stacks that hold the first and the last byte of a row are reached now (R18, R114, R219). -/
def State.rowFlows (s : State) (c : PCore) (x : RowOut) : Bool :=
  let f := drnF x.run.prof
  let at_ (i : Nat) : Bool := match s.hereOf (s.partOf c) ((x.run.xd + x.row * f.pitch + i) % 2 ^ 64) with
    | some a => match s.stackOf a with
      | some k => s.toStack c k
      | none => true
    | none => true
  decide (f.dest ≠ 3) || (at_ 0 && at_ (f.rowBytes - 1))

/-- The rows due by the end of cycle `t` leave S7; a translation miss is a page fault (R103, R114). -/
def State.rowsDue (s : State) (c : PCore) (e : Eng) (t : Nat) : State :=
  let due := (s.drn c e).outs.filter fun x => decide (x.due ≤ t) && s.rowFlows c x
  if due.isEmpty then s
  else due.foldl (fun s x =>
      let o := s.drainOut c e x.run (drnF x.run.prof) x.row x.codes x.scales x.poison
      if o.2 then o.1 else s.pageFault c x.run.req.ia)
    (s.onDrn c e fun d => { d with outs := d.outs.filter fun x => !due.contains x })

/-- Whether the picots that a request's updates go to are reached now (R18, R219). -/
def State.updatesFlow (s : State) (c : PCore) (r : DrainRun) : Bool :=
  let f := drnF r.prof
  let tag := if f.scaleSrc = 2 then r.recTag else f.normTag
  let rec_ : Bool := match (s.localOf (s.partOf c) f.record).bind s.stackOf with
    | some k => s.toStack c k
    | none => true
  (!f.normEn || s.toStack c ⟨tag % 20, Nat.mod_lt _ (by omega)⟩) && (decide (f.scaleSrc ≠ 2) || rec_)

/-- The updates of a request that met no poison (R86, R111, R113); a value-and-index tile has gathered nothing, and its updates are all zero
(log entry 89). -/
def State.drainUpdates (s : State) (c : PCore) (e : Eng) (r : DrainRun) : State :=
  let f := drnF r.prof
  let p := s.partOf c
  let s := if f.normEn then
      let tag := if f.scaleSrc = 2 then r.recTag else f.normTag
      s.normSend ⟨.drain c.val e.val, p, .norm tag r.sumSq.toNat r.finite r.nonfin r.amax, 0⟩ tag
    else s
  if f.scaleSrc = 2 then
    match s.localOf p f.record with
    | some a => s.memSend ⟨.drain c.val e.val, p, .recUpdate r.recAmax r.recOvf r.recNan, a⟩
    | none => s
  else s

/-- DRAIN_REQUEST_END: the last row of a request has left S7 and its last reduction results are written; its norm and record updates are
sent, unless it met poison (R103, R111, R113, R117). A row or an update that cannot travel now is waited for (R219). -/
def execDrainRequestEnd (c : PCore) (e : Eng) (s : State) : Host.Outcome State Fault Refusal :=
  let b := drnBase c e
  .next (match (s.drn c e).ended with
    | [] => s
    | r :: rest =>
      let s' := (s.rowsDue c e s.cycle).emitDue c e s.cycle
      if decide (s.cycle < r.outAt) || (s'.drn c e).outs.any (fun x => decide (x.due ≤ r.outAt)) || !(r.poison || s.updatesFlow c r) then s
      else
        let f := drnF r.prof
        let s := s'.onDrn c e fun d => { d with ended := rest }
        if r.poison then
          if f.normEn || decide (f.scaleSrc = 2) then s.setOn b F.DRN_ERR_UPD_DROP else s
        else s.drainUpdates c e r)

end Sys2Proof.Machine
end

