-- ==== Sys2Proof/Machine/Windows.lean ====
section
/-!
DEFINITION. Windows and the core's network port: window writes and their verdicts (R186 to R188, R192), credit requests
(R189), WOPEN and WCLOSE (R173, R190), sinks (R207), NSEND and NPUT (R173, R475), and remote scratchpad reads (R183).
-/
namespace Sys2Proof.Machine

/-! ### Arrivals -/

/-- Add arrived lines to a counter: it saturates at 2^32 − 1 and sets CNT_OVF, which in strict mode aborts the task with
cause 3 (R188). -/
def State.countArrivals (s : State) (c : PCore) (k n : Nat) : State :=
  let v := s.arrive c k + n
  let s := s.wr (spdBase c) F.SPD_ARRIVE_COUNT (min v (2 ^ 32 - 1)) k
  if v < 2 ^ 32 then s
  else
    let s := s.setOn (spdBase c) F.SPD_ERR_CNT_OVF
    if s.on (coreBase c) F.SEQ_CTRL_STRICT then s.abortTask (s.partOf c) 3 none else s

/-- A line arrives at the landing buffer of a core for window `w` (16 for none): it lands and is counted, or finds the
buffer full, is discarded and aborts the task with cause 6 (R180, R188). -/
def State.landLine (s : State) (c : PCore) (w ctr off : Nat) (bs : List Byte) (poison : Bool) : State :=
  if (s.core c).landing.length ≥ 64 then
    (s.setOn (spdBase c) F.SPD_ERR_LAND_OVF).abortTask (s.partOf c) 6 none
  else
    let s := s.spadWrite c off bs poison
    let s := s.onCore c fun r => { r with landing := r.landing ++ [(w, off / 64 % 48)] }
    s.countArrivals c ctr 1

/-- Whole lines land one after another from `off` up. -/
def State.landLines (s : State) (c : PCore) (w ctr off : Nat) : Nat → List Byte → Bool → State
  | 0, _, _ => s
  | n + 1, bs, poison => (s.landLine c w ctr off (bs.take 64) poison).landLines c w ctr (off + 64) n (bs.drop 64) poison

/-! ### The check of a window write (R186, R187) -/

/-- The verdict codes (R192): 0 ACCEPTED, 1 REFUSED_CLOSED, 2 REFUSED_NOTOPEN, 3 REFUSED_EXTERNAL, 4 REFUSED_RANGE, 5
REFUSED_NOCREDIT, 6 REFUSED_RESET, 7 PARTITION_RESET. The conditions of R186 in their order. -/
def State.windowCheck (s : State) (c : PCore) (w gen off len srcM srcC : Nat) : Nat :=
  let b := spdBase c
  let behind := (s.rd b F.SPD_WIN_B_GEN w + 65536 - gen % 65536) % 65536
  if s.partInReset (s.partOf c) then 7
  else if s.inReset c then 6
  else if 1 ≤ behind ∧ behind ≤ 32768 then 1
  else if ¬ s.winOpen c w ∨ behind ≠ 0 then 2
  else if srcM ≠ 0xFFFF ∧ ¬ s.on b F.SPD_WIN_A_EXT w then 3
  else if off % 64 ≠ 0 ∨ s.rd b F.SPD_WIN_A_LEN w < off + len then 4
  else if s.on b F.SPD_WIN_A_CREDIT w ∧ creditOf (s.creditTable c w) srcM srcC < len then 5
  else 0

/-- Count a refusal of a verdict (R186). -/
def State.countRefusal (s : State) (c : PCore) (v : Nat) : State :=
  let b := spdBase c
  match v with
  | 1 => s.sat b F.SPD_LATEDROP_COUNT
  | 2 => s.sat b F.SPD_REFUSED_NOTOPEN
  | 3 => s.sat b F.SPD_REFUSED_EXTERNAL
  | 4 => s.sat b F.SPD_REFUSED_RANGE
  | 5 => s.sat b F.SPD_REFUSED_NOCREDIT
  | _ => s.sat b F.SPD_RESETDROP_COUNT

/-- Record a refusal in `SPD_LASTREF` (R186, R193). -/
def State.lastRefusal (s : State) (c : PCore) (v w off srcM srcC : Nat) : State :=
  let b := spdBase c
  let s := (s.wr b F.SPD_LASTREF_VERDICT v).wr b F.SPD_LASTREF_WINDOW w
  let s := s.wr b F.SPD_LASTREF_SRC_CORE (if srcM = 0xFFFF then srcC else 0x3F)
  (s.wr b F.SPD_LASTREF_SRC_MODULE srcM).wr b F.SPD_LASTREF_OFFSET off

/-- A window write request reaches its target (R186, R187): the state after it, and its verdict. A request of a sequence
that has been refused is refused with the same verdict. An accepted request takes its credit, lands whole and is counted. -/
def State.windowArrive (s : State) (c : PCore) (w gen off srcM srcC seq : Nat) (bs : List Byte) (poison : Bool) : State × Nat :=
  let src := srcM * 64 + srcC
  let prior := (s.core c).refused.find? fun r => r.1 = src && r.2.1 = seq * 16 + w
  let v := match prior with
    | some r => r.2.2
    | none => s.windowCheck c w gen off bs.length srcM srcC
  if v ≠ 0 then
    let s := (s.countRefusal c v).lastRefusal c v w off srcM srcC
    (if prior.isSome then s else s.onCore c fun r => { r with refused := (src, seq * 16 + w, v) :: r.refused }, v)
  else
    let b := spdBase c
    let s := if s.on b F.SPD_WIN_A_CREDIT w then
        let t := s.creditTable c w
        (s.setCreditTable c w (setCredit t srcM srcC (creditOf t srcM srcC - bs.length))).creditSweep c
      else s
    (s.landLines c w (s.rd b F.SPD_WIN_A_COUNTER w) (s.rd b F.SPD_WIN_A_BASE w + off) (bs.length / 64) bs poison, 0)

/-! ### NSEND and NPUT -/

/-- Whether an NSEND of a core's port still has 128 B to send on a stream. -/
def NetOp.sends (o : NetOp) (stream : Nat) : Bool := !o.isPut && decide (o.stream = stream) && decide (o.formed < o.total)

/-- Whether an NSEND of a core waits for the credit of its multicast stream: nothing behind it in NQ starts (R318). -/
def State.sendWaits (s : State) (c : PCore) : Bool := (s.core c).netOps.any fun o => o.sends o.stream && !s.txCredit o.stream

/-- Take a network instruction at the head of NQ when its opcode is `op`. -/
def State.execNet (s : State) (c : PCore) (op : Nat) (run : State → IWord → Nat → State) : State :=
  match s.headInstr c 7 with
  | some (w, ia) => if opcodeOf w = op ∧ s.sendWaits c = false then run s w ia else s
  | none => s

/-- The low 32 bits of the register a field of a word names. -/
def State.x32 (s : State) (c : PCore) (w : IWord) (lo : Nat) : Nat := (s.x c (fieldOf w lo 5)).toNat % 2 ^ 32

/-- A network operation with nothing sent. -/
def NetOp.new (id : Nat) (w : IWord) (ia src total flag inc : Nat) : NetOp where
  id := id
  word := w
  ia := ia
  isPut := false
  src := src
  total := total
  formed := 0
  done := 0
  okBytes := 0
  verdict := 0
  genSeen := 0
  target := 0
  win := 0
  gen := 0
  woff := 0
  flag := flag
  inc := inc
  recOff := none
  stream := 0

/-- Note a network operation in progress. -/
def State.addNetOp (s : State) (c : PCore) (o : NetOp) : State :=
  s.onCore c fun r => { r with netOps := r.netOps ++ [o], netNext := o.id + 1 }

/-- NSEND: sends XLEN bytes as flits of 128 B on a stream of the core's network port, which reads each 128 B when a slot of the stream comes
(R173). An NSEND to a multicast stream waits at the head until its entry has credit (R318). -/
def execNsend (c : PCore) (s : State) : Host.Outcome State Fault Refusal :=
  .next (s.execNet c 0xA0 fun s w ia =>
    let src := s.x32 c w 95
    let len := s.x32 c w 90
    let stream := fieldOf w 100 12
    if len = 0 ∨ len % 128 ≠ 0 ∨ ¬ spadFits src len then s.skipHead c 7 w ia 0x13
    else if !s.streamBound c stream 2 0 then s.skipHead c 7 w ia 0x17
    else if !s.txCredit stream then s
    else
      let id := (s.core c).netNext
      let o := { NetOp.new id w ia src len (fieldOf w 84 6) (fieldOf w 68 16) with stream := stream }
      (s.popQ c 7).addNetOp c o)

/-- The next flit of a stream's oldest NSEND that has one to send, read from the scratchpad now with the marks of its two lines; the flit
carries the NSEND's number (R173, R384). -/
def State.sendNext (s : State) (c : PCore) (stream : Nat) : Option (State × Flit × List (Nat × Nat)) :=
  match (s.core c).netOps.find? fun o => o.sends stream with
  | none => none
  | some o =>
    let x := s.spadTake c (o.src + o.formed) 128
    some (x.1.onCore c (fun r => { r with netOps := r.netOps.map fun p => if p.id = o.id then { p with formed := p.formed + 128 } else p }),
      flitOf x.2.1 x.2.2, [(c.val, o.id)])

/-- Whether an NSEND has lines to place or a flit still on its way to its far end (R173, R207, R318). -/
def State.sendPending (s : State) (c : PCore) (o : NetOp) : Bool := decide (o.formed < o.total) || s.opFlying c o.id

/-- NSENDs whose last data is visible at the far end signal their completion pairs (R173). -/
def State.sendSweepCore (s : State) (c : PCore) : State :=
  let fin := (s.core c).netOps.filter fun o => !o.isPut && !s.sendPending c o
  let s := s.onCore c fun r => { r with netOps := r.netOps.filter fun o => !fin.any fun d => d.id = o.id }
  fin.foldl (fun s o => s.signalPair c o.flag o.inc o.ia) s

/-- The same, for every core that has an NSEND in progress. -/
def State.sendSweep (s : State) : State :=
  allCores.foldl (fun s c => if (s.core c).netOps.any (fun o => !o.isPut) then s.sendSweepCore c else s) s

/-- Send the next request of an NPUT: 512 B, the last one shorter, whose lines are read now (R173, R186; log entry 41). -/
def State.formPut (s : State) (c : PCore) (o : NetOp) : State :=
  let n := min 512 (o.total - o.formed)
  match s.physOf o.target with
  | none => s
  | some t =>
    let x := s.spadTake c (o.src + o.formed) n
    let q : WinReq := ⟨.nput c.val o.id, 0xFFFF, (s.logicalOf c).getD 0x3F, o.id * 4, t, o.win, o.gen, o.woff + o.formed, x.2.1, x.2.2⟩
    let s := { x.1 with winReqs := s.winReqs ++ [q] }
    s.onCore c fun r => { r with netOps := r.netOps.map fun p => if p.id = o.id then { p with formed := o.formed + n } else p }

/-- Whether an NPUT has requests still to form. -/
def NetOp.puts (o : NetOp) : Bool := o.isPut && decide (o.formed < o.total)

/-- A core's port forms the next request of its oldest NPUT that has one left: in each network cycle one, its predecessor's lines placed, while its
partition's entries are not held (R173, R219; log entry 41). -/
def State.putNext (s : State) (c : PCore) : State :=
  match (s.core c).netOps.find? fun o => o.puts with
  | some o => if s.rdBit (netBase 0) F.NET_PARTHOLD_HOLD (s.partOf c) then s else s.formPut c o
  | none => s

/-- NPUT: writes XLEN bytes into a window of a core of the partition as requests of 512 B one after another (R173). -/
def execNput (c : PCore) (s : State) : Host.Outcome State Fault Refusal :=
  .next (s.execNet c 0xA1 fun s w ia =>
    let src := s.x32 c w 107
    let len := s.x32 c w 102
    let xoff := (s.x c (fieldOf w 87 5)).toNat
    let core := fieldOf w 96 6
    let recs := fieldOf w 64 1 = 1
    let xrec := s.x32 c w 59
    match s.physOf core with
    | none => s.skipHead c 7 w ia 0x12
    | some t =>
      if s.partOf t ≠ s.partOf c then s.skipHead c 7 w ia 0x12
      else if len = 0 ∨ len % 64 ≠ 0 ∨ ¬ spadFits src len ∨ (recs ∧ (xrec % 16 ≠ 0 ∨ ¬ spadFits xrec 16)) then
        s.skipHead c 7 w ia 0x13
      else
        let id := (s.core c).netNext
        let o := { NetOp.new id w ia src len (fieldOf w 81 6) (fieldOf w 65 16) with
          isPut := true, target := core, win := fieldOf w 92 4, gen := bits xoff 32 16, woff := bits xoff 0 32,
          recOff := if recs then some xrec else none }
        ((s.popQ c 7).addNetOp c o).putNext c)

/-- The record of R192. -/
def NetOp.bytes (o : NetOp) : List Byte :=
  leBytes 1 o.verdict ++ leBytes 1 o.win ++ leBytes 2 o.genSeen ++ leBytes 4 o.okBytes ++ leBytes 1 o.target ++ leBytes 7 0

/-- NPUT_VERDICT_RETURN: the verdict of an NPUT's last request has returned; its record is written and its pair signalled
(R173, R192). -/
def execNputVerdictReturn (c : PCore) (s : State) : Host.Outcome State Fault Refusal :=
  .next (match (s.core c).netOps.find? fun o => o.isPut && decide (o.done = o.total) with
    | none => s
    | some o =>
      let s := s.onCore c fun r => { r with netOps := r.netOps.filter fun p => p.id ≠ o.id }
      let s := match o.recOff with
        | some a => s.spadWrite c a o.bytes
        | none => s
      s.signalPair c o.flag o.inc o.ia)

/-- A verdict reaches the port that sent the request: bytes accepted, and the first refusal (R187, R192). -/
def State.putAnswer (s : State) (c : PCore) (id len gen v : Nat) : State :=
  match (s.core c).netOps.find? fun o => o.id = id with
  | none => s
  | some o =>
    let o' := { o with done := o.done + len, okBytes := if v = 0 then o.okBytes + len else o.okBytes,
                       verdict := if o.verdict = 0 then v else o.verdict, genSeen := gen }
    s.onCore c fun r => { r with netOps := r.netOps.map fun p => if p.id = id then o' else p }

/-- Change a bobbin. -/
def State.onBob (s : State) (c : PCore) (b : Bob) (f : BobRec → BobRec) : State :=
  s.onCore c fun r => { r with bobs := vupd r.bobs b f }

/-- Whether two requests come from the same unit, so that they arrive in the order they were sent. -/
def WinReq.sameUnit (a b : WinReq) : Bool :=
  match a.src, b.src with
  | .nput c _, .nput d _ => c = d
  | .bobbin c i _, .bobbin d j _ => c = d && i = j
  | _, _ => false

/-- Whether a window write or credit request of source core `c`, where it is one of this module, reaches a core now; in a partition reset the
target answers it itself (R18, R186, R219). -/
def State.reachesCore (s : State) (c : Nat) (t : PCore) : Bool :=
  s.partInReset (s.partOf t) || s.flows (s.partOf t) (c / 16) (dieOf t).val

/-- The core that sent a window write. -/
def WinReq.from_ (q : WinReq) : Nat :=
  match q.src with
  | .nput c _ => c
  | .bobbin c _ _ => c

/-- WINDOW_WRITE_REQUEST: the first line of the `i`-th request on its way reaches its core; requests of one unit arrive in
order (R186, R187). -/
def execWindowWriteRequest (i : Nat) (s : State) : Host.Outcome State Fault Refusal :=
  .next (match s.winReqs[i]? with
    | none => s
    | some q =>
      if (s.winReqs.take i).any (q.sameUnit ·) || !s.reachesCore q.from_ q.target then s
      else
        let s := { s with winReqs := s.winReqs.eraseIdx i }
        let a := s.windowArrive q.target q.win q.gen q.off q.srcM q.srcC q.seq q.data q.poison
        let gen := a.1.rd (spdBase q.target) F.SPD_WIN_B_GEN q.win
        match q.src with
        | .nput c id => if h : c < 64 then a.1.putAnswer ⟨c, h⟩ id q.data.length gen a.2 else a.1
        | .bobbin c b tag =>
          if h : c < 64 ∧ b < 2 then
            a.1.onBob ⟨c, h.1⟩ ⟨b, h.2⟩ fun r => { r with reqs := r.reqs.map fun x =>
              if x.tag = tag ∧ x.xfer * 4 + 1 + b = q.seq then { x with status := a.2, done := true } else x }
          else a.1)

/-! ### Credit requests -/

/-- A credit request reaches the core that owns the window: granted, queued or refused (R189). -/
def State.creditArrive (s : State) (c : PCore) (q : CreditReq) : State :=
  let b := spdBase c
  let bad := !s.winOpen c q.win || !s.on b F.SPD_WIN_A_CREDIT q.win || decide (q.bytes % 64 ≠ 0) || decide (q.bytes < 64) ||
    decide (s.rd b F.SPD_WIN_A_LEN q.win < q.bytes) || (decide (q.srcM ≠ 0xFFFF) && !s.on b F.SPD_WIN_A_EXT q.win)
  let queue := (s.core c).creditQ
  if bad then s.creditRefuse c q.srcM q.srcC
  else if !queue.any (fun e => e.win = q.win) && s.creditFits c q then s.creditGrant c q
  else if queue.length < 16 then
    (s.onCore c fun r => { r with creditQ := r.creditQ ++ [q] }).wr b F.SPD_CREDIT_QDEPTH (queue.length + 1)
  else s.creditRefuse c q.srcM q.srcC

/-- NCREDIT: sends a request for XLEN bytes of credit in a window of a core of the partition (R173, R189). -/
def execNcredit (c : PCore) (s : State) : Host.Outcome State Fault Refusal :=
  .next (s.execNet c 0xA2 fun s w ia =>
    match s.physOf (fieldOf w 106 6) with
    | none => s.skipHead c 7 w ia 0x12
    | some t =>
      if s.partOf t ≠ s.partOf c then s.skipHead c 7 w ia 0x12
      else
        let q : CreditReq := ⟨fieldOf w 102 4, s.x32 c w 97, 0xFFFF, (s.logicalOf c).getD 0x3F, fieldOf w 91 6, fieldOf w 75 16⟩
        let s := s.popQ c 7
        { s with creditMs := s.creditMs ++ [(t, q)] })

/-- CREDIT_REQUEST_ARRIVAL: the `i`-th credit request on its way reaches its window's owner (R189). -/
def execCreditRequestArrival (i : Nat) (s : State) : Host.Outcome State Fault Refusal :=
  .next (match s.creditMs[i]? with
    | none => s
    | some (t, q) =>
      let src := if q.srcM = 0xFFFF then ((s.physOf q.srcC).getD t).val else t.val
      if !s.reachesCore src t then s
      else ({ s with creditMs := s.creditMs.eraseIdx i }).creditArrive t q)

/-! ### WOPEN and WCLOSE -/

/-- Whether a region overlaps the region of an open window (R185). -/
def State.overlapsOpen (s : State) (c : PCore) (base len : Nat) : Bool :=
  (List.range 16).any fun w => s.winOpen c w && overlaps base len (s.rd (spdBase c) F.SPD_WIN_A_BASE w, s.rd (spdBase c) F.SPD_WIN_A_LEN w)

/-- Open a window: base, length, counter set to zero, modes, pool and an empty table (R173, R189). -/
def State.openWindow (s : State) (c : PCore) (w base len k : Nat) (credit ext : Bool) : State :=
  let b := spdBase c
  let credit := credit || s.on b F.SPD_CTRL_CREDIT_FORCE
  let s := (s.wr b F.SPD_WIN_A_BASE base w).wr b F.SPD_WIN_A_LEN len w
  let s := (s.wr b F.SPD_WIN_A_COUNTER k w).wr b F.SPD_WIN_A_CREDIT (if credit then 1 else 0) w
  let s := s.wr b F.SPD_WIN_A_EXT (if ext then 1 else 0) w
  let s := s.wr b F.SPD_WIN_B_POOL (if credit then len else 0) w
  let s := s.setCreditTable c w []
  let s := s.onCore c fun r => { r with sinkOff := SMap.wipe (fun k => k / 4096 = w) r.sinkOff }
  (s.wr b F.SPD_ARRIVE_COUNT 0 k).wrBit b F.SPD_WINOPEN_OPEN w true

/-- WOPEN: opens a window; it waits at the head while the window or its counter drains (R173, R185, R190). -/
def execWopen (c : PCore) (s : State) : Host.Outcome State Fault Refusal :=
  .next (s.execNet c 0xA3 fun s w ia =>
    let win := fieldOf w 108 4
    let x := (s.x c (fieldOf w 103 5)).toNat
    let base := bits x 0 32
    let len := bits x 32 32
    let k := fieldOf w 98 5
    let held := s.counterWindow c k
    if base % 64 ≠ 0 ∨ len = 0 ∨ len % 64 ≠ 0 ∨ ¬ spadFits base len then s.skipHead c 7 w ia 0x13
    else if s.winOpen c win ∨ (held.any fun v => s.winOpen c v) ∨ s.overlapsOpen c base len then s.skipHead c 7 w ia 0x15
    else if s.winDraining c win ∨ held.isSome then s
    else (s.popQ c 7).openWindow c win base len k (fieldOf w 97 1 = 1) (fieldOf w 96 1 = 1))

/-- WCLOSE: closes an open window (R173, R190). -/
def execWclose (c : PCore) (s : State) : Host.Outcome State Fault Refusal :=
  .next (s.execNet c 0xA4 fun s w ia =>
    let win := fieldOf w 108 4
    if s.winOpen c win then (s.popQ c 7).closeWindow c win else s.skipHead c 7 w ia 0x15)

/-- WINDOW_DRAIN_END: the last accepted line of a closed window has been counted; its counter is unbound (R190). -/
def execWindowDrainEnd (c : PCore) (w : Fin 16) (s : State) : Host.Outcome State Fault Refusal :=
  .next (if s.winDraining c w.val ∧ ¬ ((s.core c).landing.any fun l => l.1 = w.val) then
      s.wrBit (spdBase c) F.SPD_WINOPEN_DRAINING w.val false
    else s)

/-! ### Sinks -/

/-- The window a core's stream table binds a sink stream to (R207, R222). -/
def State.sinkWindow (s : State) (c : PCore) (stream : Nat) : Option Nat :=
  ((List.range 256).find? fun i => decide (s.rd (coreBase c) F.NET_STREAM_STREAM i = stream) &&
    decide (s.rd (coreBase c) F.NET_STREAM_ROLE i = 3)).map fun i => s.rd (coreBase c) F.NET_STREAM_WINDOW i

/-- The reason a sink's delivery is refused, by conditions 1, 2, 4 and 6 of R186; 0 none. -/
def State.sinkCheck (s : State) (c : PCore) (w : Nat) : Nat :=
  if s.partInReset (s.partOf c) then 7 else if s.inReset c then 6
  else if ¬ s.winOpen c w ∨ s.rd (spdBase c) F.SPD_WIN_A_LEN w < 64 then 2 else 0

/-- Deliver one line of a sink stream at its next offset, or refuse it (R207). -/
def State.sinkLine (s : State) (c : PCore) (w stream : Nat) (bs : List Byte) (poison : Bool) : State :=
  let v := s.sinkCheck c w
  let b := spdBase c
  let key := w * 4096 + stream
  let off := SMap.get 0 (s.core c).sinkOff key
  if v ≠ 0 then (s.countRefusal c v).lastRefusal c v w off 0xFFFF 0x3F
  else
    let len := s.rd b F.SPD_WIN_A_LEN w
    let s := s.onCore c fun r => { r with sinkOff := SMap.set 0 r.sinkOff key ((off + 64) % len) }
    s.landLine c w (s.rd b F.SPD_WIN_A_COUNTER w) (s.rd b F.SPD_WIN_A_BASE w + off) bs poison

/-- The oldest flit at a core's port lanes P0 and P1 (R205). -/
def State.portFlit (s : State) (c : PCore) : Option Nat :=
  s.net.dst.findIdx? fun x => decide (x.die = c.val / 16) && decide (x.router = c.val % 16) &&
    (decide (x.lane = 8) || decide (x.lane = 9))

/-- SINK_DELIVERY: the oldest flit at a core's port is delivered line by line into the window its stream is bound to, counted
there or refused; an NSEND whose last flit it was completes (R173, R207). A flit of a stream bound to no sink is dropped (log
entry 29). -/
def execSinkDelivery (c : PCore) (s : State) : Host.Outcome State Fault Refusal :=
  .next (match s.portFlit c with
    | none => s
    | some i =>
      match s.net.dst[i]? with
      | none => s
      | some x =>
        let s := { s with net := { s.net with dst := s.net.dst.eraseIdx i } }
        let s := match s.sinkWindow c x.stream with
          | some w => (s.sinkLine c w x.stream (x.flit.data.take 64) x.flit.poison).sinkLine c w x.stream (x.flit.data.drop 64) x.flit.poison
          | none => if s.partInReset (s.partOf c) ∨ s.inReset c then s.sat (spdBase c) F.SPD_RESETDROP_COUNT 2 else s
        s.sendSweep)

end Sys2Proof.Machine
end

