-- ==== Sys2Proof/Machine/Network.lean ====
section
/-!
DEFINITION. The pricking network: lanes and channels (R197 to R199, R205), one network cycle of every router (R201, R202, R207 to
R210, R214, R220), and loading a pricking (R203, R204, R216 to R218).
-/
namespace Sys2Proof.Machine

/-! ### Routers and lanes -/

/-- Whether a router index is one of the four interior routers (R197). -/
def interior (r : Nat) : Bool := r = 5 || r = 6 || r = 9 || r = 10

/-- The router that a mesh lane (0-7) leads to, if the die has one there (R197, R205). -/
def meshNext (r lane : Nat) : Option Nat :=
  match lane / 2 with
  | 0 => if r / 4 = 0 then none else some (r - 4)
  | 1 => if r % 4 = 3 then none else some (r + 1)
  | 2 => if r / 4 = 3 then none else some (r + 4)
  | _ => if r % 4 = 0 then none else some (r - 1)

/-- The input lane at the far end of a mesh lane: N meets S, E meets W (R202, R205). -/
def meshFar (lane : Nat) : Nat := (lane / 2 + 2) % 4 * 2 + lane % 2

/-- The attachment of a router: its number of lanes (R198, R199). -/
def attachLanes (die r : Nat) : Nat :=
  if r = 0 ∨ r = 1 ∨ r = 2 ∨ r = 4 ∨ r = 8 then 6
  else if r = 3 ∨ r = 12 then 3
  else if r = 7 ∨ r = 11 ∨ r = 13 ∨ r = 14 then 12
  else if r = 15 ∧ die = 0 then 1 else 0

/-- Whether a router has a lane (R198, R199, R205). -/
def hasLane (die r lane : Nat) : Bool :=
  if lane < 8 then
    match meshNext r lane with
    | some n => lane % 2 = 0 || !(interior r && interior n)
    | none => false
  else if lane < 10 then true
  else lane < 10 + attachLanes die r

/-- The die that a bridge router's attachment leads to: the horizontal neighbour from (1, 3) and (2, 3), the vertical one from
(3, 1) and (3, 2) (R17, R199, R210). -/
def bridgeDie (die r : Nat) : Option Nat :=
  if r = 7 ∨ r = 11 then some (die ^^^ 1) else if r = 13 ∨ r = 14 then some (die ^^^ 2) else none

/-- The number of the bridge at a bridge router (R17). -/
def bridgeOf (die r : Nat) : Nat := if r = 7 ∨ r = 11 then die / 2 * 2 else if die % 2 = 1 then 1 else 3

/-- Whether a lane of a router is a bridge lane. -/
def isBridge (die r lane : Nat) : Bool := 10 ≤ lane && (bridgeDie die r).isSome

/-! ### Slots (R201, R203) -/

/-- The frame length in force (R201, R218). -/
def State.frameLen (s : State) : Nat := s.net.oldLen.getD (s.rd (netBase 0) F.NET_FRAME_LEN)

/-- The current slot (R201). -/
def State.netSlot (s : State) : Nat := s.rd (netBase 0) F.NET_SLOT_SLOT

/-- The entries that every router sends by in a slot: die, router, output lane and entry; the entries of a held partition are idle
(R203, R219). -/
def State.slotEntries (s : State) (slot : Nat) : List (Nat × Nat × Nat × Entry) :=
  let bank := s.netBank
  s.net.tables.filterMap fun (k, v) =>
    let e := entryOf v
    if k % 512 = bank * 256 + slot ∧ e.kind ≠ 0 ∧ s.rdBit (netBase 0) F.NET_PARTHOLD_HOLD e.part = false then
      some (k / 512 / 32 / 16, k / 512 / 32 % 16, k / 512 % 32, e)
    else none

/-- Write a register of every die's network page: module-wide values, and counters that are the same on every die. -/
def State.netAll (s : State) (f : Fld) (v : Nat) : State := (List.finRange 4).foldl (fun s d => s.wr (netBase d) f v) s

/-! ### What stands on an input lane -/

/-- Change the network. -/
def State.onNet (s : State) (f : NetRec → NetRec) : State := { s with net := f s.net }

/-- The flit on an input lane in a network cycle. -/
def State.inputAt (s : State) (t die r lane : Nat) : Option FlitAt :=
  s.net.flits.find? fun x => x.time = t && x.die = die && x.router = r && x.lane = lane

/-- The entries that will read a core's port lane in cycle `t`, in the slot `slot` of that cycle: a forward one slot later, a merge
three slots later (R202). -/
def State.portReads (s : State) (slot : Nat) : List (Nat × Nat × Nat × Entry) :=
  let f := s.frameLen
  let ports (l : List (Nat × Nat × Nat × Entry)) (kind : Nat) : List (Nat × Nat × Nat × Entry) := l.flatMap fun (d, r, _, e) =>
    if e.kind ≠ kind then [] else
      ((if kind = 2 then [e.inA, e.inB] else [e.inA]).filter fun i => i = 8 || i = 9).map fun i => (d, r, i, e)
  ports (s.slotEntries ((slot + 1) % f)) 1 ++ ports (s.slotEntries ((slot + 3) % f)) 2

/-- A not-ready marker (R206). -/
def Flit.marker : Flit := ⟨false, true, false, []⟩

/-- Whether a drain unit has rows of a stream that are not at the port yet: of its running request, of one that is bound and waits, or, while a
replay delays the engine, of one still in the engine queue (R53, R106). -/
def State.drainBehind (s : State) (c : PCore) (d : Eng) (stream : Nat) : Bool :=
  let r := s.drn c d
  let feeds (prof : List Nat) (xd : Nat) : Bool := decide ((drnF prof).dest = 2) && decide (bits xd 0 12 = stream)
  let word (w : IWord) : Bool := feeds (s.profWords c d (fieldOf w 105 3)) (s.x c (fieldOf w 90 5)).toNat
  (match r.run with
    | some x => feeds x.prof x.xd
    | none => false) || r.queue.any (fun q => word q.word) ||
  ((s.eng c d).issued.any (·.replayed) && (s.queue c (eqOf d)).any fun q => match q with
    | .instr w _ => (decide (opcodeOf w = 0x42) || decide (opcodeOf w = 0x43)) && word w
    | .marker .. => false)

/-- A row of a drain that is not ready for a slot of its stream is counted once (`DRN_NR`; R106). -/
def State.drainMark (s : State) (c : PCore) (stream : Nat) : State :=
  (List.finRange 4).foldl (fun s d =>
    let here := s.drainBehind c d stream || s.net.src.any fun x =>
      decide (x.core = c.val) && decide (x.stream = stream) && x.ops.contains (c.val, drainTag d)
    if s.streamBound c stream 1 d.val && here && !(s.drn c d).marked then
      (s.sat (drnBase c d) F.DRN_NR_COUNT).onDrn c d fun r => { r with marked := true }
    else s) s

/-- A flit of a drain leaves its port: the next row of its stream has not been counted. -/
def State.drainSent (s : State) (c : PCore) (ops : List (Nat × Nat)) : State :=
  (List.finRange 4).foldl (fun s d => if ops.contains (c.val, drainTag d) && (s.drn c d).marked then
    s.onDrn c d fun r => { r with marked := false } else s) s

/-- Whether a source of a core's port has data of a stream to send, ready or not (R206, R207). -/
def State.sourceBusy (s : State) (c : PCore) (stream : Nat) : Bool :=
  s.net.src.any (fun x => x.core = c.val && x.stream = stream) || (s.core c).netOps.any (fun o => o.sends stream) ||
    (List.finRange 4).any fun d => s.streamBound c stream 1 d.val && s.drainBehind c d stream

/-- A core's port puts the next flit of a stream on its lane in the cycle before an entry reads it: what a drain has handed over, or what its
oldest NSEND reads now; a marker where the stream's data is not ready, and an idle flit where there is none (R173, R202, R206, R207). -/
def State.portPull (s : State) (t : Nat) (p : Nat × Nat × Nat × Entry) : State :=
  let (die, r, lane, e) := p
  if h : die * 16 + r < 64 then
    let c : PCore := ⟨die * 16 + r, h⟩
    let put (s : State) (f : Flit) (ops : List (Nat × Nat)) : State :=
      s.onNet fun n => { n with flits := n.flits ++ [⟨t, die, r, lane, e.stream, e.part, f, ops⟩] }
    let wait (s : State) : State := if s.sourceBusy c e.stream then put (s.drainMark c e.stream) Flit.marker [] else s
    if (s.inputAt t die r lane).isSome || s.inReset c then s
    else if !s.txCredit e.stream then wait s
    else
      match s.net.src.findIdx? fun x => x.core = c.val && x.stream = e.stream with
      | some i =>
        match s.net.src[i]? with
        | some x =>
          if x.ready ≤ t then put ((s.onNet fun n => { n with src := n.src.eraseIdx i }).drainSent c x.ops) x.flit x.ops else wait s
        | none => s
      | none =>
        match s.sendNext c e.stream with
        | some x => put x.1 x.2.1 x.2.2
        | none => wait s
  else s

/-! ### Sending -/

/-- A flit leaves by an output lane in cycle `t` (R202, R205, R210): to the next router or the attached unit in the next cycle, over
a bridge after 24. -/
def State.sendOut (s : State) (t die r lane : Nat) (e : Entry) (f : Flit) (ops : List (Nat × Nat)) : State :=
  let put (x : FlitAt) : State := s.onNet fun n => { n with flits := n.flits ++ [x] }
  if lane < 8 then
    match meshNext r lane with
    | some n => put ⟨t + 1, die, n, meshFar lane, e.stream, e.part, f, ops⟩
    | none => s
  else if lane ≥ 10 then
    match bridgeDie die r with
    | some d => put ⟨t + 24, d, r, lane, e.stream, e.part, f, ops⟩
    | none => put ⟨t + 1, die, r, lane + 32, e.stream, e.part, f, ops⟩
  else put ⟨t + 1, die, r, lane + 32, e.stream, e.part, f, ops⟩

/-- The bytes of an element of a merge format (R204, R208). -/
def mergeFmt (m : Nat) : Nat × Nat := match m with
  | 0 => (3, 2)
  | 1 => (1, 4)
  | _ => (2, 6)

/-- The sum of two elements, rounded once to nearest-even; a zero sum follows R68 (R208). -/
def mergeElem (fmt a b : Nat) : Nat := Fmt.rne fmt ((Fmt.decode fmt a).add (Fmt.decode fmt b))

/-- The sum of two flits (R208). -/
def mergeFlits (m : Nat) (a b : Flit) : Flit :=
  let f := mergeFmt m
  let at_ (x : Flit) (i : Nat) : Nat := leNat ((x.data.drop (i * f.2)).take f.2)
  let bs := (List.range (128 / f.2)).flatMap fun i => leBytes f.2 (mergeElem f.1 (at_ a i) (at_ b i))
  ⟨true, false, a.poison || b.poison, (bs ++ List.replicate (128 - bs.length) 0).take 128⟩

/-- The queues of a merge, empty where it has none yet. -/
def State.mergeAt (s : State) (die r lane : Nat) (e : Entry) : MergeQ :=
  (s.net.merges.find? fun q => q.die = die && q.router = r && q.lane = lane && q.stream = e.stream).getD
    ⟨die, r, lane, e.stream, e.part, [], [], false, false⟩

/-- Put the queues of a merge back. -/
def State.setMerge (s : State) (q : MergeQ) : State :=
  s.onNet fun n => { n with merges := n.merges.filter (fun x => !(x.die = q.die && x.router = q.router && x.lane = q.lane &&
    x.stream = q.stream)) ++ [q] }

/-- A flit meets a full merge queue: this flit and every later one of its stream carry POISON until the partition's next commit, a
contained error of the partition, recorded once for the stream (R209). -/
def State.mergeOverflow (s : State) (q : MergeQ) (known : Bool) : State :=
  if known then s
  else
    let b := netBase ⟨q.die % 4, Nat.mod_lt _ (by omega)⟩
    let s := (s.setOn b F.NET_ERR_MERGE_OVF).sat b F.NET_ERRCNT_MERGE_OVF_CNT
    let s := s.errLog (errRec 2 0x6 (q.die * 16 + q.router) q.lane q.part 0x11 0xA)
    s.abortTask q.part 6 none

/-- Take an input into one side of a merge. -/
def State.mergePush (s : State) (q : MergeQ) (side : Bool) (x : Option FlitAt) : State × MergeQ :=
  match x with
  | none => (s, q)
  | some x =>
    if !x.flit.valid then (s, q)
    else
      let l := if side then q.qb else q.qa
      let full := decide (l.length ≥ 64)
      let known := if side then q.badB else q.badA
      let s := if full then s.mergeOverflow q known else s
      let bad := known || full
      let l := l ++ [({ x.flit with poison := x.flit.poison || bad }, x.ops)]
      let b := netBase ⟨q.die % 4, Nat.mod_lt _ (by omega)⟩
      let s := if min l.length 64 > s.rd b F.NET_MERGEQ_PEAK then s.wr b F.NET_MERGEQ_PEAK (min l.length 64) else s
      (s, if side then { q with qb := l, badB := bad } else { q with qa := l, badA := bad })

/-- One output lane sends what its entry names: a forward also a marker, a merge the sum of its two heads, or a marker where one is missing
(R202, R206, R208, R209). -/
def State.entrySend (s : State) (t : Nat) (p : Nat × Nat × Nat × Entry) : State :=
  let (die, r, lane, e) := p
  if e.kind = 1 then
    match s.inputAt (t - 1) die r e.inA with
    | some x => if 1 ≤ t then s.sendOut t die r lane e x.flit x.ops else s
    | none => s
  else
    let q := s.mergeAt die r lane e
    let past (i : Nat) : Option FlitAt := if 3 ≤ t then s.inputAt (t - 3) die r i else none
    let a := s.mergePush q false (past e.inA)
    let b := a.1.mergePush a.2 true (past e.inB)
    match b.2.qa, b.2.qb with
    | x :: xs, y :: ys =>
      (b.1.setMerge { b.2 with qa := xs, qb := ys }).sendOut t die r lane e (mergeFlits e.mfmt x.1 y.1) (x.2 ++ y.2)
    | _, _ => (b.1.setMerge b.2).sendOut t die r lane e Flit.marker []

/-! ### Bridges (R210) -/

/-- Whether cycle `t` is a slot of a stream on a bridge lane where it arrives: the entry that sent 24 cycles earlier carries it. -/
def State.bridgeSlot (s : State) (slot : Nat) (x : FlitAt) : Bool :=
  match bridgeDie x.die x.router with
  | none => false
  | some d =>
    let f := s.frameLen
    (s.slotEntries ((slot + 24 * f - 24) % f)).any fun (e, r, l, n) => e = d && r = x.router && l = x.lane && n.stream = x.stream

/-- Put a late flit, with the cycle in which it was due, among those that wait, in the order in which they were due. -/
def lateInsert (o : Nat) (x : FlitAt) (l : List (Nat × FlitAt)) : List (Nat × FlitAt) :=
  (l.takeWhile fun y => decide (y.1 ≤ o)) ++ (o, x) :: l.dropWhile fun y => decide (y.1 ≤ o)

/-- Flits that follow a re-sent one on a bridge lane keep their order: what was due after it joins the late flits of its stream, and each slot
of the stream delivers the oldest, once it is there; what was due before it passes (R210, R220). -/
def State.bridgeOrder (s : State) (t slot : Nat) : State :=
  let key (x : FlitAt) : Nat × Nat × Nat × Nat := (x.die, x.router, x.lane, x.stream)
  let keys := (s.net.late.map fun x => key x.2).eraseDups
  keys.foldl (fun s k =>
    match s.net.late.find? fun x => key x.2 = k with
    | some y =>
      let mine (x : FlitAt) : Bool := x.time = t && key x = k && x.flit.valid && decide (y.1 < t)
      let now := s.net.flits.filter mine
      let s := s.onNet fun n => { n with
        flits := n.flits.filter (fun x => !mine x), late := now.foldl (fun l x => lateInsert t x l) n.late }
      if y.2.time ≤ t ∧ s.bridgeSlot slot y.2 then
        s.onNet fun n => { n with
          late := n.late.erase y
          flits := n.flits.filter (fun x => !(x.time = t && key x = k)) ++ [{ y.2 with time := t }] }
      else s
    | none => s) s

/-- BRIDGE_FLIT_RESEND: the `i`-th flit on its way cannot be corrected on the bridge lane it crosses; its slot carries a marker, and it is
re-sent and delivered 48 cycles late in the next slot of its stream; `lost` when the re-sent flit cannot be corrected either, which is fatal (BRIDGE_FAILURE;
R20, R210, R396). RETRY and BRIDGE count it on the page of the die that receives it (DESIGN CHOICE, log entry 113). -/
def execBridgeFlitResend (i : Nat) (lost : Bool) (s : State) : Host.Outcome State Fault Refusal :=
  .next (match s.net.flits[i]? with
    | some x =>
      if isBridge x.die x.router x.lane && decide (s.net.cycle < x.time) && x.flit.valid then
        let b := netBase ⟨x.die % 4, Nat.mod_lt _ (by omega)⟩
        let s := (s.setOn b F.NET_ERR_BRIDGE).sat b F.NET_BRIDGE_RETRY
        let s := s.errLog (errRec 0 0x7 (bridgeOf x.die x.router) (x.lane - 10) x.part 0x07 0x1)
        if lost then s.fatal 0x7 (bridgeOf x.die x.router) (x.lane - 10) 0x08 0
        else s.onNet fun n => { n with flits := n.flits.set i { x with flit := Flit.marker, ops := [] }, late := lateInsert x.time { x with time := x.time + 48 } n.late }
      else s
    | none => s)

/-! ### The local branch (R320) -/

/-- Deliver a packet's lines to the group's window, or refuse them. -/
def State.mcDeliver (s : State) (g : Nat) (k : Packet) : State :=
  let w := s.rd mcastBase F.BRD_MCDELIV_WINDOW g
  match s.jobPart k.job, s.physOf (s.rd mcastBase F.BRD_MCDELIV_CORE g) with
  | some q, some c =>
    if s.partOf c ≠ q.val then s.sat brdmBase F.BRD_DROP_NOJOB
    else
      let b := spdBase c
      let off := bits k.addr 24 18 * 64
      let n := k.len / 4
      let v := if s.partInReset q.val then 7 else if s.inReset c then 6 else if ¬ s.winOpen c w then 2
        else if k.src ≠ s.modId ∧ ¬ s.on b F.SPD_WIN_A_EXT w then 3
        else if s.rd b F.SPD_WIN_A_LEN w < off + n * 64 then 4 else 0
      if v ≠ 0 then
        ((s.countRefusal c v).lastRefusal c v w off k.src (k.sunit % 64)).sat mcastBase F.BRD_MCCNT_REFUSED 1 g
      else s.landLines c w (s.rd b F.SPD_WIN_A_COUNTER w) (s.rd b F.SPD_WIN_A_BASE w + off) n k.data k.poison
  | _, _ => s.sat brdmBase F.BRD_DROP_NOJOB

/-- In a network cycle the local branches deliver what waits for slots: each its oldest packet (R215, R322, R335; log entry 47). -/
def State.mcLocal (s : State) : State :=
  (s.branches.filter fun b => decide (b.branch = 24) && !b.queue.isEmpty).foldl (fun s b =>
    match b.queue with
    | k :: ks => (s.setBranch { b with queue := ks, full := none }).mcDeliver b.group k
    | [] => s) s

/-! ### One network cycle -/

/-- Whether frame `i` of a period is suppressed under duty `n` (R214). -/
def suppressed (n i : Nat) : Bool := decide ((i + 1) * n / 16 > i * n / 16)

/-- The first cycle of a period (R214, R217, R218). -/
def State.periodStart (s : State) : Bool := decide (s.netSlot = 0) && decide (s.net.frame = 0)

/-- Whether the network stands at a suppressed frame: the routers are frozen (R214, R215). -/
def State.frozen (s : State) : Bool :=
  decide (s.netSlot = 0) && suppressed (if s.net.frame = 0 then s.rd (netBase 0) F.NET_SUPPRESS_DUTY else s.net.duty) s.net.frame

/-- Whether the network may run its next cycle: nothing waits for the period boundary it stands at, and its frame is not
suppressed. -/
def State.netReady (s : State) : Bool :=
  !(s.periodStart && (s.net.commit.isSome || s.net.oldLen.isSome)) && !s.frozen

/-- A parity error on a hop poisons the flit it delivers: to an input lane, or, for a lane from 32 on, by output lane `lane` − 32 to the attached
unit or the core (R220). -/
def State.hopParity (s : State) (t : Nat) (h : Die × Fin 16 × Fin 64) : State :=
  match s.inputAt t h.1.val h.2.1.val h.2.2.val with
  | some x =>
    let b := netBase h.1
    let s := (s.setOn b F.NET_ERR_PARITY).sat b F.NET_ERRCNT_PARITY_CNT
    let s := s.errLog (errRec 1 0x6 (h.1.val * 16 + h.2.1.val) (h.2.2.val % 32) x.part 0x06 0x1)
    s.onNet fun n => { n with flits := n.flits.map fun y => if y = x then { y with flit := { y.flit with poison := true } } else y }
  | none => s

/-- Flits that leave the mesh in cycle `t` are at the far end of their streams; a marker ends there. -/
def State.landFlits (s : State) (t : Nat) : State :=
  let out := s.net.flits.filter fun x => x.time ≤ t && 32 ≤ x.lane
  s.onNet fun n => { n with
    flits := n.flits.filter fun x => !(x.time ≤ t && 32 ≤ x.lane) && (t < x.time + 4)
    dst := n.dst ++ (out.filter fun x => x.flit.valid).map fun x => ⟨x.die, x.router, x.lane - 32, x.stream, x.part, x.flit, x.ops⟩ }

/-- The slot and frame counters advance (R201, R221). -/
def State.netAdvance (s : State) : State :=
  let s := s.onNet fun n => { n with cycle := n.cycle + 1 }
  let next := s.netSlot + 1
  if next < s.frameLen then s.netAll F.NET_SLOT_SLOT next
  else
    let s := (s.netAll F.NET_SLOT_SLOT 0).netAll F.NET_SLOT_FRAME (s.rd (netBase 0) F.NET_SLOT_FRAME + 1)
    s.onNet fun n => { n with frame := (n.frame + 1) % 16 }

/-- NETWORK_SLOT: one network cycle of every router, core port, bridge and local branch; `parity` names the hops whose flit suffers a parity
error in it (R173, R201, R202, R206 to R210, R220). -/
def execNetworkSlot (parity : List (Die × Fin 16 × Fin 64)) (s : State) : Host.Outcome State Fault Refusal :=
  .next (
    if !s.netReady then s
    else
      let s := if s.periodStart then s.onNet fun n => { n with duty := s.rd (netBase 0) F.NET_SUPPRESS_DUTY } else s
      let t := s.net.cycle
      let slot := s.netSlot
      let s := s.bridgeOrder t slot
      let s := (s.portReads slot).foldl (fun s p => s.portPull t p) s
      let s := parity.foldl (fun s h => s.hopParity t h) s
      let s := s.landFlits t
      let s := (s.slotEntries slot).foldl (fun s p => s.entrySend t p) s
      let s := allCores.foldl (fun s c => s.putNext c) s
      s.mcLocal.netAdvance.sendSweep)

/-! ### Loading a pricking (R216 to R218) -/

/-- Whether a core may have its port named by a changed entry (R217). -/
def State.portDead (s : State) (die r : Nat) : Bool :=
  if h : die * 16 + r < 64 then (s.logicalOf ⟨die * 16 + r, h⟩).isNone || s.coresDown.testBit (die * 16 + r) else true

/-- The lowest reason for which one entry of the inactive bank refuses a commit of partition `p`; 0 none (R217). -/
def State.entryReason (s : State) (p die r lane slot : Nat) (new old : Entry) : Nat :=
  let ins := if new.kind = 0 then [] else if new.kind = 1 then [new.inA] else [new.inA, new.inB]
  let lanes := if new.kind = 0 then [] else lane :: ins
  let bridgeDown := lanes.any fun l => isBridge die r l &&
    !s.rdBit (netBase ⟨die % 4, Nat.mod_lt _ (by omega)⟩) F.NET_BRIDGE_UP (if r = 7 ∨ r = 11 then 0 else 1)
  let changed := decide (new ≠ old)
  if lanes.any fun l => !hasLane die r l then 1
  else if bridgeDown then 2
  else if (changed || (decide (new.kind ≠ 0) && decide (new.part = p))) && s.portDead die r && lanes.any (fun l => l = 8 || l = 9) then 3
  else if changed && ((decide (new.kind ≠ 0) && decide (new.part ≠ p)) || (decide (old.kind ≠ 0) && decide (old.part ≠ p))) then 4
  else if new.kind = 3 ∨ (new.kind ≠ 0 ∧ new.mfmt = 3) ∨ (new.kind = 2 ∧ new.inA = new.inB) then 5
  else if new.kind ≠ 0 ∧ slot ≥ s.rd (netBase 0) F.NET_FRAME_LEN then 8
  else 0

/-- The first entry that refuses a commit: its reason and place (R217). -/
def State.firstBadEntry (s : State) (p : Nat) : Option (Nat × Nat × Nat × Nat × Nat) :=
  let bank := s.netBank
  let spots := ((s.net.tables.map fun e => e.1 / 512 * 256 + e.1 % 256).eraseDups)
  let best := spots.foldl (fun (m : Option (Nat × Nat)) k =>
    let pos := k / 256
    let slot := k % 256
    let e (b : Nat) := entryOf (SMap.get 0 s.net.tables (pos * 512 + b * 256 + slot))
    let why := s.entryReason p (pos / 512) (pos / 32 % 16) (pos % 32) slot (e (1 - bank)) (e bank)
    if why = 0 then m
    else match m with
      | some (k', _) => if k < k' then some (k, why) else m
      | none => some (k, why)) none
  best.map fun (k, why) => (why, k / 256 / 512, k / 256 / 32 % 16, k / 256 % 32, k % 256)

/-- The reasons that lie in no entry; 0 none (R217). -/
def State.commitReason (s : State) (p : Part) : Nat :=
  if s.rd (netBase 0) F.NET_LOADID_ID ≠ s.rd (netBase 0) F.NET_YIELDID_ID then 6
  else if allCores.any fun c => decide (s.partOf c = p.val) && (decide (s.seqState c = 1) || decide (s.seqState c = 2)) then 7
  else if s.partInReset p.val ∨ s.net.commit.isSome then 9
  else 0

/-- A write of `NET_LOAD`: with COMMIT set it is checked, and refused or queued; REASON changes only with a refusal (R217). Where it is refused and no
entry fails, the four fields of the first failing entry read as zero (DESIGN CHOICE, log entry 114). -/
def State.netLoad (s : State) (p : Part) (commit : Bool) : State :=
  let s := s.netAll F.NET_LOAD_PART p.val
  if !commit then s
  else
    let e := s.firstBadEntry p.val
    let g := s.commitReason p
    let why := match e with
      | some x => if g = 0 ∨ x.1 < g then x.1 else g
      | none => g
    if why = 0 then
      (s.netAll F.NET_LOAD_STATUS 1).onNet fun n => { n with commit := some p.val }
    else
      let at_ := match e with
        | some x => x.2
        | none => (0, 0, 0, 0)
      let s := (s.netAll F.NET_LOAD_STATUS 3).netAll F.NET_LOAD_REASON why
      let s := (s.netAll F.NET_LOAD_FAIL_DIE at_.1).netAll F.NET_LOAD_FAIL_ROUTER at_.2.1
      (s.netAll F.NET_LOAD_FAIL_LANE at_.2.2.1).netAll F.NET_LOAD_FAIL_SLOT at_.2.2.2

/-- PRICKING_COMMIT: a host write of `NET_LOAD` (R217). -/
def execPrickingCommit (f : Func) (p : Part) (commit : Bool) (s : State) : Host.Outcome State Fault Refusal :=
  .next (s.asPF0 f (netBase 0 + 0x18) fun s => s.netLoad p commit)

/-- A write of a slot-table entry at an offset of a die's tables page: a write to the active bank is discarded, and the two reserved bits
read as zero (R9, R203, R204, R221). -/
def State.tableWrite (s : State) (die : Die) (off v : Nat) : State :=
  let r := off / 0x10000
  let lane := off / 0x800 % 32
  let bank := off / 0x400 % 2
  let slot := off / 4 % 256
  if bank = s.netBank then s.setOn (netBase die) F.NET_ERR_WR_REJ
  else s.onNet fun n => { n with tables := SMap.set 0 n.tables (entryKey die.val r lane bank slot) (v % 2 ^ 30) }

/-- PRICKING_SWITCH: at the period boundary the pending commit switches the bank on every router, copies the new active bank into
the other, and ends the partition's hold (R209, R217). -/
def execPrickingSwitch (s : State) : Host.Outcome State Fault Refusal :=
  .next (match s.net.commit with
    | some p =>
      if s.periodStart then
        let new := 1 - s.netBank
        let s := s.netAll F.NET_ACTIVE_BANK new
        let s := s.netAll F.NET_PARTHOLD_HOLD (putBit (s.rd (netBase 0) F.NET_PARTHOLD_HOLD) p false)
        let s := s.netAll F.NET_LOAD_STATUS 2
        let live := s.net.tables.filter fun e => e.1 / 256 % 2 = new
        s.onNet fun n => { n with
          commit := none
          tables := live.foldl (fun m e => SMap.set 0 m (e.1 / 512 * 512 + (1 - new) * 256 + e.1 % 256) e.2)
            (SMap.wipe (fun k => k / 256 % 2 = 1 - new) n.tables)
          merges := n.merges.map fun q => if q.part = p then { q with badA := false, badB := false } else q }
      else s
    | none => s)

/-- A write of `NET_FRAME`: accepted only while no core is in state 1 or 2 and for an even value of 8 to 256 (R218). -/
def State.netFrame (s : State) (v : Nat) : State :=
  if allCores.any (fun c => decide (s.seqState c = 1) || decide (s.seqState c = 2)) || decide (v % 2 = 1) || decide (v < 8) ||
      decide (v > 256) then s.setOn (netBase 0) F.NET_ERR_WR_REJ
  else
    let old := s.frameLen
    (s.netAll F.NET_FRAME_LEN v).onNet fun n => { n with oldLen := some old }

/-- NET_FRAME_WRITE: a host write of `NET_FRAME` (R218). -/
def execNetFrameWrite (f : Func) (len : BitVec 9) (s : State) : Host.Outcome State Fault Refusal :=
  .next (s.asPF0 f (netBase 0) fun s => s.netFrame len.toNat)

/-- FRAME_LENGTH_CHANGE: at the period boundary under the old length the new one takes effect on every die (R218). -/
def execFrameLengthChange (s : State) : Host.Outcome State Fault Refusal :=
  .next (if s.net.oldLen.isSome ∧ s.periodStart then s.onNet fun n => { n with oldLen := none, frame := 0 } else s)

end Sys2Proof.Machine
end

