-- ==== Sys2Proof/Machine/Slot.lean ====
section
/-!
DEFINITION. A core's control slot and apertures as the host and the bobbins reach them (R10, R98, R124 to R127, R145, R184,
R222, R225, R226, R239, R242): writes with their effects, reads with theirs; barrier arrivals (R327 to R330) and posts (R354).
-/
namespace Sys2Proof.Machine

/-! ### Apertures -/

/-- A byte of a core's instruction memory (R124). -/
def State.imemByte (s : State) (c : PCore) (off : Nat) : Byte :=
  BitVec.ofNat 8 ((s.imemAt c (off / 16)).toNat >>> (8 * (off % 16)))

/-- Write whole instructions from byte offset `off` up. -/
def State.imemPut (s : State) (c : PCore) (off : Nat) (bs : List Byte) : State :=
  s.onCore c fun r => { r with imem := (List.range (bs.length / 16)).foldl (fun m i =>
    SMap.set 0 m (off / 16 + i) (BitVec.ofNat 128 (leNat ((bs.drop (16 * i)).take 16)))) r.imem }

/-- A write request to instruction memory from `src` (0, 1 a bobbin, 2 the host): its status, 0 written, 8 IMEM_BUSY, 9
IMEM_ALIGN (R125). -/
def State.imemCheck (s : State) (c : PCore) (off n src : Nat) : Nat :=
  if off % 16 ≠ 0 ∨ n % 16 ≠ 0 ∨ off / 0x20000 ≠ (off + n - 1) / 0x20000 ∨ off + n > 0x40000 then 9
  else if off / 0x20000 = s.bank c ∧ ¬ (s.seqState c = 0 ∨
      (src = 2 ∧ s.seqState c = 2 ∧ s.on (coreBase c) F.SEQ_CTRL_PATCH)) then 8
  else 0

/-- Apply or refuse a write request to instruction memory; a core without power discards it (R125, R145, R455). -/
def State.imemWrite (s : State) (c : PCore) (off : Nat) (bs : List Byte) (src : Nat) : State × Nat :=
  let v := s.imemCheck c off bs.length src
  if !s.powered c then (s, 0)
  else if v = 0 then (s.imemPut c off bs, 0)
  else
    let b := coreBase c
    let s := (s.setOn b F.SEQ_ERR_IMEM_REJ).sat b F.SEQ_IMEMREJ_COUNT
    let s := (s.wr b F.SEQ_IMEMREJ_OFFSET off).wr b F.SEQ_IMEMREJ_SOURCE src
    (s.wr b F.SEQ_IMEMREJ_KIND (v - 8), v)

/-- Engine, tile, half, row and column of an offset of the accumulator debug aperture (R98). -/
def accSpot (off : Nat) : Nat × Nat × Nat × Nat × Nat :=
  let i := off % 0x400000 / 8
  (off / 0x400000 % 4, i / 32768, i / 16384 % 2, i / 128 % 128, i % 128)

/-- The word an offset of the accumulator debug aperture lies in. -/
def State.accAt (s : State) (c : PCore) (off : Nat) : AccWord :=
  let p := accSpot off
  SMap.get 0 (s.core c).acc[(⟨p.1 % 4, Nat.mod_lt _ (by omega)⟩ : Eng)] (accIndex p.2.1 p.2.2.1 p.2.2.2.1 p.2.2.2.2)

/-- A byte of the accumulator debug aperture: bits [63:48] read as zero (R98). -/
def State.accByte (s : State) (c : PCore) (off : Nat) : Byte := BitVec.ofNat 8 ((s.accAt c off).toNat >>> (8 * (off % 8)))

/-- Whether the half an offset lies in is poisoned (R97, R98). -/
def State.accPois (s : State) (c : PCore) (off : Nat) : Bool :=
  let p := accSpot off
  s.rdBit (accBase c ⟨p.1 % 4, Nat.mod_lt _ (by omega)⟩) F.ACC_POISON_POISON (2 * p.2.1 + p.2.2.1)

/-- The engine and tile row an offset of the accumulator debug aperture lies in (R95, R98). -/
def accRow (off : Nat) : Eng × Nat :=
  let p := accSpot off
  (⟨p.1 % 4, Nat.mod_lt _ (by omega)⟩, p.2.1 * 256 + p.2.2.1 * 128 + p.2.2.2.1)

/-- The tile rows a range of the aperture touches are read: the errors stored in them are met (R96). -/
def State.accRead (s : State) (c : PCore) (off n : Nat) : State :=
  (((List.range n).map fun i => accRow (off + i)).eraseDups).foldl (fun s g => s.accMeet c g.1 g.2) s

/-- Bytes of the accumulator debug aperture as a requester reads them, and whether a half of theirs is poisoned (R96 to R98). -/
def State.accTake (s : State) (c : PCore) (off n : Nat) : State × List Byte × Bool :=
  let s := s.accRead c off n
  (s, (List.range n).map (fun i => s.accByte c (off + i)), (List.range n).any fun i => s.accPois c (off + i))

/-- Write one byte of the accumulator debug aperture. -/
def State.accPut (s : State) (c : PCore) (off : Nat) (b : Byte) : State :=
  let p := accSpot off
  let i := off % 8
  let v := (s.accAt c off).toNat
  let v' := v - bits v (8 * i) 8 * 2 ^ (8 * i) + b.toNat * 2 ^ (8 * i)
  if i ≥ 6 then s
  else
    let k := accIndex p.2.1 p.2.2.1 p.2.2.2.1 p.2.2.2.2
    s.onCore c fun r => { r with
      acc := vupd r.acc ⟨p.1 % 4, Nat.mod_lt _ (by omega)⟩ (fun m => SMap.set 0 m k (BitVec.ofNat 48 v')) }

/-- A write through the accumulator debug aperture: accepted only while the core is halted (R98), and discarded without power (R455);
the rows it touches are read first (R96). -/
def State.accWrite (s : State) (c : PCore) (off : Nat) (bs : List Byte) : State :=
  if !s.powered c then s
  else if s.seqState c = 2 then bs.zipIdx.foldl (fun s (b, i) => s.accPut c (off + i) b) (s.accRead c off bs.length)
  else s.sat (accBase c ⟨off / 0x400000 % 4, Nat.mod_lt _ (by omega)⟩) F.ACC_ECC_APERTURE_REJ

/-! ### Barriers (R327 to R330) -/

/-- Change what a barrier context records. -/
def State.onBar (s : State) (b : Fin 32) (f : BarRec → BarRec) : State := { s with bars := vupd s.bars b f }

/-- The partition of a context. -/
def State.barPart (s : State) (b : Fin 32) : Nat := s.rd mcastBase F.BRD_BARCFG_PART b.val

/-- A barrier packet of a context: `phase` 0 arrive, 1 release (R329). -/
def State.barPacket (s : State) (b : Fin 32) (dst phase : Nat) : Packet :=
  ⟨dst, s.modId, 85, s.jobOf (s.barPart b), 0x0B, 0, false, 0, 0,
    b.val + phase * 2 ^ 5 + s.rd mcastBase F.BRD_BARSTAT_EPOCH b.val * 2 ^ 6, []⟩

/-- Clear a context's counts and what it recorded. -/
def State.barClear (s : State) (b : Fin 32) : State :=
  let s := (s.wr mcastBase F.BRD_BARSTAT_ARRIVED 0 b.val).wr mcastBase F.BRD_BARSTAT_CHILD_IN 0 b.val
  (s.wr mcastBase F.BRD_BARSTAT_WAITING 0 b.val).onBar b fun _ => ⟨[], []⟩

/-- A context releases: release packets to the recorded children, FLAG of every core that arrived, the next epoch (R330). -/
def State.barRelease (s : State) (b : Fin 32) : State :=
  let r := s.bars[b]
  let s := r.kids.foldl (fun s k => s.sendPacket (s.barPacket b k 1)) s
  let s := r.cores.foldl (fun s c => s.flagAddExt c (s.rd mcastBase F.BRD_BARCFG_FLAG b.val) 1) s
  let s := (s.barClear b).count mcastBase F.BRD_BARSTAT_EPOCH 1 b.val
  s.count mcastBase F.BRD_BARSTAT_DONE 1 b.val

/-- A context that has counted all it waits for completes: the root releases, another sends an arrive packet to PARENT and
waits (R330). -/
def State.barCheck (s : State) (b : Fin 32) : State :=
  let full := decide (s.rd mcastBase F.BRD_BARSTAT_ARRIVED b.val ≥ s.rd mcastBase F.BRD_BARCFG_LOCAL b.val) &&
    decide (s.rd mcastBase F.BRD_BARSTAT_CHILD_IN b.val ≥ s.rd mcastBase F.BRD_BARCFG_CHILDREN b.val)
  if !full || !s.on mcastBase F.BRD_BARCFG_VALID b.val || s.on mcastBase F.BRD_BARSTAT_WAITING b.val then s
  else if s.on mcastBase F.BRD_BARCFG_ROOT b.val then s.barRelease b
  else
    let s := s.wr mcastBase F.BRD_BARSTAT_WAITING 1 b.val
    s.sendPacket (s.barPacket b (s.rd mcastBase F.BRD_BARCFG_PARENT b.val) 0)

/-- A core arrives at a context, or its arrival is discarded and counted (R328). -/
def State.barArrive (s : State) (c : PCore) (b : Fin 32) : State :=
  if !s.on mcastBase F.BRD_BARCFG_VALID b.val || decide (s.barPart b ≠ s.partOf c) || s.bars[b].cores.contains c then
    s.sat (coreBase c) F.BRD_BARREJ_COUNT
  else
    let s := s.onBar b fun r => { r with cores := r.cores ++ [c] }
    (s.count mcastBase F.BRD_BARSTAT_ARRIVED 1 b.val).barCheck b

/-- A write of `CXL_POST`: a KIND 0x03 record of the core's partition (R354). -/
def State.post (s : State) (c : PCore) (v : Nat) : State := s.cqPost (s.partOf c) 0x03 ((s.logicalOf c).getD 0xFFFF) 0 v

/-! ### Registers of the slot with effects of their own -/

/-- A write that state 1 discards with WR_REJ, and that only states 0, 2, 3 and 4 accept (R145, R222, R225). -/
def State.idleWrite (s : State) (c : PCore) (k : State → State) : State :=
  let st := s.seqState c
  if st = 1 then s.setOn (coreBase c) F.SEQ_ERR_WR_REJ else if st = 5 then s else k s

/-- A write of `SEQ_CTRL`: its fields, then what GO, STOP and RESUME ask (R145). -/
def State.seqCtrl (s : State) (c : PCore) (v : Nat) : State :=
  let s := s.writeReg (coreBase c) R.SEQ_CTRL 0 v
  let s := if v.testBit 0 then s.hostGo c else s
  let s := if v.testBit 1 then s.stop c else s
  if v.testBit 2 then s.resume c else s

/-- A write of `OPE_CTRL` (R62); in Classes I and A the module ignores what it says of RAMP_SHORT (R45). -/
def State.opeCtrl (s : State) (c : PCore) (e : Eng) (v : Nat) : State :=
  let short := s.rd (opeBase c e) F.OPE_CTRL_RAMP_SHORT
  let s := s.writeReg (opeBase c e) R.OPE_CTRL 0 v
  let s := if s.powerClass = 0 then s else s.wr (opeBase c e) F.OPE_CTRL_RAMP_SHORT short
  let s := if v.testBit 3 then s.preempt c e else s
  if v.testBit 4 then s.engResume c e else s

/-- A write of a bobbin's RESERVE: discarded where both reservations would exceed 512 (R225). -/
def State.bobCtrl (s : State) (c : PCore) (b : Bob) (v : Nat) : State :=
  s.idleWrite c fun s =>
    let other : Bob := ⟨1 - b.val, by omega⟩
    if ¬ s.on (bobBase c b) F.BOB_CTRL_LOCK ∧ bits v 0 8 + s.rd (bobBase c other) F.BOB_CTRL_RESERVE > 512 then s.setOn (bobBase c b) F.BOB_ERR_ALLOT_REJ
    else s.writeReg (bobBase c b) R.BOB_CTRL 0 v

/-- A write of an allotment entry: FLITS above 4,096 is discarded (R225). -/
def State.bobAllot (s : State) (c : PCore) (k v : Nat) : State :=
  s.idleWrite c fun s =>
    if bits v 12 13 > 4096 then (s.setOn (bobBase c 0) F.BOB_ERR_ALLOT_REJ).setOn (bobBase c 1) F.BOB_ERR_ALLOT_REJ
    else s.writeReg (bobcBase c) R.BOB_ALLOT k v

/-- Whether a value configures a ring legally (R242). -/
def ringOk (v : Nat) : Bool :=
  let base := bits v 0 24
  let size := bits v 24 24
  let n := bits v 48 5
  decide (3 ≤ n) && decide (n ≤ 16) && decide (size ≠ 0) && decide (size % 64 = 0) && decide (base % 64 = 0) &&
    decide (base + n * size ≤ spadSize)

/-- A write of a ring's configuration (R242). -/
def State.bobRing (s : State) (c : PCore) (r v : Nat) : State :=
  let b := bobcBase c
  let prod : Bob := ⟨bits v 53 1 % 2, Nat.mod_lt _ (by omega)⟩
  let busy := decide (s.rd b F.BOB_RING_PTR_TAIL r ≠ s.rd b F.BOB_RING_PTR_HEAD r) || decide (s.rd b F.BOB_RING_PTR_RSV r ≠ 0)
  if busy || (v.testBit 54 && !ringOk v) then s.setOn (bobBase c prod) F.BOB_ERR_RING_REJ
  else ((s.writeReg b R.BOB_RING_CFG r v).wr b F.BOB_RING_PTR_HEAD 0 r).wr b F.BOB_RING_PTR_TAIL 0 r

/-- A write of a regulator: it fills the bucket (R239). -/
def State.bobReg (s : State) (c : PCore) (b : Bob) (n v : Nat) : State :=
  let s := s.writeReg (bobBase c b) R.BOB_REG n v
  s.onBob c b fun r => { r with buckets := r.buckets.set n (max (bits v 20 24) 512 * 256, s.cycle) }

/-- A write of a stream table entry: ROLE 6 and 7 are discarded (R222). -/
def State.netStream (s : State) (c : PCore) (k v : Nat) : State :=
  s.idleWrite c fun s => if bits v 12 3 ≥ 6 then s else s.writeReg (coreBase c) R.NET_STREAM k v

/-- The registers of a core's control slot, page by page. -/
def slotPages (c : PCore) : List (Nat × List RegDef) :=
  [(coreBase c, pageSeq ++ [R.NET_STREAM, R.BRD_BARRIVE, R.BRD_BARREJ, R.CXL_POST]), (spdBase c, pageSpd), (bobcBase c, pageBobc)] ++
  (List.finRange 2).map (fun b => (bobBase c b, pageBob)) ++ (List.finRange 2).map (fun b => (fltBase c b, pageFlt)) ++
  (List.finRange 4).map (fun e => (opeBase c e, pageOpe)) ++ (List.finRange 4).map (fun e => (accBase c e, pageAcc)) ++
  (List.finRange 4).map (fun e => (drnBase c e, pageDrn))

/-- The register at an offset of a core's control slot: its page's base, the register and its instance. -/
def slotReg (c : PCore) (off : Nat) : Option (Nat × RegDef × Nat) :=
  (slotPages c).findSome? fun p =>
    if coreBase c + off < p.1 then none else (regAt p.2 (coreBase c + off - p.1)).map fun r => (p.1, r.1, r.2)

/-- A write of the doubleword at an 8 B aligned offset of a core's control slot, by the host or, where `host` is false, by
the core's program: its effect under the register's access type and state rules; a core without power discards it (R10, R226, R455). -/
def State.slotPut (s : State) (c : PCore) (off v : Nat) (host : Bool) : State :=
  let eng (base : Nat) : Eng := ⟨(off - base) / 0x1000 % 4, Nat.mod_lt _ (by omega)⟩
  let bob : Bob := ⟨(off - 0x40000) / 0x400 % 2, Nat.mod_lt _ (by omega)⟩
  let plain (s : State) : State := match slotReg c off with
    | some (base, r, i) => s.writeReg base r i v
    | none => s
  if !s.powered c then s
  else if off = 0 then s.seqCtrl c v
  else if off = 0x30 then s.flagSig c (v % 2 ^ 32)
  else if off = 8 ∨ (0x200 ≤ off ∧ off < 0x280) ∨ (0x300 ≤ off ∧ off < 0x400) then
    s.idleWrite c fun s => if off = 0x300 then s else plain s
  else if 0x10000 ≤ off ∧ off < 0x14000 ∧ off % 0x1000 = 0 then s.opeCtrl c (eng 0x10000) v
  else if 0x18000 ≤ off ∧ off < 0x1C000 ∧ 0x100 ≤ off % 0x1000 ∧ off % 0x1000 < 0x300 then
    let n := (off % 0x1000 - 0x100) / 0x40
    let k := off % 0x40 / 8
    if k < 5 then s.profWrite c (eng 0x18000) n k v host else s
  else if 0x30000 ≤ off ∧ off < 0x30800 then s.netStream c ((off - 0x30000) / 8) v
  else if 0x40000 ≤ off ∧ off < 0x40800 ∧ off % 0x400 = 0 then s.bobCtrl c bob v
  else if 0x40000 ≤ off ∧ off < 0x40800 ∧ 0x80 ≤ off % 0x400 ∧ off % 0x400 < 0xC0 then s.bobReg c bob (off % 0x400 / 8 - 16) v
  else if 0x40900 ≤ off ∧ off < 0x40A00 then s.bobAllot c ((off - 0x40900) / 8) v
  else if 0x41000 ≤ off ∧ off < 0x41100 ∧ off % 16 = 0 then s.bobRing c ((off - 0x41000) / 16) v
  else if off = 0x50000 then s.barArrive c ⟨v % 32, Nat.mod_lt _ (by omega)⟩
  else if off = 0x50010 then s.post c v
  else plain s

/-! ### Reads of the slot -/

/-- The state whose registers show what the module computes when they are read (R45, R62, R120, R121, R134). `DRN_STATUS`.STATE shows 2 from a
request's begin on, and 1 while one waits and none runs, whether or not an earlier one still empties (log entry 90). -/
def State.slotView (s : State) (c : PCore) : State :=
  let s := (List.finRange 4).foldl (fun s e =>
    let b := opeBase c e
    let s := (s.wr b F.OPE_STATUS_STATE (s.engStateRead c e)).wr b F.OPE_STATUS_PENDING (s.eng c e).issued.length
    let s := if s.powerClass = 0 then s else s.wr b F.OPE_CTRL_RAMP_SHORT 0
    let s := (s.wr b F.OPE_TIMING_RAMP_LEN (s.rampLen c e)).wr b F.OPE_CYCLES_COUNT (s.cycle - (s.core c).bornAt)
    let s := s.wr (accBase c e) F.ACC_DRAINQ_DEPTH (s.drainDepth c e)
    let d := s.drn c e
    let b := drnBase c e
    match d.run with
    | some r => (((s.wr b F.DRN_STATUS_STATE 2).wr b F.DRN_STATUS_CUR_TILE r.req.tile).wr b F.DRN_STATUS_CUR_HALF r.req.half).wr b
        F.DRN_STATUS_CUR_ROW r.row
    | none => s.wr b F.DRN_STATUS_STATE (if !d.queue.isEmpty then 1
        else if !d.ended.isEmpty || decide (d.allOut > s.cycle) then 3 else 0)) s
  (List.finRange 8).foldl (fun s q => s.wr (coreBase c) F.SEQ_QDEPTH_D (s.queue c q).length q.val) s

/-- Whether a register of a core counts cycles lost to bank arbitration, `SPD_CONFLICT` and `DRN_STALL`: what they read as is free (R106, R180; log
entry 8). -/
def lostCycles (c : PCore) (base : Nat) (r : RegDef) : Bool :=
  (decide (base = spdBase c) && decide (r.off = R.SPD_CONFLICT.off)) ||
    (List.finRange 4).any fun e => decide (base = drnBase c e) && decide (r.off = R.DRN_STALL.off)

/-- Read the doubleword at an 8 B aligned offset of a core's control slot; the read clears RC fields; a core without power reads as zero
(R7, R10, R455). -/
def State.slotGet (s : State) (c : PCore) (off : Nat) : State × Nat :=
  if !s.powered c then (s, 0)
  else match slotReg c off with
  | some (base, r, i) =>
    if lostCycles c base r then s.readFree r.width else (s.clearRC base r i, (s.slotView c).readReg base r i)
  | none => (s, 0)

end Sys2Proof.Machine
end

