-- ==== Sys2Proof/Machine/Bobbin.lean ====
section
/-!
DEFINITION. The bobbins' requests: where an address leads (R226, R349), the walk of a transfer and of a dispatch (R228 to R233,
R258, R331), issuing a request with what may hold it (R223 to R225, R239), data on its way and responses, completion of a
request, and faults (R236, R237).
-/
namespace Sys2Proof.Machine

/-! ### Where an address leads -/

/-- What a request's side turns out to be: a place, a translation miss, a request no unit takes (R255), or a range or aperture
fault (R226, R230). -/
inductive Found where
  | at (p : Place)
  | miss
  | refused
  | range
  deriving DecidableEq, Repr

/-- The translation that covers a device virtual address. -/
def State.pageOf (s : State) (p a : Nat) : Option PageEnt :=
  if h : p < 16 then s.pages[p].find? fun e => decide (e.va ≤ a) && decide (a < e.va + e.len) else none

/-- The core whose slot of `size` bytes in the region at `base` holds a physical address. -/
def apCore (base size pa : Nat) : Option PCore :=
  if base ≤ pa ∧ pa < base + 64 * size then
    if h : (pa - base) / size < 64 then some ⟨(pa - base) / size, h⟩ else none
  else none

/-- What a physical local address is to a bobbin of core `c` for a request of `n` bytes (R226): of another core a program reads nothing but its
scratchpad, and writes nothing (R16, R183). -/
def State.localPlace (s : State) (c : PCore) (pa n : Nat) (write : Bool) : Found :=
  if (s.locate pa).isSome then .at (.hbm pa)
  else
    let own (k : PCore) : Bool := decide (s.partOf k = s.partOf c)
    match apCore 0x800000000000 0x1000000 pa, apCore 0x800040000000 0x1000000 pa, apCore 0x900000000000 0x40000 pa,
        apCore 0xA00000000000 0x100000 pa with
    | some k, _, _, _ =>
      let off := pa % 0x1000000
      if !own k || (write && decide (k ≠ c)) || !spadFits off n then .range
      else if k = c then .at (.spad off) else .at (.remSpad k.val off)
    | _, some k, _, _ => if k = c then .at (.accAp k.val (pa % 0x1000000)) else .range
    | _, _, some k, _ => if k = c then .at (.imem k.val (pa % 0x40000)) else .range
    | _, _, _, some k => if k = c ∧ pa % 8 = 0 ∧ n % 8 = 0 then .at (.slot k.val (pa % 0x100000)) else .range
    | _, _, _, _ => .refused

/-- Where a 64-bit address of a program leads (R226): translated here, or left to the module it names. -/
def State.resolve (s : State) (c : PCore) (a n : Nat) (write : Bool) : Found :=
  if !s.isHere a then .at (.remote (a >>> 48 % 65536) (a % 2 ^ 48))
  else
    let v := a % 2 ^ 48
    match s.pageOf (s.partOf c) v with
    | some e =>
      let pa := e.pa + (v - e.va)
      if hostWindow ≤ v then .at (.host pa e.unc) else s.localPlace c pa n write
    | none => .miss

/-- A range of addresses in pieces that no multiple of 4 KiB divides: a request of at most 512 B of its destination has one or two (log entry
31). -/
def pieces4K (a n : Nat) : List (Nat × Nat) :=
  let k := 4096 - a % 4096
  if n ≤ k then [(a, n)] else [(a, k), ((a + k) % 2 ^ 64, n - k)]

/-! ### The descriptor (R227) -/

/-- The fields of a transfer descriptor that the walk needs. -/
structure DescF where
  kind  : Nat
  ndim  : Nat
  srcSp : Nat
  dstSp : Nat
  ring  : Nat
  reg   : Nat
  wantRec : Bool
  stream : Nat
  src   : Nat
  dst   : Nat
  len0  : Nat
  modul : Nat
  cnt   : List Nat
  ss    : List Int
  ds    : List Int
  idx   : Nat
  k     : Nat
  table : Nat
  nexp  : Nat
  place : Nat
  counts : Nat
  recOff : Nat
  deriving DecidableEq, Repr

/-- Read the fields of a descriptor's sixteen words; counts above NDIM − 1 count as 1 (R227, R228). -/
def descF (d : List Nat) : DescF :=
  let w (i : Nat) := d.getD i 0
  let nd := bits (w 0) 4 3
  { kind := bits (w 0) 0 4, ndim := nd, srcSp := bits (w 0) 7 3, dstSp := bits (w 0) 10 3, ring := bits (w 0) 13 4,
    reg := bits (w 0) 17 3, wantRec := (w 0).testBit 20, stream := bits (w 0) 21 12, src := w 1, dst := w 2,
    len0 := bits (w 3) 0 32, modul := bits (w 3) 32 16,
    cnt := (List.range 4).map fun i => if i + 1 < nd then bits (w 4) (16 * i) 16 else 1,
    ss := (List.range 4).map fun i => signed 32 (bits (w (5 + i / 2)) (32 * (i % 2)) 32),
    ds := (List.range 4).map fun i => signed 32 (bits (w (7 + i / 2)) (32 * (i % 2)) 32),
    idx := bits (w 9) 0 24, k := bits (w 9) 24 4, table := bits (w 10) 0 24, nexp := bits (w 10) 24 16,
    place := bits (w 11) 0 24, counts := bits (w 11) 24 24, recOff := bits (w 12) 0 24 }

/-! ### Sides of a request -/

/-- One side of a request before translation: nothing, a scratchpad offset, a 64-bit address, a window with a signed offset, or a
place that needs no translation. -/
inductive Side where
  | none
  | spad (off : Nat)
  | addr (a : Nat)
  | win (modId core win gen : Nat) (off : Int)
  | place (p : Place) (a : Nat)
  deriving DecidableEq, Repr

/-- What the walk of a transfer asks for next: nothing more, a request with the transfer after it, or a fault of a side (0
source, 1 destination) at an offset. -/
inductive Plan where
  | done (x : Xfer)
  | req (src dst : Side) (n : Nat) (coord : List Nat) (x : Xfer)
  | fault (side addr : Nat) (coord : List Nat)
  deriving DecidableEq, Repr

/-- The coordinates after a piece of `n` bytes: the innermost runs fastest (R228). -/
def nextCoord (len : Nat) (cnt : List Nat) (n : Nat) (c : List Nat) : Option (List Nat) :=
  let c0 := c.getD 0 0 + n
  if c0 < len then some (c.set 0 c0)
  else
    let rec carry : List Nat → List Nat → Option (List Nat)
      | i :: is, k :: ks => if i + 1 < k then some ((i + 1) :: is) else (carry is ks).map (0 :: ·)
      | _, _ => none
    (carry (c.drop 1) cnt).map (0 :: ·)

/-- The transfer after a request of its walk. -/
def Xfer.step (x : Xfer) (next : Option (List Nat)) : Xfer :=
  match next with
  | some n => { x with next := n, num := x.num + 1 }
  | none => { x with allSent := true, num := x.num + 1 }

/-- A base moved by the strides of the dimensions. -/
def strideSum (i : List Nat) (st : List Int) : Int := ((i.zip st).map fun (k, d) => (k : Int) * d).foldl (· + ·) 0

/-- The next request of a copy, gather or scatter (R228, R229). R237 does not say which side and offset the range fault of an index entry
names, nor whether that of a ring offset is the slot's or the scratchpad's: here a gather's entry is side 0 and a scatter's side 1, with the entry's
own offset, and a ring offset is given within the scratchpad (DESIGN CHOICE, log entry 107). -/
def State.planDesc (s : State) (c : PCore) (x : Xfer) : Plan :=
  let f := descF x.desc
  let co := x.next
  let c0 := co.getD 0 0
  let i := co.drop 1
  let i1 := i.getD 0 0
  let idxAt := f.idx + 4 * i1
  let usesIdx := f.kind = 1 ∨ f.kind = 2
  if usesIdx ∧ ¬ spadFits idxAt 4 then .fault (f.kind - 1) idxAt co
  else
    let j1 := if usesIdx then s.spadLE c idxAt 4 else i1
    let is := if f.kind = 1 then i.set 0 j1 else i
    let id := if f.kind = 2 then i.set 0 j1 else i
    let sOff : Int := (f.src : Int) + strideSum is f.ss
    let dRel : Int := strideSum id f.ds
    let ringB := match x.ring with
      | some (_, _, b) => b
      | none => 0
    let slot := match x.ring with
      | some (r, _, _) => s.rd (bobcBase c) F.BOB_RING_CFG_SLOT_SIZE r
      | none => 0
    let dSpad : Nat := (((f.dst % 2 ^ 24 : Nat) : Int) + dRel + c0 |> fun v => v % (2 ^ 24 : Int)).toNat
    let dWin : Int := ((f.dst % 2 ^ 24 : Nat) : Int) + dRel + c0
    let dAddr : Nat := ((f.dst : Int) + dRel + c0 |> fun v => v % (2 ^ 64 : Int)).toNat
    let pos : Nat := match f.dstSp with
      | 0 => dSpad
      | 1 => dAddr
      | 2 => (dWin % 512).toNat
      | _ => ringB + dSpad
    let n := min (f.len0 - c0) (512 - pos % 512)
    let sAt : Nat := if f.srcSp = 0 then ((sOff + c0) % (2 ^ 24 : Int)).toNat else ((sOff + c0) % (2 ^ 64 : Int)).toNat
    let src : Side := if f.srcSp = 0 then .spad sAt else .addr sAt
    let dst : Side := match f.dstSp with
      | 0 => .spad dSpad
      | 1 => .addr dAddr
      | 2 => .win f.modul (bits f.dst 44 6) (bits f.dst 40 4) (bits f.dst 24 16) dWin
      | _ => .spad (ringB + dSpad)
    if f.srcSp = 0 ∧ ¬ spadFits sAt n then .fault 0 sAt co
    else if (f.dstSp = 0 ∧ ¬ spadFits dSpad n) ∨ (f.dstSp = 3 ∧ dSpad + n > slot) then .fault 1 pos co
    else .req src dst n co (x.step (nextCoord f.len0 f.cnt n co))

/-- The next request of a BCOPY (R170): `desc` holds destination, source and length. -/
def planCopy (x : Xfer) : Plan :=
  let dst := x.desc.getD 0 0
  let src := x.desc.getD 1 0
  let len := x.desc.getD 2 0
  let c0 := x.next.getD 0 0
  let d := (dst + c0) % 2 ^ 64
  let n := min (len - c0) (512 - d % 512)
  .req (.addr ((src + c0) % 2 ^ 64)) (.addr d) n x.next (x.step (nextCoord len [1, 1, 1, 1] n x.next))

/-! ### Dispatch (R231 to R233) -/

/-- An expert's dispatch table entry: module (0xFFFF for this one under either name), core, window, generation, cap and offset (R231). -/
def State.expert (s : State) (c : PCore) (f : DescF) (e : Nat) : Nat × Nat × Nat × Nat × Nat × Nat :=
  let a := f.table + e * 16
  let m := s.spadLE c a 2
  (if m = s.modId then 0xFFFF else m, s.spadLE c (a + 2) 1 % 64, s.spadLE c (a + 3) 1 % 16, s.spadLE c (a + 4) 2, s.spadLE c (a + 6) 2,
    s.spadLE c (a + 8) 3)

/-- The key of an expert's window among the windows that refused. -/
def winKey (m k w : Nat) : Nat := (m * 64 + k) * 16 + w

/-- The placement that row `r`, choice `j` gets before its row is sent: the 4 bytes written, or none where the row is to be
sent (R232). -/
def State.placement (s : State) (c : PCore) (f : DescF) (x : Xfer) (r j : Nat) : Option Nat :=
  let a := f.idx + (r * f.k + j) * 8
  let e := s.spadLE c (a + 4) 4
  if (Fmt.decode 1 (s.spadLE c a 4)).isNan ∨ e ≥ f.nexp then some 0xFFFFFFFE
  else
    let t := s.expert c f e
    if SMap.get 0 x.counts e = t.2.2.2.2.1 then some 0xFFFFFFFF
    else if x.refusedW.contains (winKey t.1 t.2.1 t.2.2.1) then some 0xFFFFFFFD
    else none

/-- Whether the entries that (r, j) reads and writes lie in the scratchpad: the offset that does not. -/
def State.dispatchRange (s : State) (c : PCore) (f : DescF) (r j : Nat) : Option Nat :=
  let a := f.idx + (r * f.k + j) * 8
  let p := f.place + (r * f.k + j) * 4
  let e := s.spadLE c (a + 4) 4
  if ¬ spadFits a 8 then some a
  else if ¬ spadFits p 4 then some p
  else if e < f.nexp ∧ ¬ spadFits (f.table + e * 16) 16 then some (f.table + e * 16)
  else none

/-- The next (r, j). -/
def nextRJ (f : DescF) (r j : Nat) : Option (List Nat) :=
  if j + 1 < f.k then some [0, r, j + 1, 0, 0] else if r + 1 < f.cnt.getD 0 1 then some [0, r + 1, 0, 0, 0] else none

/-- The first marked offset of a scratchpad range (R384). -/
def State.firstMark (s : State) (c : PCore) (off n : Nat) : Option Nat :=
  ((linesOf off n).find? fun l => SMap.get false (s.core c).spadPois l).map (· * 64)

/-- A bobbin reads marked control data: no request is issued and the task aborts with cause 6 (R384). -/
def State.bobConsume (s : State) (c : PCore) (b : Bob) (off ia : Nat) : State := s.consumeFault c 0x8 (c.val * 2 + b.val) off ia

/-- What a transfer's next step reads of index lists, routing entries and the dispatch table (R229, R231). -/
def State.walkReads (s : State) (c : PCore) (x : Xfer) : List (Nat × Nat) :=
  let f := descF x.desc
  let i := x.next.getD 1 0
  if x.kind ≠ .desc ∨ x.allSent then []
  else if f.kind = 1 ∨ f.kind = 2 then [(f.idx + 4 * i, 4)]
  else if f.kind = 3 then
    let a := f.idx + (i * f.k + x.next.getD 2 0) * 8
    let e := s.spadLE c (a + 4) 4
    (a, 8) :: if e < f.nexp then [(f.table + e * 16, 16)] else []
  else []

/-- The step meets the errors stored in what it reads (R177); the state, and the first marked offset (R384). -/
def State.walkMeet (s : State) (c : PCore) (x : Xfer) : State × Option Nat :=
  let rs := s.walkReads c x
  let s := rs.foldl (fun s g => s.spadMeet c g.1 g.2) s
  (s, rs.findSome? fun g => s.firstMark c g.1 g.2)

/-- Pass over the choices that send no row, writing their placement entries, up to `n` of them (R232). -/
def State.dispatchSkip (s : State) (c : PCore) (x : Xfer) : Nat → State × Xfer
  | 0 => (s, x)
  | n + 1 =>
    let m := s.walkMeet c x
    let s := m.1
    let f := descF x.desc
    let c0 := x.next.getD 0 0
    let r := x.next.getD 1 0
    let j := x.next.getD 2 0
    if x.allSent ∨ (s.dispatchRange c f r j).isSome ∨ m.2.isSome then (s, x)
    else if c0 ≠ 0 then
      let t := s.expert c f (s.spadLE c (f.idx + (r * f.k + j) * 8 + 4) 4)
      if x.refusedW.contains (winKey t.1 t.2.1 t.2.2.1) then
        let x := match nextRJ f r j with
          | some p => { x with next := p }
          | none => { x with allSent := true }
        s.dispatchSkip c x n
      else (s, x)
    else
      match s.placement c f x r j with
      | none => (s, x)
      | some v =>
        let s := s.spadWrite c (f.place + (r * f.k + j) * 4) (leBytes 4 v)
        let x := { x with dropped := if v = 0xFFFFFFFF then x.dropped + 1 else x.dropped }
        let x := match nextRJ f r j with
          | some p => { x with next := p }
          | none => { x with allSent := true }
        s.dispatchSkip c x n

/-- The next request of a dispatch, whose choice is known to send its row (R231, R232). A routing, table or placement entry out of range faults
on side 0 with the entry's offset, a COUNTS entry on side 1 (DESIGN CHOICE, log entry 107). -/
def State.planDispatch (s : State) (c : PCore) (x : Xfer) : Plan :=
  let f := descF x.desc
  let c0 := x.next.getD 0 0
  let r := x.next.getD 1 0
  let j := x.next.getD 2 0
  if x.allSent then .done x
  else
    match s.dispatchRange c f r j with
    | some a => .fault 0 a x.next
    | none =>
      let e := s.spadLE c (f.idx + (r * f.k + j) * 8 + 4) 4
      let t := s.expert c f e
      let ne := if c0 = 0 then SMap.get 0 x.counts e else SMap.get 0 x.counts e - 1
      let d : Int := (t.2.2.2.2.2 : Int) + (ne : Int) * f.ds.getD 0 0 + c0
      let sAt := (((f.src % 2 ^ 24 : Nat) : Int) + (r : Int) * f.ss.getD 0 0 + c0 |> fun v => v % (2 ^ 24 : Int)).toNat
      let n := min (f.len0 - c0) (512 - (d % 512).toNat)
      let away := t.1 ≠ 0xFFFF
      let coreOk := away ∨ (match s.physOf t.2.1 with
        | some k => decide (s.partOf k = s.partOf c)
        | none => false) = true
      if ¬ spadFits sAt n then .fault 0 sAt x.next
      else if ¬ coreOk then .fault 1 (f.table + e * 16) x.next
      else
        let x := if c0 = 0 then { x with counts := SMap.set 0 x.counts e (ne + 1) } else x
        let next : Option (List Nat) := if c0 + n < f.len0 then some (x.next.set 0 (c0 + n)) else nextRJ f r j
        .req (.spad sAt) (.win t.1 t.2.1 t.2.2.1 t.2.2.2.1 d) n x.next (x.step next)

/-! ### Memory-side operations (R258, R259, R265, R331) -/

/-- The next request of a MOP: `desc` holds the descriptor as read (R258, R265, R331). -/
def State.planMop (s : State) (x : Xfer) : Plan :=
  let f := mopF x.desc
  let here := s.isHere f.dst
  let low (a : Nat) : Nat := a % 2 ^ 48
  let d := (List.range 16).map fun i => if i = 1 ∨ i = 2 ∨ i = 4 ∨ i = 5 then low (x.desc.getD i 0) else x.desc.getD i 0
  let k := x.next.getD 0 0
  let g := mopF d
  if f.op = 6 then
    let dst : Side := if f.space = 0 then .spad ((f.dst + 32 * k) % 2 ^ 24) else .addr ((f.dst + 32 * k) % 2 ^ 64)
    let next := if (k + 1) * 32 < f.len then some [k + 1] else none
    .req (.place (.norm (f.tagW + k) f.clear) 0) dst 32 [k] (x.step next)
  else if here then
    -- `k` counts bytes of DST done; a part ends at a multiple of 512 B of DST (log entry 26), and takes along of SRC the elements that begin in it
    let n := min (g.len - k) (512 - (g.dst + k) % 512)
    let next := if k + n < g.len then some [k + n] else none
    let w := g.cover k n
    let src : Side := if f.op > 2 then .none
      else if f.space = 0 then .spad ((f.src + w.1) % 2 ^ 24) else .addr ((f.src + w.1) % 2 ^ 64)
    .req src (.place (.picot (.part d k n none false) 0) (g.dst + k)) (if f.op > 2 then n else w.2) [k] (x.step next)
  else
    -- parts of at most 448 B, whole lines each, within one 4 KiB granule; `k` counts bytes done (R331). AF48 parts hold at most six
    -- lines and carry the elements that begin in them (log entry 34)
    let wide := f.op = 0 ∧ f.fmt = 2
    let n := min (f.len - k) (min (if wide then 384 else 448) (4096 - (f.dst + k) % 4096))
    let next := if k + n < f.len then some [k + n] else none
    let b := if wide then 6 * ceilDiv k 6 else k
    let m := if wide then 6 * ceilDiv (k + n) 6 - b else n
    let src : Side := if f.space = 0 then .spad ((f.src + b) % 2 ^ 24) else .addr ((f.src + b) % 2 ^ 64)
    .req src (.place (.remoteOp (f.dst >>> 48 % 65536) f.op f.fmt (low f.dst + b)) (f.dst + b)) m [k] (x.step next)

/-- The next request of a context. -/
def State.plan (s : State) (c : PCore) (x : Xfer) : Plan :=
  match x.kind with
  | .desc => if (descF x.desc).kind = 3 then s.planDispatch c x else s.planDesc c x
  | .copy => planCopy x
  | .mop => s.planMop x
  | .scommit =>
    .req .none (.place (.picot (.recCommit (x.desc.getD 1 0)) 0) (x.desc.getD 0 0)) 64 [0] (x.step none)
  | .matom =>
    let op := x.desc.getD 0 0
    let fmt := x.desc.getD 1 0
    let a := x.desc.getD 2 0
    let w := atomicWidth op fmt
    if s.isHere a then
      .req .none (.place (.picot (.atomic op fmt [x.desc.getD 3 0 % 2 ^ (8 * w)] false) 0) a) w [0] (x.step none)
    else
      .req .none (.place (.remoteOp (a >>> 48 % 65536) (op + 16) (fmt + 16 * (x.desc.getD 3 0 % 2 ^ (8 * w))) (a % 2 ^ 48)) a) w [0]
        (x.step none)

/-! ### Faults (R236, R237) -/

/-- What a bobbin holds. -/
def State.bob (s : State) (c : PCore) (b : Bob) : BobRec := (s.core c).bobs[b]

/-- The bobbin's tags as its registers show them (R225, R243). -/
def State.bobTags (s : State) (c : PCore) : State :=
  let n0 := (s.bob c 0).reqs.length
  let n1 := (s.bob c 1).reqs.length
  let s := (s.wr (bobBase c 0) F.BOB_STATUS_TAGS n0).wr (bobBase c 1) F.BOB_STATUS_TAGS n1
  let s := s.wr (bobcBase c) F.BOB_TAGS_INUSE (n0 + n1)
  if n0 + n1 > s.rd (bobcBase c) F.BOB_TAGS_PEAK then s.wr (bobcBase c) F.BOB_TAGS_PEAK (n0 + n1) else s

/-- When the last tag of a bobbin has returned, a fault no longer stops it, and the BYTES of a record it filled is final (R237, R243). -/
def State.bobSettle (s : State) (c : PCore) (b : Bob) : State :=
  if (s.bob c b).reqs.isEmpty then
    let s := match (s.bob c b).fault with
      | some (_, n) => s.wr (fltBase c b) F.BOB_FLT_BYTES_BYTES n
      | none => s
    (s.wr (bobBase c b) F.BOB_STATUS_FAULTSTOP 0).onBob c b fun r => { r with fault := none }
  else s

/-- A bobbin stops at a fault; its fault record is filled where it holds none (R237, R243). -/
def State.faultRecord (s : State) (c : PCore) (b : Bob) (x : Xfer) (side addr : Nat) (range remote : Bool) (coord : List Nat) :
    State :=
  let g := fltBase c b
  let s := (s.setOn (bobBase c b) F.BOB_ERR_FAULT).setOn (bobBase c b) F.BOB_STATUS_FAULTSTOP
  if s.on g F.BOB_FLT_STATUS_VALID then s
  else
    let s := (s.setOn g F.BOB_FLT_STATUS_VALID).wr g F.BOB_FLT_STATUS_SIDE side
    let s := s.wr g F.BOB_FLT_STATUS_REMOTE (if remote then 1 else 0)
    let s := (s.wr g F.BOB_FLT_STATUS_RANGE (if range then 1 else 0)).wr g F.BOB_FLT_STATUS_IADDR x.ia
    let s := (s.wr g F.BOB_FLT_ADDR_ADDR addr).wr g F.BOB_FLT_COORD0_C0 (coord.getD 0 0)
    let s := (List.range 4).foldl (fun s i => s.wr g F.BOB_FLT_COORD1_C (coord.getD (i + 1) 0) i) s
    let ws := if x.kind = .desc ∨ x.kind = .mop then x.desc else []
    let s := (List.range 16).foldl (fun s i => s.wr g F.BOB_FLT_DESC_WORD (ws.getD i 0) i) s
    s.onBob c b fun r => { r with fault := some (x.id, x.bytes) }

/-- A transfer faults: its record is filled, and the task aborts with cause 5 at its address (R236, R237). -/
def State.bobFault (s : State) (c : PCore) (b : Bob) (x : Xfer) (side addr : Nat) (range remote : Bool) (coord : List Nat) :
    State :=
  ((s.faultRecord c b x side addr range remote coord).pageFault c x.ia).bobSettle c b

/-- A fault that a bobbin of an aborted task finds in the cycle of the abort: its record is filled too, and the abort names bobbin 0's instruction
where it is bobbin 0's (R237). -/
def State.lateFault (s : State) (c : PCore) (b : Bob) (x : Xfer) (side addr : Nat) (range remote : Bool) (coord : List Nat) : State :=
  let s := s.faultRecord c b x side addr range remote coord
  if b = 0 ∧ s.rd (coreBase c) F.SEQ_ABORT_CAUSE = 5 then s.wr (coreBase c) F.SEQ_ABORT_IADDR x.ia else s

/-! ### Data on its way -/

/-- Put a request back under its tag. -/
def State.setReq (s : State) (c : PCore) (b : Bob) (q : BobReq) : State :=
  s.onBob c b fun r => { r with reqs := r.reqs.map fun x => if x.tag = q.tag then q else x }

/-- The lines of host memory a range touches leave the device cache (R349). -/
def State.cacheDrop (s : State) (a n : Nat) : State :=
  let ls := linesOf a n
  { s with hcache := s.hcache.filter fun e => !ls.contains e.1 }

/-- Whether the device cache holds a range (R349). -/
def State.cacheHas (s : State) (a n : Nat) : Bool := (linesOf a n).all fun l => s.hcache.any fun e => e.1 = l

/-- The bytes of a range that the device cache holds. -/
def State.cacheRead (s : State) (a n : Nat) : List Byte :=
  (List.range n).map fun i => (SMap.get [] s.hcache ((a + i) / 64)).getD ((a + i) % 64) 0

/-- Lines that a shared read brought whole enter the device cache of 1 MiB; the lowest leaves when it is full (R349; log
entry 32). -/
def State.cacheFill (s : State) (a : Nat) (bs : List Byte) : State :=
  (linesOf a bs.length).foldl (fun s l =>
    if a ≤ l * 64 ∧ l * 64 + 64 ≤ a + bs.length then
      let full := s.hcache.length ≥ 16384 ∧ ¬ (s.hcache.any fun e => e.1 = l)
      let s := match s.hcache with
        | e :: r => if full then ({ s with hcache := r }).emit (.cleanEvict e.1) else s
        | [] => s
      { s with hcache := SMap.put l ((bs.drop (l * 64 - a)).take 64) s.hcache }
    else s) s

/-- What fills the last chunk of a part: AF48 values are followed by −0, which adds nothing (log entry 34). -/
def afPad (fmt n : Nat) : List Byte :=
  if fmt = 2 then
    let need := (16 - n % 16) % 16
    (List.range (need / 6)).flatMap (fun _ => leBytes 6 0x800000000000) ++ List.replicate (need % 6) 0
  else []

/-- Where data is read, its write goes on its way; a destination in the core itself is written when the request completes
(R223, R226, R306, R331). -/
def State.bobForward (s : State) (c : PCore) (b : Bob) (q : BobReq) (bs : List Byte) (poison : Bool) : State :=
  let q := { q with data := some bs, poison := poison, sent := true }
  let s := s.setReq c b q
  let p := s.partOf c
  let src : MemSrc := .bobbin c.val b.val q.tag
  let pkt (m typ addr : Nat) (data : List Byte) : Packet :=
    ⟨m, 0, c.val, s.jobOf p, typ, 0, poison, units data.length, q.tag, addr, data⟩
  match q.dst with
  | .hbm a => s.memSend ⟨src, p, .write bs poison, a⟩
  | .picot op a =>
    let op := match op with
      | .part d off n _ _ => MemOp.part d off n (if bs.isEmpty then none else some bs) poison
      | o => o
    s.memSend ⟨src, p, op, a⟩
  | .window m k w g off =>
    if m = 0xFFFF then
      match s.physOf k with
      | some t => { s with winReqs := s.winReqs ++ [⟨.bobbin c.val b.val q.tag, 0xFFFF, (s.logicalOf c).getD 0x3F,
          q.xfer * 4 + 1 + b.val, t, w, g, off, bs, poison⟩] }
      | none => s
    else s.sendPacket (pkt m 3 (k + w * 2 ^ 6 + g * 2 ^ 10 + off / 64 * 2 ^ 26) bs)
  | .remote m a => s.sendPacket (pkt m 0 a bs)
  | .remoteOp m op fmt a =>
    if op ≥ 16 then s.sendPacket (pkt m 2 a (leBytes 8 (op - 16 + fmt % 16 * 16) ++ leBytes 8 (fmt / 16)))
    else s.sendPacket (pkt m 2 a (leBytes 16 (op + fmt * 16) ++ bs ++ afPad fmt bs.length))
  | .host a _ => (s.cacheDrop a bs.length).writeHost a bs
  | _ => s

/-- Read `n` bytes of a control slot, doubleword by doubleword (R226). -/
def State.slotRead (s : State) (c : PCore) (off : Nat) : Nat → State × List Byte
  | 0 => (s, [])
  | n + 1 =>
    let r := s.slotGet c off
    let t := r.1.slotRead c (off + 8) n
    (t.1, leBytes 8 r.2 ++ t.2)

/-- Go on reading the source of the request under a tag: the places the core holds itself are read at once, for the first that another unit
holds a request goes out, and with all of them read the data goes on its way (R223, R226, R265; `n` bounds the places). -/
def State.bobFetch (s : State) (c : PCore) (b : Bob) (tag : Nat) : Nat → State
  | 0 => s
  | n + 1 =>
    match (s.bob c b).reqs.find? fun q => q.tag = tag with
    | none => s
    | some q =>
      let src : MemSrc := .bobbin c.val b.val tag
      let p := s.partOf c
      let next (s : State) (bs : List Byte) (poison : Bool) : State :=
        (s.setReq c b { q with got := q.got ++ bs, poison := q.poison || poison }).bobFetch c b tag n
      match q.unread with
      | [] => s.bobForward c b q q.got q.poison
      | (.nothing, _) :: _ => s.bobForward c b q [] false
      | (.spad off, len) :: _ =>
        let x := s.spadTake c off len
        next x.1 x.2.1 x.2.2
      | (.slot _ off, len) :: _ =>
        let x := s.slotRead c off (len / 8)
        next x.1 x.2 false
      | (.accAp _ off, len) :: _ =>
        let x := s.accTake c off len
        next x.1 x.2.1 x.2.2
      | (.imem _ off, len) :: _ => next s ((List.range len).map fun i => s.imemByte c (off + i)) false
      | (.hbm a, len) :: _ => s.memSend ⟨src, p, .read len, a⟩
      | (.norm t clear, _) :: _ => s.normSend ⟨src, p, .normFetch t clear, 0⟩ t
      | (.remote m a, len) :: _ => s.sendPacket ⟨m, 0, c.val, s.jobOf p, 1, 0, false, units len, tag, a, []⟩
      | (.host a unc, len) :: _ =>
        if !unc && s.cacheHas a len then next s (s.cacheRead a len) false else s.emit (.hostRead a len (!unc))
      | _ => s

/-- What one place of a request's source holds has come; the next place is read, or the data goes on its way. A norm fetch that was discarded
brings nothing and lands nothing (R263). -/
def State.bobGot (s : State) (c : PCore) (b : Bob) (q : BobReq) (bs : List Byte) (poison : Bool) : State :=
  match q.unread with
  | (.norm .., _) :: _ => s.bobForward c b q bs poison
  | (_, n) :: _ =>
    if bs.length < n then s
    else (s.setReq c b { q with got := q.got ++ bs.take n, poison := q.poison || poison, since := s.us }).bobFetch c b q.tag 4
  | [] => s

/-! ### Remote scratchpad reads -/

/-- How many bytes of the place a request reads now have been read. -/
def BobReq.into (q : BobReq) : Nat := q.got.length - ((q.pieces.map Prod.snd).sum - (q.unread.map Prod.snd).sum)

/-- REMOTE_SCRATCHPAD_READ: the next line of a bobbin's read of another core's scratchpad is served whole; after the last the request goes on (R177,
R183). -/
def execRemoteScratchpadRead (c : PCore) (b : Bob) (tag : Nat) (s : State) : Host.Outcome State Fault Refusal :=
  .next (match ((s.core c).bobs[b]).reqs.find? fun q => q.tag = tag with
    | some q =>
      match q.unread with
      | (.remSpad k off, len) :: _ =>
        if h : k < 64 then
          if q.done then s
          else
            let a := off + q.into
            let n := min (64 - a % 64) (len - q.into)
            let x := s.spadTake ⟨k, h⟩ a n
            let s := x.1.setReq c b { q with got := q.got ++ x.2.1, poison := q.poison || x.2.2 }
            if q.into + n = len then s.bobFetch c b tag 4 else s
        else s
      | _ => s
    | none => s)

/-! ### Issuing a request (R223 to R225, R228, R239) -/

/-- The lines a place covers for a bobbin of core `c`, each as a space and a number, for the order of R224: a part of a memory-side operation
covers those of every array it reads or writes (R258, R261), and a window of this module the lines of its core's scratchpad (R185). -/
def State.placeLines (s : State) (c : PCore) (p : Place) (n : Nat) : List (Nat × Nat) :=
  let part := s.partOf c
  let r (sp a : Nat) : List (Nat × Nat) := (linesOf a n).map fun l => (sp, l)
  let spad (k : PCore) (a : Nat) : List (Nat × Nat) := if k = c then r 0 a else r (200 + k.val) a
  match p with
  | .spad a => r 0 a
  | .hbm a => r 1 a
  | .host a _ => r 2 a
  | .picot (.part d off len src bad) a =>
    let f := mopF d
    let g := f.cover off len
    let work := if f.op = 3 && f.wcopy then (s.vaLines part (f.work % 2 ^ 48 + g.1 / 2) (g.2 / 2)).filterMap id else []
    (s.reqLines ⟨.firmware, part, .part d off len src bad, a⟩ ++ work).map fun l => (1, l)
  | .picot _ a => r 1 a
  | .slot k a => r (100 + k) a
  | .remSpad k a => r (200 + k) a
  | .accAp k a => r (300 + k) a
  | .imem k a => r (400 + k) a
  | .window m k w _ a =>
    match s.physOf k with
    | some t => if m = 0xFFFF ∧ w < 16 then spad t (s.rd (spdBase t) F.SPD_WIN_A_BASE w + a) else r (1000 + winKey m k w) a
    | none => r (1000 + winKey m k w) a
  | .remote m a => r (10 ^ 9 + m) a
  | .remoteOp m _ _ a => r (10 ^ 9 + m) a
  | .nothing => []
  | .norm tag _ => [(3, tag)]

/-- The lines a request reads and writes (R224). -/
def State.bobLines (s : State) (c : PCore) (q : BobReq) : List (Nat × Nat) :=
  (q.pieces.flatMap fun p => s.placeLines c p.1 p.2) ++ s.placeLines c q.dst q.len

/-- Whether an outstanding request of the bobbin holds a new one: they share a line (R224). -/
def State.bobOrders (s : State) (c : PCore) (b : Bob) (q : BobReq) : Bool :=
  let ls := s.bobLines c q
  (s.bob c b).reqs.any fun x => (s.bobLines c x).any ls.contains

/-- The tags of a core that neither bobbin's reserve sets aside and no request holds (R225). -/
def State.tagsShared (s : State) (c : PCore) : Nat :=
  let n (i : Bob) : Nat := (s.bob c i).reqs.length
  let r (i : Bob) : Nat := s.rd (bobBase c i) F.BOB_CTRL_RESERVE
  512 - r 0 - r 1 - ((n 0 - r 0) + (n 1 - r 1))

/-- Whether a bobbin may take a tag: its own reserve, or what neither reserve sets aside (R225). -/
def State.tagFree (s : State) (c : PCore) (b : Bob) : Bool :=
  decide ((s.bob c b).reqs.length < s.rd (bobBase c b) F.BOB_CTRL_RESERVE) || decide (0 < s.tagsShared c)

/-- The lowest tag of a core that no request holds, one whose last response may still arrive only where there is no other (log entry 33). -/
def State.newTag (s : State) (c : PCore) : Nat :=
  let free := (List.range 512).filter fun t => !(s.bob c 0).reqs.any (fun q => q.tag = t) && !(s.bob c 1).reqs.any fun q => q.tag = t
  ((free.find? fun t => !(s.bob c 0).stale.contains t && !(s.bob c 1).stale.contains t).or free.head?).getD 512

/-- The allotment entry of a stream: the lowest-numbered valid one (R225). -/
def State.allotOf (s : State) (c : PCore) (stream : Nat) : Option Nat :=
  ((List.range 32).find? fun k => s.on (bobcBase c) F.BOB_ALLOT_VALID k && decide (s.rd (bobcBase c) F.BOB_ALLOT_STREAM k = stream)).map
    fun k => s.rd (bobcBase c) F.BOB_ALLOT_FLITS k

/-- The stack a place's request goes to. -/
def State.placeStack (s : State) (p : Place) : Option Stack :=
  match p with
  | .hbm a => s.stackOf a
  | .picot _ a => s.stackOf a
  | _ => none

/-- The flits a request holds at a stack: ceil(n ÷ 128) for its read there, and for its write there (R225). -/
def State.reqFlits (s : State) (q : BobReq) (k : Stack) : Nat :=
  let at_ (p : Place × Nat) : Nat := if s.placeStack p.1 = some k then ceilDiv p.2 128 else 0
  max (q.pieces.map at_).sum (at_ (q.dst, q.len))

/-- Whether a stream's allotment lets a request to its stacks go out (R225). -/
def State.allotted (s : State) (c : PCore) (q : BobReq) : Bool :=
  match s.allotOf c q.stream with
  | none => true
  | some lim => (List.finRange 20).all fun k =>
    let n := s.reqFlits q k
    n = 0 || decide (((((s.bob c 0).reqs ++ (s.bob c 1).reqs).filter fun x => x.stream = q.stream).map fun x => s.reqFlits x k).sum + n ≤ lim)

/-- Whether a request leaves its core: all but one that moves data within it (R219). -/
def BobReq.leaves (q : BobReq) : Bool :=
  let inside (p : Place) : Bool := match p with
    | .nothing | .spad _ | .slot .. | .accAp .. | .imem .. => true
    | _ => false
  !(q.pieces.all fun p => inside p.1) || !inside q.dst

/-- The die a place of a request lies on: that of a stack, a core, the CXL port, or the complex of the port that leads to another module. -/
def State.placeDie (s : State) (c : PCore) (p : Place) : Nat :=
  match p with
  | .hbm a => ((s.stackOf a).map fun k => k.val / 5).getD (dieOf c).val
  | .picot _ a => ((s.stackOf a).map fun k => k.val / 5).getD (dieOf c).val
  | .norm tag _ => tag % 20 / 5
  | .remSpad k _ => k / 16
  | .host .. => 0
  | .window m k .. => if m = 0xFFFF ∨ m = s.modId then (dieOf ((s.physOf k).getD c)).val else (dieOf c).val
  | _ => (dieOf c).val

/-- Whether the places of a request that leaves its core are reached now (R18, R206, R219). -/
def State.placesFlow (s : State) (c : PCore) (q : BobReq) : Bool :=
  ((q.dst :: q.pieces.map Prod.fst)).all fun p => s.flows (s.partOf c) (dieOf c).val (s.placeDie c p)

/-- A regulator's bucket now, in 1/256 bytes (R239). -/
def State.bucket (s : State) (c : PCore) (b : Bob) (n : Nat) : Nat :=
  let e := (s.bob c b).buckets.getD n (0, 0)
  min (max (s.rd (bobBase c b) F.BOB_REG_BURST n) 512 * 256) (e.1 + (s.cycle - e.2) * s.rd (bobBase c b) F.BOB_REG_RATE n)

/-- The regulator and the stream a context's requests go under: BCOPY uses regulator 0 and the M family none (R239, R258). The spec names no stream
for the requests of a BCOPY, an SCOMMIT or a MATOM: they go under none and wait for no allotment (DESIGN CHOICE, log entry 108). -/
def Xfer.under (x : Xfer) : Option Nat × Option Nat :=
  match x.kind with
  | .desc => (some (descF x.desc).reg, some (descF x.desc).stream)
  | .copy => (some 0, none)
  | .mop => (none, some (mopF x.desc).stream)
  | _ => (none, none)

/-- Replace a context. -/
def State.setXfer (s : State) (c : PCore) (b : Bob) (x : Xfer) : State :=
  s.onBob c b fun r => { r with ctxs := r.ctxs.map fun y => if y.id = x.id then x else y }

/-- A request that is refused without being sent, or comes back refused: the first in visiting order gives the transfer its
status; a copy, gather or scatter issues nothing more, and a dispatch nothing more to that window (R233, R235). -/
def Xfer.refuse (x : Xfer) (num verdict dest : Nat) (key : Option Nat) : Xfer :=
  let x := if x.status = 0 ∨ num < x.refAt then { x with status := verdict, refAt := num, refDest := dest } else x
  match key with
  | some k => { x with refusedW := k :: x.refusedW }
  | none => { x with allSent := true }

/-- W2 with a window and an offset (R227, R234). -/
def w2Of (k w g : Nat) (off : Int) : Nat := (off % (2 ^ 24 : Int)).toNat + g * 2 ^ 24 + w * 2 ^ 40 + k * 2 ^ 44

/-- Where a destination leads. -/
def State.findDst (s : State) (c : PCore) (d : Side) (n : Nat) : Found :=
  match d with
  | .none => .at .nothing
  | .spad off => .at (.spad off)
  | .addr a => s.resolve c a n true
  | .win m k w g off => .at (.window (if m = s.modId then 0xFFFF else m) k w g off.toNat)
  | .place (.picot op _) a =>
    match s.resolve c ((a % 2 ^ 48) + 0xFFFF * 2 ^ 48) n true with
    | .at (.hbm pa) => .at (.picot op pa)
    | .at _ => .range
    | f => f
  | .place p _ => .at p

/-- Where a source leads: the places it lies in, one after another, each with its name in the program, its length and what translation finds
(R226, log entry 31). -/
def State.findSrc (s : State) (c : PCore) (d : Side) (n : Nat) : List (Nat × Nat × Found) :=
  match d with
  | .none => [(0, n, .at .nothing)]
  | .spad off => [(off, n, .at (.spad off))]
  | .addr a => (pieces4K a n).map fun p => (p.1, p.2, s.resolve c p.1 p.2 false)
  | .win .. => []
  | .place p a => [(a, n, .at p)]

/-- The first place of a source that translation refuses: its name, and whether it is a range fault. -/
def srcFault : List (Nat × Nat × Found) → Option (Nat × Bool)
  | [] => none
  | (_, _, .at _) :: l => srcFault l
  | (a, _, .range) :: _ => some (a, true)
  | (a, _, _) :: _ => some (a, false)

/-- The places of a source that translation finds. -/
def srcPlaces (l : List (Nat × Nat × Found)) : List (Place × Nat) := l.filterMap fun x => match x.2.2 with
  | .at p => some (p, x.2.1)
  | _ => none

/-- The first of a part's arrays beside DST that leads to no HBM here: the unit that would send the part refuses it at issue (R255). The address,
the side (the gradient is a source, a moment a destination: DESIGN CHOICE, log entry 107) and whether it is a range fault. -/
def State.partMiss (s : State) (c : PCore) (p : Place) : Option (Nat × Nat × Bool) :=
  match p with
  | .picot (.part d off n _ _) _ =>
    let f := mopF d
    let g := f.cover off n
    (if f.op = 3 then f.arrays.tail.zipIdx else []).findSome? fun b => (pieces4K (b.1 % 2 ^ 48 + g.1) g.2).findSome? fun q =>
      match s.resolve c (q.1 % 2 ^ 48 + 0xFFFF * 2 ^ 48) q.2 true with
      | .at (.hbm _) => none
      | .at _ | .range => some (q.1, min b.2 1, true)
      | _ => some (q.1, min b.2 1, false)
  | _ => none

/-- The address or offset of a side as the program names it. That of a dispatched row is W2 of its expert's entry, core, window and generation with
the row's offset (R234; DESIGN CHOICE, log entry 109). -/
def Side.name (d : Side) : Nat :=
  match d with
  | .none => 0
  | .spad off => off
  | .addr a => a
  | .win _ k w g off => w2Of k w g off
  | .place _ a => a

/-- The first request of a dispatched row writes its placement entry, the row's number n_e (R232). -/
def State.placeRow (s : State) (c : PCore) (x x' : Xfer) (coord : List Nat) : State :=
  let f := descF x.desc
  if x.kind = .desc ∧ f.kind = 3 ∧ coord.getD 0 0 = 0 then
    let n := coord.getD 1 0 * f.k + coord.getD 2 0
    let e := s.spadLE c (f.idx + n * 8 + 4) 4
    s.spadWrite c (f.place + n * 4) (leBytes 4 (SMap.get 0 x'.counts e - 1))
  else s

/-- The regulator that governs a context's requests, where it is not at RATE 0 (R239). -/
def State.regOf (s : State) (c : PCore) (b : Bob) (x : Xfer) : Option Nat :=
  match x.under.1 with
  | some g => if s.rd (bobBase c b) F.BOB_REG_RATE g = 0 then none else some g
  | none => none

/-- What holds a bobbin's next request: nothing, a regulator, a tag or an allotment (R225, R239, R243). -/
def State.holdBy (s : State) (c : PCore) (b : Bob) (k : Nat) : State :=
  (s.onBob c b fun r => { r with hold := k }).wr (bobBase c b) F.BOB_STATUS_REGWAIT (if k = 1 then 1 else 0)

/-- Whether a regulator's bucket holds fewer than `n` bytes (R239). -/
def State.regShort (s : State) (c : PCore) (b : Bob) (g : Option Nat) (n : Nat) : Bool :=
  match g with
  | some g => decide (s.bucket c b g < n * 256)
  | none => false

/-- The request a planned step of a transfer makes: its places found, its tag the lowest that is free (log entry 33). -/
def State.newReq (s : State) (c : PCore) (x : Xfer) (src dst : Side) (ps : List (Place × Nat)) (pd : Place) (n : Nat) (coord : List Nat) : BobReq where
  xfer := x.id
  num := x.num
  tag := s.newTag c
  src := (ps.headD (.nothing, 0)).1
  dst := pd
  addrs := (src.name, dst.name)
  len := n
  coord := coord
  stream := x.under.2.getD 0xFFFF
  data := none
  poison := false
  sent := false
  status := 0
  done := false
  since := s.us
  more := ps.tail
  got := []

/-- Issue a planned request when nothing holds it: an earlier request of its lines, the hold of its partition's network, a tag or its stream's
allotment, its regulator (R219, R223 to R225, R239). -/
def State.issueReq (s : State) (c : PCore) (b : Bob) (x x' : Xfer) (q : BobReq) : State :=
  let reg := s.regOf c b x
  if s.bobOrders c b q || (q.leaves && !s.placesFlow c q) then s.holdBy c b 0
  else if !s.tagFree c b || !s.allotted c q then s.holdBy c b 2
  else if s.regShort c b reg q.len then s.holdBy c b 1
  else
    let s := s.holdBy c b 0
    let s := match reg with
      | some g =>
        let left := s.bucket c b g - q.len * 256
        s.onBob c b fun r => { r with buckets := r.buckets.set g (left, s.cycle) }
      | none => s
    let s := (s.setXfer c b x').onBob c b fun r => { r with reqs := r.reqs ++ [q], issuedAt := some s.cycle }
    let s := s.placeRow c x x' q.coord
    ((s.count (bobBase c b) F.BOB_REQS_COUNT).bobTags c).bobFetch c b q.tag 4

/-- A fault of a bobbin's next request: its transfer, the side, the address, whether it is a range fault, its coordinates. -/
structure IssueFault where
  x     : Xfer
  side  : Nat
  addr  : Nat
  range : Bool
  coord : List Nat
  deriving DecidableEq, Repr

/-- A bobbin turns to the next request of its first transfer that has one left, at most one a cycle: it is held, sent, or found to
fault. A request is translated when it issues, so one that waits for a tag or its regulator does not fault yet (R223, R226,
R228, R236). -/
def State.issueNext (s : State) (c : PCore) (b : Bob) : State × Option IssueFault :=
  match (s.bob c b).ctxs.find? fun x => !x.allSent with
  | none => (s, none)
  | some x0 =>
    if (s.bob c b).issuedAt = some s.cycle then (s, none)
    else
      let a := if x0.kind = .desc ∧ (descF x0.desc).kind = 3 then
          s.dispatchSkip c x0 ((descF x0.desc).cnt.getD 0 1 * (descF x0.desc).k + 1) else (s, x0)
      let x := a.2
      let m := (a.1.setXfer c b x).walkMeet c x
      let s := m.1
      match m.2 with
      | some at_ => (s.bobConsume c b at_ x.ia, none)
      | none =>
      match s.plan c x with
      | .done x' => (s.setXfer c b { x' with allSent := true }, none)
      | .fault side addr coord => (s, some ⟨x, side, addr, true, coord⟩)
      | .req src dst n coord x' =>
        let flt (side addr : Nat) (range : Bool) : State × Option IssueFault :=
          if !s.tagFree c b then (s.holdBy c b 2, none)
          else if s.regShort c b (s.regOf c b x) n then (s.holdBy c b 1, none)
          else (s, some ⟨x, side, addr, range, coord⟩)
        let ps := s.findSrc c src n
        let go (pd : Place) : State × Option IssueFault := (s.issueReq c b x x' (s.newReq c x src dst (srcPlaces ps) pd n coord), none)
        match dst, srcFault ps with
        | .win m k w g off, bad =>
          if off < 0 ∨ off ≥ 2 ^ 24 then
            let key := if (descF x.desc).kind = 3 then some (winKey m k w) else none
            ((s.placeRow c x x' coord).setXfer c b (x'.refuse x.num 4 (w2Of k w g off) key), none)
          else
            match bad with
            | some f => flt 0 f.1 f.2
            | none => go (.window (if m = s.modId then 0xFFFF else m) k w g off.toNat)
        | _, some f => flt 0 f.1 f.2
        | _, none =>
          match s.findDst c dst n with
          | .at pd =>
            match s.partMiss c pd with
            | some f => flt f.2.1 f.1 f.2.2
            | none => go pd
          | .range => flt 1 dst.name true
          | _ => flt 1 dst.name false

/-- Whether bobbin 0, in the cycle in which bobbin 1 asks for the last tag that neither reserve sets aside, takes that tag itself (R225). -/
def State.tagYields (s : State) (c : PCore) (b : Bob) : Bool :=
  let shares (i : Bob) : Bool := decide (s.rd (bobBase c i) F.BOB_CTRL_RESERVE ≤ (s.bob c i).reqs.length)
  decide (b = 1) && decide (s.tagsShared c = 1) && shares 0 && shares 1 &&
    decide ((s.bob c 0).reqs.length < ((s.issueNext c 0).1.bob c 0).reqs.length)

/-- The next request of a bobbin whose task has been aborted in this cycle, were it to issue it still: where it would have faulted, its record is
filled too (R237). -/
def State.lateIssue (s : State) (c : PCore) (b : Bob) : State :=
  match ((s.onBob c b fun r => { r with ctxs := r.gone }).issueNext c b).2 with
  | some f => ((s.lateFault c b f.x f.side f.addr f.range false f.coord).onBob c b fun r => { r with issuedAt := some s.cycle }).bobSettle c b
  | none => s

/-- BOBBIN_REQUEST_ISSUE: the bobbin issues its next request, or faults. Where the other bobbin's next request faults in this cycle
too, both records are filled, and the abort names bobbin 0's instruction; where both ask for the last tag in one cycle, bobbin 0 takes it (R223,
R225, R236, R237). -/
def execBobbinRequestIssue (c : PCore) (b : Bob) (s : State) : Host.Outcome State Fault Refusal :=
  let o : Bob := ⟨1 - b.val, by omega⟩
  let r := if s.tagYields c b then (s.holdBy c b 2, none) else s.issueNext c b
  .next (if (s.bob c b).ctxs.isEmpty ∧ (s.bob c b).gone ≠ [] ∧ (s.bob c b).goneAt = s.cycle then s.lateIssue c b
    else match r.2 with
    | none => r.1
    | some f =>
      let t := r.1.issueNext c o
      match t.2 with
      | none => r.1.bobFault c b f.x f.side f.addr f.range false f.coord
      | some g =>
        let u := (t.1.faultRecord c b f.x f.side f.addr f.range false f.coord).faultRecord c o g.x g.side g.addr g.range false g.coord
        ((u.pageFault c (if b.val = 0 then f.x.ia else g.x.ia)).bobSettle c b).bobSettle c o)

/-! ### Responses -/

/-- Whether a request waits for another module. -/
def BobReq.awaitsRemote (q : BobReq) : Bool :=
  match q.data, q.unread, q.dst with
  | none, (.remote .., _) :: _, _ => true
  | some _, _, .remote .. | some _, _, .remoteOp .. => true
  | some _, _, .window m .. => decide (m ≠ 0xFFFF)
  | _, _, _ => false

/-- The module whose response a request waits for. -/
def BobReq.remoteMod (q : BobReq) : Option Nat :=
  match q.data, q.unread, q.dst with
  | none, (.remote m _, _) :: _, _ => some m
  | some _, _, .remote m _ => some m
  | some _, _, .remoteOp m .. => some m
  | some _, _, .window m .. => if m ≠ 0xFFFF then some m else none
  | _, _, _ => none

/-- A tag is given up: a response to it that still arrives is discarded (R306, R370). -/
def State.tagStale (s : State) (c : PCore) (b : Bob) (tag : Nat) : State :=
  s.onBob c b fun r => { r with stale := if r.stale.contains tag then r.stale else r.stale ++ [tag] }

/-- Whether a request waits for the host. -/
def BobReq.awaitsHost (q : BobReq) : Bool :=
  match q.data, q.unread, q.dst with
  | none, (.host .., _) :: _, _ => true
  | some _, _, .host .. => true
  | _, _, _ => false

/-- A response reaches a bobbin (R212, R253, R306): data of a read goes on to its destination, an error or a write's completion
ends the request. `code` is 0, or the status the request ends with. -/
def State.bobResponse (s : State) (c : PCore) (b : Bob) (tag : Nat) (data : List Byte) (poison : Bool) (code : Nat) : State :=
  match (s.bob c b).reqs.find? fun q => q.tag = tag with
  | none => s
  | some q =>
    if q.done then s
    else if code ≠ 0 then s.setReq c b { q with done := true, status := code }
    else if q.data.isNone then s.bobGot c b q data poison
    else s.setReq c b { q with done := true }

/-- Whether two responses go to one unit that tells no streams apart. -/
def MemSrc.sameUnit (a b : MemSrc) : Bool :=
  match a, b with
  | .drain c d, .drain e f => c = e && d = f
  | .host .., .host .. => true
  | .link .., .link .. => true
  | _, _ => false

/-- Whether a request's read or write stands at a stack, its response not yet sent. -/
def State.atStack (s : State) (k : Stack) (c : PCore) (b : Bob) (tag : Nat) : Bool :=
  s.memReqs[k].any (fun r => r.src = .bobbin c.val b.val tag) || s.arrivals[k].waiting.any (fun r => r.src = .bobbin c.val b.val tag) || s.memResps[k].any fun r => r.dst = .bobbin c.val b.val tag

/-- The stream of the request under a bobbin's tag. -/
def State.tagStream (s : State) (c : PCore) (b : Bob) (tag : Nat) : Option Nat := ((s.bob c b).reqs.find? fun q => q.tag = tag).map (·.stream)

/-- The response that a slot of the stream of a stack's `i`-th response carries: the stream's oldest, by the arrival of its request at the stack, where
its data is there and the writes of a part's working copy have been applied; none where a marker goes instead (R212, R261). -/
def State.respDue (s : State) (k : Stack) (i : Nat) : Option Nat :=
  match s.memResps[k][i]? with
  | none => none
  | some r =>
    match r.dst with
    | .bobbin c b tag =>
      if h : c < 64 ∧ b < 2 then
        let stream (t : Nat) : Option Nat := s.tagStream ⟨c, h.1⟩ ⟨b, h.2⟩ t
        let first := s.arrivals[k].order.findSome? fun m => match m with
          | .bobbin c' b' t => if c' = c ∧ b' = b ∧ stream t = stream tag ∧ s.atStack k ⟨c, h.1⟩ ⟨b, h.2⟩ t then some t else none
          | _ => none
        match first with
        | some t =>
          if s.noRequest fun q => decide (q.src = .work c b t) then s.memResps[k].findIdx? fun q => decide (q.dst = .bobbin c b t) else none
        | none => some i
      else some i
    | d => s.memResps[k].findIdx? fun q => q.dst.sameUnit d || decide (q.dst = d)

/-- The partition whose core a response goes to. -/
def State.respPart (s : State) (d : MemSrc) : Option Nat :=
  match d with
  | .bobbin c _ _ | .drain c _ => if h : c < 64 then some (s.partOf ⟨c, h⟩) else none
  | _ => none

/-- STACK_RESPONSE_SLOT: in a slot of the stream of the `i`-th response that waits, the controller sends the stream's oldest response, or a
not-ready marker (R212); what a partition under `NET_PARTHOLD` would receive is discarded (R219). A drain's record read returns by
SCALE_RECORD_READ_RETURN. -/
def execStackResponseSlot (k : Stack) (i : Nat) (s : State) : Host.Outcome State Fault Refusal :=
  let code (st : Nat) : Nat := if st = 0 then 0 else if st = 1 then 0x80 else 0x82
  .next (match s.respDue k i with
    | none => s.count (netBase ⟨k.val / 5, by omega⟩) F.NET_NRCNT_COUNT
    | some i =>
      match s.memResps[k][i]? with
      | none => s
      | some r =>
      let pop (s : State) : State := { s with
        memResps := vupd s.memResps k fun l => l.eraseIdx i
        arrivals := vupd s.arrivals k fun a => { a with order := a.order.filter fun m => decide (m ≠ r.dst) } }
      if (s.respPart r.dst).any fun p => s.rdBit (netBase 0) F.NET_PARTHOLD_HOLD p then pop s
      else
        match r.dst with
        | .bobbin c b tag =>
          if h : c < 64 ∧ b < 2 then (pop s).bobResponse ⟨c, h.1⟩ ⟨b, h.2⟩ tag r.data r.poison (code r.status) else pop s
        | .drain c e =>
          if h : c < 64 ∧ e < 4 then
            let d := s.drn ⟨c, h.1⟩ ⟨e, h.2⟩
            let ia := match d.run, d.ended with
              | some x, _ => x.req.ia
              | none, x :: _ => x.req.ia
              | none, [] => 0
            if r.status = 1 ∧ r.data.isEmpty then (pop s).pageFault ⟨c, h.1⟩ ia
            else if r.status = 2 ∧ r.data.length = 8 then (pop s).consumeFault ⟨c, h.1⟩ 0xA k.val (leNat r.data) ia
            else s
          else pop s
        | .host tag _ _ => (pop s).emit (.memData tag r.data r.poison (decide (r.status = 0)))
        | .link m u tag job read =>
          let base : Packet := ⟨m, 0, u, job, if read then 5 else 6, 0, r.poison, 0, tag, if r.status = 0 then 0 else 0x80, []⟩
          if read && decide (r.status = 0) then (pop s).sendPacket { base with len := units r.data.length, data := r.data }
          else (pop s).sendPacket { base with typ := 6 }
        | .hostNorm => (List.range 4).foldl (fun s w =>
            s.wr mmemBase F.MSE_NORMDATA_WORD (leNat ((r.data.drop (8 * w)).take 8)) w) (pop s)
        | .work .. | .firmware => pop s)

/-! ### Completion of a request (R225, R234 to R237) -/

/-- Write the data of a request whose destination is in the core: the bytes land now (R125, R226); the status. -/
def State.landLocal (s : State) (c : PCore) (b : Bob) (p : Place) (bs : List Byte) (poison : Bool) : State × Nat :=
  match p with
  | .spad off => (s.spadWrite c off bs poison, 0)
  | .slot k off =>
    if h : k < 64 then
      ((List.range (bs.length / 8)).foldl (fun s i =>
        s.slotPut ⟨k, h⟩ (off + 8 * i) (leNat ((bs.drop (8 * i)).take 8)) false) s, 0)
    else (s, 0)
  | .accAp k off => (if h : k < 64 then s.accWrite ⟨k, h⟩ off bs else s, 0)
  | .imem k off => if h : k < 64 then s.imemWrite ⟨k, h⟩ off bs b.val else (s, 0)
  | _ => (s, 0)

/-- Whether a place is host memory. -/
def Place.isHost : Place → Bool
  | .host .. => true
  | _ => false

/-- Whether a place is written by the bobbin itself. -/
def Place.isLocal (p : Place) : Bool :=
  match p with
  | .spad _ | .slot .. | .accAp .. | .imem .. => true
  | _ => false

/-- Where a request that fails does so: the side, its address or offset there, and whether another module reports it, as it does for a read,
write, atomic or window write it was sent (R237, R306). -/
def BobReq.failSide (q : BobReq) : Nat := if q.data.isNone then 0 else 1
@[inherit_doc BobReq.failSide] def BobReq.failAddr (q : BobReq) : Nat :=
  if q.data.isNone then (q.addrs.1 + q.got.length) % 2 ^ 64 else q.addrs.2
@[inherit_doc BobReq.failSide] def BobReq.failRemote (q : BobReq) : Bool :=
  if q.data.isNone then (match q.unread with
    | (.remote .., _) :: _ => true
    | _ => false)
  else match q.dst with
    | .remote .. | .remoteOp .. => true
    | .window m .. => decide (m ≠ 0xFFFF)
    | _ => false

/-- A request is complete with a status: its tag is free, its transfer takes the result (R225, R234 to R237, R384). -/
def State.finishReq (s : State) (c : PCore) (b : Bob) (q : BobReq) (st : Nat) : State :=
  let s := s.onBob c b fun r => { r with reqs := r.reqs.filter fun x => x.tag ≠ q.tag }
  let s := s.bobTags c
  let moves : Bool := match q.dst with
    | .picot .. | .remoteOp .. => false
    | _ => true
  let got := if st = 0 ∧ moves = true then (q.data.getD []).length else 0
  let s := s.count (bobBase c b) F.BOB_BYTES_COUNT got
  let bad := decide (st = 0) && q.poison && moves
  let s := if bad then s.setOn (bobBase c b) F.BOB_ERR_POISON else s
  match (s.bob c b).ctxs.find? fun x => x.id = q.xfer with
  | none =>
    let s := s.onBob c b fun r => { r with fault := r.fault.map fun p => if p.1 = q.xfer then (p.1, p.2 + got) else p }
    -- a fault in the cycle of the abort that stopped the transfer fills the bobbin's record too, and bobbin 0's names the instruction (R237)
    let late := if st = 0x80 ∧ (s.bob c b).goneAt = s.cycle then (s.bob c b).gone.find? fun x => x.id = q.xfer else none
    let s := match late with
      | some x => s.lateFault c b x q.failSide q.failAddr false q.failRemote q.coord
      | none => s
    s.bobSettle c b
  | some x =>
    let x := { x with bytes := x.bytes + got, poisoned := x.poisoned || bad }
    if st = 0 then s.setXfer c b x
    else if st = 0x80 then s.bobFault c b x q.failSide q.failAddr false q.failRemote q.coord
    else if st = 0x82 then s.consumeFault c 0xA ((s.placeStack q.dst).map (·.val) |>.getD 0) q.addrs.2 x.ia
    else
      let key := match q.dst with
        | .window m k w _ _ => if x.kind = .desc ∧ (descF x.desc).kind = 3 then some (winKey m k w) else none
        | _ => none
      s.setXfer c b (x.refuse q.num st q.addrs.2 key)

/-- BOBBIN_REQUEST_COMPLETE: the request under `tag` completes, when its data is there or its completion has returned; a read of
host memory takes the bytes the host returns, with their poison indication. What the host sends on an insecure stream is discarded (R225,
R349, R358). -/
def execBobbinRequestComplete (c : PCore) (b : Bob) (tag : Nat) (host : List Byte) (poison : Bool) (s : State) :
    Host.Outcome State Fault Refusal :=
  .next (match (s.bob c b).reqs.find? fun q => q.tag = tag with
    | none => s
    | some q0 =>
      let fromHost := match q0.unread with
        | (.host .., _) :: _ => true
        | _ => q0.sent && q0.dst.isHost
      if q0.done then s.finishReq c b q0 q0.status
      else if fromHost && !s.cmOpen then s
      else
        let s := match q0.unread with
          | (.host a unc, n) :: _ =>
            if host.length = n then
              let s := if unc || poison then s else s.cacheFill a host
              let s := if poison then s.setOn cxlBase F.CXL_ERR_POISON_RX else s
              s.bobGot c b q0 host poison
            else s
          | _ => s
        match (s.bob c b).reqs.find? fun q => q.tag = tag with
        | none => s
        | some q =>
          if !q.sent then s
          else if q.dst.isLocal then
            let r := s.landLocal c b q.dst (q.data.getD []) q.poison
            r.1.finishReq c b q r.2
          else
            match q.dst with
            | .host .. => if q0.sent then s.finishReq c b q 0 else s
            | _ => s)

end Sys2Proof.Machine
end

