-- ==== Sys2Proof/Machine/Ports.lean ====
section
/-!
DEFINITION. Bride ports and cables: training, width and activation (R287, R288, R293, R294, R309, R433, R434), what arrives on a
port (R290 to R292), packets of other modules (R302, R303, R305, R306, R331), credit messages (R189), and cable ends (R308 to R312).
-/
namespace Sys2Proof.Machine

/-! ### Lanes and widths -/

/-- The lane groups of a width code (4 ×8, 3 ×4, 2 ×2, 1 ×1), in the order they are taken (R287). -/
def laneGroups (w : Nat) : List Nat :=
  match w with
  | 4 => [0xFF]
  | 3 => [0x0F, 0xF0]
  | 2 => [0x03, 0x0C, 0x30, 0xC0]
  | 1 => [1, 2, 4, 8, 16, 32, 64, 128]
  | _ => []

/-- The first group of a width whose lanes are all in a mask. -/
def groupIn (mask w : Nat) : Option Nat := (laneGroups w).find? fun g => g &&& mask = g

/-- The widest width from `w` down that MINWIDTH allows and that has a full group in a mask: its code and lanes (R287). -/
def State.widest (s : State) (p : Port) (mask w : Nat) : Option (Nat × Nat) :=
  let low := s.rd (brdBase p) F.BRD_CTRL_MINWIDTH + 1
  ([4, 3, 2, 1].filter fun k => k ≤ w && low ≤ k).findSome? fun k => (groupIn mask k).map fun g => (k, g)

/-- The receptacle of a port (R286). -/
def receptOf (p : Port) : Recept := ⟨p.val / 2, by omega⟩

/-- The link complex of a port (R286). -/
def complexOf (p : Port) : Nat := p.val / 3

/-- Whether the port's link complex has power (R454). -/
def State.linkPower (s : State) (p : Port) : Bool := s.rdBit pwrBase F.PWR_PDSTAT_ON (16 + complexOf p)

/-- A, the number of ports that may be active (R288). -/
def State.portLimit (s : State) : Nat :=
  let a := if s.powerClass = 2 then 12 else 24
  if s.licensed 3 then a else min a 8

/-- The ports that are up, ascending. -/
def State.portsUp (s : State) : List Port := (List.finRange 24).filter fun p => s.portUp p.val

/-- `BRD_ACTIVE`.MASK follows the ports that are up (R315). -/
def State.activeMask (s : State) : State := s.wr brdmBase F.BRD_ACTIVE_MASK ((s.portsUp.map fun p => 2 ^ p.val).sum)

/-- The lanes in service of a port; the BER of every other lane shows 0xFF (R314). -/
def State.lanesShow (s : State) (p : Port) (lanes : Nat) : State :=
  let b := brdBase p
  ((List.range 8).filter fun k => !lanes.testBit k).foldl (fun s k => s.wr b F.BRD_LANEBER_BER 0xFF k) (s.wr b F.BRD_STATUS_LANES lanes)

/-- A port's state with no width; in service the readiness report follows (R436). -/
def State.portIdle (s : State) (p : Port) (st : Nat) : State :=
  let b := brdBase p
  (((s.wr b F.BRD_STATUS_STATE st).wr b F.BRD_STATUS_WIDTH 0).lanesShow p 0).reportChange

/-! ### Training -/

/-- Begin to train a port: its ENABLE is set, its complex powered and its cable end authenticated or allowed; it starts at the
widest width of its lanes in service (R309, R433, R434). -/
def State.trainStart (s : State) (p : Port) : State :=
  let auth := s.rd (cabBase (receptOf p)) F.CAB_STATUS_AUTH
  if !s.on (brdBase p) F.BRD_CTRL_ENABLE || !s.linkPower p || !s.on (cabBase (receptOf p)) F.CAB_STATUS_PRESENT then s.portIdle p 0
  else if auth ≠ 1 ∧ auth ≠ 3 then s.portIdle p 3
  else
    match s.widest p s.ports[p].good 4 with
    | none => s.portIdle p 5
    | some (w, _) => (s.portIdle p 1).onPort p fun r => { r with trial := r.good, tryW := w }

/-- Port state that survives a port's going down: what it has received whole, the lanes in service, what the last training found and the
lanes dropped (R294). -/
def PortRec.fresh (r : PortRec) : PortRec :=
  { PortRec.reset with good := r.good, trial := r.trial, drops := r.drops, inq := r.inq.map fun q => q.map fun e => { e with frees := 0 } }

/-- A port that was up goes down: history, hold, what waits and backlogs are lost (R294), the loss is logged (R396), and notices that came on
the port go on at once (R325). -/
def State.portLost (s : State) (p : Port) : State :=
  let s := s.setOn (brdBase p) F.BRD_ERR_DOWN
  let s := s.onPort p PortRec.fresh
  let mine := s.branches.filter fun b => b.branch = p.val
  let s := mine.foldl (fun s b => s.setBranch { b with queue := [], full := none, notices := [] }) s
  let s := ((List.finRange 24).filter fun q => s.branches.any fun b => b.branch = q.val && b.notices.any fun n => n.2 = p.val).foldl
    (fun s q => s.pumpAll q) s
  (s.errLog (errRec 0 0xB p.val 0 0x10 0x0E 0x1)).activeMask.reportChange.brideEvent

/-- The lowest-numbered port held by R288 trains when an active port has gone down. -/
def State.trainHeld (s : State) : State :=
  if s.portsUp.length ≥ s.portLimit then s
  else
    match (List.finRange 24).find? fun p => s.rd (brdBase p) F.BRD_STATUS_STATE = 4 with
    | some p => s.trainStart p
    | none => s

/-- Some ports leave service together for state `st`; for each that was up a held port trains (R288, R294). -/
def State.portsDown (s : State) (ps : List Port) (st : Nat) : State :=
  let was := ps.filter fun p => s.portUp p.val
  let s := ps.foldl (fun s p => s.portIdle p st) s
  let s := was.foldl (fun s p => s.portLost p) s
  was.foldl (fun s _ => s.trainHeld) s

/-- A port leaves service for state `st` (R294). -/
def State.portDown (s : State) (p : Port) (st : Nat) : State := s.portsDown [p] st

/-- A port that has trained at a width becomes active, or is held (R288). Before bring-up ends the lowest-numbered ports that train
become active; a port that is active in service is not displaced. -/
def State.linkUp (s : State) (p : Port) (w g : Nat) : State :=
  let up (s : State) : State :=
    let b := brdBase p
    let s := ((s.wr b F.BRD_STATUS_STATE 2).wr b F.BRD_STATUS_WIDTH w).lanesShow p g
    (s.onPort p PortRec.fresh).activeMask.reportChange.brideEvent
  if s.portsUp.length < s.portLimit then up s
  else
    match s.portsUp.getLast? with
    | some q => if !s.inService && decide (p.val < q.val) then up ((s.portIdle q 4).activeMask) else s.portIdle p 4
    | none => s.portIdle p 4

/-- The measured BER codes of the lanes of a mask show in `BRD_LANEBER` (R314). -/
def State.showBer (s : State) (p : Port) (mask : Nat) (bers : List (BitVec 8)) : State :=
  ((List.range 8).filter mask.testBit).foldl (fun s k => s.wr (brdBase p) F.BRD_LANEBER_BER (bers.getD k 0xFF).toNat k) s

/-! ### What a window measures (R293, R314, R433) -/

/-- The code of a BER of `e` errors in `n` bits: round(−16 × log10 BER), 0xFF below 10^−15.9 (R314). It is the least c with
−16 × log10 (e / n) < c + 1/2, that is n^32 < e^32 × 10^(2c + 1). -/
def berCode (e n : Nat) : Nat := ((List.range 255).find? fun c => decide (n ^ 32 < e ^ 32 * 10 ^ (2 * c + 1))).getD 0xFF

/-- Whether a BER is above 2.4 × 10^−4 (R293, R433). -/
def berOver (e n : Nat) : Bool := decide (24 * n < e * 10 ^ 5)

/-- Whether Q ≤ 10^−15, where Q = F × 2^−32 ÷ 2,048 and F is the share of the flits that failed, of which one at least is taken (R433). -/
def qPass (fails flits : Nat) : Bool := decide (max fails 1 * 10 ^ 15 ≤ flits * 2 ^ 43)

/-- The lanes, as a mask, whose BER passes at both ends (R433). -/
def lanesPassed (m : LaneTest) : Nat :=
  ((List.range 8).foldl (fun x k => if m.bits = 0 ∨ berOver (m.errors.getD k m.bits) m.bits = true then x else x + 2 ^ k) 0) &&& m.peer.toNat

/-- The BER codes of the lanes. -/
def berCodes (errors : List Nat) (bits : Nat) : List (BitVec 8) := errors.map fun e => BitVec.ofNat 8 (berCode e bits)

/-- TRAINING_WINDOW_END: a window of 100 ms ends with what this end measured; `peerQ` says whether Q passed at the other end (R433, R434). -/
def execTrainingWindowEnd (p : Port) (m : LaneTest) (peerQ : Bool) (s : State) : Host.Outcome State Fault Refusal :=
  .next (
    if s.rd (brdBase p) F.BRD_STATUS_STATE ≠ 1 then s
    else
      let r := s.ports[p]
      match s.widest p r.trial r.tryW with
      | none => s.portIdle p 5
      | some (w, g) =>
        let s := s.showBer p g (berCodes m.errors m.bits)
        if g &&& lanesPassed m = g ∧ qPass m.fails m.flits = true ∧ peerQ = true then s.linkUp p w g
        else
          let trial := r.trial ^^^ (g &&& (0xFF ^^^ lanesPassed m))
          match s.widest p trial (w - 1) with
          | some (v, _) => s.onPort p fun r => { r with trial := trial, tryW := v }
          | none => s.portIdle p 5)

/-- A retrain in service at the widest width of the lanes that are in service and passed the training: nothing is lost; every unacknowledged flit is re-sent in SEQ
order (R293, R388). -/
def State.retrain (s : State) (p : Port) : State :=
  let b := brdBase p
  match s.widest p (s.ports[p].good &&& s.ports[p].trial) 4 with
  | none => s.portDown p 5
  | some (w, g) =>
    let s := if w < s.rd b F.BRD_STATUS_WIDTH then s.setOn b F.BRD_ERR_WIDTH_DROP else s
    let s := (s.wr b F.BRD_STATUS_WIDTH w).lanesShow p g
    let s := ((s.sat b F.BRD_RETRY_RETRAINS).setOn b F.BRD_ERR_RETRAIN).sat errBase F.ERR_HOURCUR_RETRAIN
    let fs := s.ports[p].history
    let s := fs.foldl (fun s f => s.sendWire p { f with replay := true }) s
    ((s.sat b F.BRD_RETRY_REPLAYED fs.length).pumpAll p).reportChange.brideEvent

/-- Drop a lane of a port: it is quarantined, or retired when it is dropped a third time within 24 hours (R293, R386, R388). -/
def State.laneDrop (s : State) (p : Port) (lane cause : Nat) : State :=
  let day := 24 * 3600 * 1000000
  let past := s.ports[p].drops.filter fun d => s.us < d.2 + day
  let third := decide ((past.filter fun d => d.1 = lane).length ≥ 2)
  let s := s.onPort p fun r => { r with good := putBit r.good lane false, drops := past ++ [(lane, s.us)] }
  let s := s.errLog (errRec 0 0xB p.val lane 0x10 cause (if third then 0x6 else 0x2))
  if third then s.sat errBase F.ERR_HOURCUR_LANE_RET else s.quarantine 0 0xB p.val lane cause

/-- LANE_BER_WINDOW: a window of 100 ms ends with the bit errors of the lanes among the bits counted on each. A lane above 2.4 × 10^−4
is dropped; CRC failures above the threshold drop the lane with the lowest code (log entry 35); the port retrains (R293, R314). -/
def execLaneBerWindow (p : Port) (errors : List Nat) (bits : Nat) (s : State) : Host.Outcome State Fault Refusal :=
  .next (
    if !s.portUp p.val then s
    else
      let b := brdBase p
      let lanes := s.rd b F.BRD_STATUS_LANES
      let code (k : Nat) : Nat := if lanes.testBit k then berCode (errors.getD k bits) bits else 0xFF
      let s := s.showBer p 0xFF ((List.range 8).map fun k => BitVec.ofNat 8 (code k))
      let bad := (List.range 8).filter fun k => lanes.testBit k && berOver (errors.getD k bits) bits
      let crc := decide (s.ports[p].crcSec > s.rd b F.BRD_THRESH_CRC)
      let worst := (List.range 8).foldl (fun m k => if lanes.testBit k && (!lanes.testBit m || decide (code k < code m)) then k else m) 0
      let s := if crc then s.onPort p fun r => { r with crcSec := 0, crcFrom := s.us } else s
      if bad.isEmpty then (if crc then (s.laneDrop p worst 0x0D).retrain p else s)
      else (bad.foldl (fun s k => s.laneDrop p k 0x0C) s).retrain p)

/-! ### Cable ends (R308 to R312) -/

/-- Rated matings and hours of an end by type (R312). -/
def ratedOf (kind : Nat) : Nat × Nat := if kind = 2 then (200, 60000) else if kind = 1 then (500, 0) else (0, 0)

/-- LIFE of an end: 0 within rating, 1 at 90 %, 2 at the end (R312). -/
def lifeOf (e : CableEnd) : Nat :=
  let r := ratedOf e.kind
  let full (v m : Nat) : Bool := decide (m ≠ 0) && decide (v ≥ m)
  let warn (v m : Nat) : Bool := decide (m ≠ 0) && decide (v * 10 ≥ m * 9)
  if full e.matings r.1 || full e.hours r.2 then 2 else if warn e.matings r.1 || warn e.hours r.2 then 1 else 0

/-- The CAB registers follow what is known of an end; a change of LIFE to a warning or an end is an event (R312, R316). -/
def State.cableView (s : State) (n : Recept) (e : CableEnd) : State :=
  let b := cabBase n
  let old := s.rd b F.CAB_STATUS_LIFE
  let life := lifeOf e
  let s := (s.wr b F.CAB_STATUS_TYPE (if e.kind = 1 ∨ e.kind = 2 then e.kind else 3)).wr b F.CAB_SERIAL_SERIAL e.serial
  let s := (s.wr b F.CAB_MATINGS_COUNT e.matings).wr b F.CAB_MATINGS_RATED (ratedOf e.kind).1
  let s := (s.wr b F.CAB_HOURS_COUNT e.hours).wr b F.CAB_HOURS_RATED (ratedOf e.kind).2
  let s := s.wr b F.CAB_STATUS_LIFE life
  if life > old then (s.errLog (errRec 0 0xC n.val 0 0x10 (if life = 1 then 0x15 else 0x16) 0x1)).brideEvent else s

/-- The two ports of a receptacle. -/
def portsOf (n : Recept) : List Port := [⟨2 * n.val, by omega⟩, ⟨2 * n.val + 1, by omega⟩]

/-- Authenticate the end of a receptacle: passed, allowed by the licensed policy, or failed, which holds its ports down (R309, R397). -/
def State.cableAuth (s : State) (n : Recept) : State :=
  let b := cabBase n
  match s.cables[n] with
  | none => s.wr b F.CAB_STATUS_AUTH 0
  | some e =>
    if e.genuine then s.wr b F.CAB_STATUS_AUTH 1
    else
      let allowed := s.on cabmBase F.CAB_POLICY_ALLOW_UNAUTH && s.licensed 5
      let s := s.setOn b F.CAB_ERR_AUTH_FAIL
      let s := (s.errLog (errRec 0 0xC n.val 0 0x10 0x17 (if allowed then 0x1 else 0xC))).brideEvent
      let s := (portsOf n).foldl (fun s p => s.setOn (brdBase p) F.BRD_ERR_AUTH) s
      if allowed then s.wr b F.CAB_STATUS_AUTH 3
      else (s.wr b F.CAB_STATUS_AUTH 2).portsDown (portsOf n) 3

/-- Write a counter of an end: refused by some ends, which is recorded (R311). -/
def State.cableWrite (s : State) (n : Recept) (f : CableEnd → CableEnd) : State :=
  match s.cables[n] with
  | none => s
  | some e =>
    if e.refuses then s.setOn (cabBase n) F.CAB_ERR_SE_WRITE
    else ({ s with cables := s.cables.set n.val (some (f e)) n.isLt }).cableView n (f e)

/-- Whether the receptacle's VCC3 switch may be on: the rails are up, an end is present and one of its complexes has power (R454, R468). -/
def State.vcc3 (s : State) (n : Recept) : Bool :=
  s.pins.pwrgd && s.cables[n].isSome && (portsOf n).any fun p => s.linkPower p

/-- Change what a receptacle holds. -/
def State.onRecep (s : State) (n : Recept) (f : RecepRec → RecepRec) : State := { s with receps := vupd s.receps n f }

/-- An end that is present and has its supply is read and authenticated; where it passes, a detected insertion is counted, and at power-on
(`cold`) an end last used elsewhere is counted and takes this module's identity and receptacle (R309, R310). -/
def State.cableRead (s : State) (n : Recept) (cold : Bool) : State :=
  match s.cables[n] with
  | none => s
  | some e =>
    let s := (s.wr (cabBase n) F.CAB_STATUS_PRESENT 1).cableView n e
    let s := s.cableAuth n
    let newly := s.receps[n].newly
    let s := s.onRecep n fun r => { r with newly := false }
    if s.rd (cabBase n) F.CAB_STATUS_AUTH ≠ 1 then s
    else if cold && decide (e.host ≠ (s.boot.serial, n.val)) then
      s.cableWrite n fun e => { e with matings := e.matings + 1, host := (s.boot.serial, n.val) }
    else if newly then s.cableWrite n fun e => { e with matings := e.matings + 1 }
    else s

/-- With its supply on, the end of a receptacle is authenticated, its mating counted, and its ports train (R309, R310, R468). -/
def State.cableBegin (s : State) (n : Recept) : State :=
  if !s.vcc3 n then s else ((portsOf n).foldl (fun s p => s.trainStart p) (s.cableRead n false)).reportChange

/-- CABLE_INSERTION: an end is plugged in; with the rails up that is detected. In service the end is authenticated and its ports train; during
bring-up step 5 does so, and after it has begun step 6 (R310, R446). -/
def execCableInsertion (n : Recept) (e : CableEnd) (s : State) : Host.Outcome State Fault Refusal :=
  .next (
    if s.cables[n].isSome then s
    else
      let s := { s with cables := s.cables.set n.val (some e) n.isLt }
      if !s.pins.pwrgd then s
      else
        let s := ((s.wr (cabBase n) F.CAB_STATUS_PRESENT 1).onRecep n fun r => { r with newly := true }).brideEvent
        if s.inService then s.cableBegin n else s)

/-- CABLE_REMOVAL: the end is taken out; both ports go down and the accumulator is lost (R294, R311, R468). -/
def execCableRemoval (n : Recept) (s : State) : Host.Outcome State Fault Refusal :=
  .next (
    if s.cables[n].isNone then s
    else
      let b := cabBase n
      let s := { s with cables := s.cables.set n.val none n.isLt }
      let s := (s.onRecep n fun _ => ⟨0, false⟩).portsDown (portsOf n) 0
      let s := [F.CAB_STATUS_PRESENT, F.CAB_STATUS_AUTH, F.CAB_STATUS_TYPE, F.CAB_STATUS_LIFE, F.CAB_SERIAL_SERIAL, F.CAB_MATINGS_COUNT,
        F.CAB_MATINGS_RATED, F.CAB_HOURS_COUNT, F.CAB_HOURS_RATED, F.CAB_UPSEC_SECONDS].foldl (fun s f => s.wr b f 0) s
      s.reportChange.brideEvent)

/-- CABLE_HOUR: the up-time accumulator has reached 3,600 s; the end's hour counter rises (R311). -/
def execCableHour (n : Recept) (s : State) : Host.Outcome State Fault Refusal :=
  .next (
    if s.receps[n].due = 0 ∨ s.rd (cabBase n) F.CAB_STATUS_AUTH ≠ 1 then s
    else ((s.onRecep n fun r => { r with due := r.due - 1 }).cableWrite n fun e => { e with hours := e.hours + 1 }).reportChange)

/-- A second of up-time of every receptacle that has a port up and an authenticated end; at 3,600 the accumulator loses them and an hour is due
(R311). -/
def State.cableSecond (s : State) : State :=
  (List.finRange 12).foldl (fun s n =>
    if s.rd (cabBase n) F.CAB_STATUS_AUTH = 1 ∧ (portsOf n).any (fun p => s.portUp p.val) = true then
      let sec := s.rd (cabBase n) F.CAB_UPSEC_SECONDS + 1
      if sec < 3600 then s.wr (cabBase n) F.CAB_UPSEC_SECONDS sec
      else (s.wr (cabBase n) F.CAB_UPSEC_SECONDS (sec - 3600)).onRecep n fun r => { r with due := r.due + 1 }
    else s) s

/-- Time passes, in periods of the root clock, with the seconds of up-time in it (R311, R457). -/
def State.passTime (s : State) (n : Nat) : State :=
  let us := s.us
  let s := { s with ticks := s.ticks + n }
  if s.us / 1000000 ≠ us / 1000000 then s.cableSecond else s

/-! ### Host writes of a port -/

/-- A write of RETRAIN: the end is authenticated again where its receptacle has power, then the port retrains or trains (R309, R468). -/
def State.portRetrain (s : State) (p : Port) : State :=
  let s := if s.vcc3 (receptOf p) then s.cableAuth (receptOf p) else s
  let auth := s.rd (cabBase (receptOf p)) F.CAB_STATUS_AUTH
  if auth = 2 then s.reportChange
  else if s.portUp p.val then s.retrain p
  else (s.trainStart p).reportChange

/-- A write of `BRD_CTRL` (R294, R309, R314). -/
def State.brdCtrl (s : State) (p : Port) (v : Nat) : State :=
  let was := s.on (brdBase p) F.BRD_CTRL_ENABLE
  let s := s.writeReg (brdBase p) R.BRD_CTRL 0 v
  let s := if was && !v.testBit 0 then s.portDown p 0 else if !was && v.testBit 0 then s.trainStart p else s
  if v.testBit 1 then s.portRetrain p else s

/-- PORT_ENABLE_WRITE: the host sets or clears a port's ENABLE (R294). -/
def execPortEnableWrite (f : Func) (p : Port) (en : Bool) (s : State) : Host.Outcome State Fault Refusal :=
  .next (s.asPF0 f (brdBase p) fun s =>
    s.brdCtrl p ((s.readReg (brdBase p) R.BRD_CTRL 0) / 4 * 4 + if en then 1 else 0))

/-- HOST_RETRAIN: the host writes RETRAIN of a port (R309). -/
def execHostRetrain (f : Func) (p : Port) (s : State) : Host.Outcome State Fault Refusal :=
  .next (s.asPF0 f (brdBase p) fun s => s.portRetrain p)

/-- A write of `BRD_MODID` (R305). -/
def State.brdModid (s : State) (v : Nat) : State := s.writeReg brdmBase R.BRD_MODID 0 v

/-- BRD_MODID_LOCK: the host writes the module's ID and sets its LOCK (R305). -/
def execBrdModidLock (f : Func) (id : BitVec 16) (s : State) : Host.Outcome State Fault Refusal :=
  .next (s.asPF0 f brdmBase fun s => s.brdModid (id.toNat + 2 ^ 63))

/-! ### What arrives on a port -/

/-- Symbols the FEC corrects in a codeword with `n` symbols in error: one, where only one is (R290). -/
def fecFixed (n : Nat) : Nat := if n = 1 then 1 else 0

/-- BRIDE_FLIT_RECEIVE: a flit arrives with `errors` symbols of its even and of its odd codeword in error. FEC restores it where neither has more
than one; of another `crcOk` says what its CRC shows. It is discarded, held or delivered, and a link-management flit returns credits and may
name a NAK run (R290 to R292). -/
def execBrideFlitReceive (p : Port) (f : BFlit) (errors : Fin 129 × Fin 129) (crcOk : Bool) (s : State) : Host.Outcome State Fault Refusal :=
  .next (
    if !s.portUp p.val then s
    else
      let b := brdBase p
      let s := s.sat b F.BRD_FEC_CORR (fecFixed errors.1.val + fecFixed errors.2.val)
      if !(crcOk || decide (errors.1.val ≤ 1 ∧ errors.2.val ≤ 1)) || decide (f.kind = 3) then
        let s := s.sat b F.BRD_FEC_CRCFAIL
        s.onPort p fun r => if s.us ≥ r.crcFrom + 1000000 then { r with crcSec := 1, crcFrom := s.us } else { r with crcSec := r.crcSec + 1 }
      else
        let s := s.ackTo p f.ack
        match f.kind with
        | 1 => (s.payload p f).pumpAll p
        | 2 =>
          let at_ (i n : Nat) : Nat := leNat ((f.payload.drop i).take n)
          let s := (s.wr b F.BRD_STATUS_PEER (at_ 12 2)).wr b F.BRD_STATUS_PEERPORT (at_ 14 1)
          let s := (List.finRange 4).foldl (fun s c => s.onPort p fun r => { r with credits := vupd r.credits c fun n => n + at_ (4 + 2 * c.val) 2 }) s
          if at_ 2 1 = 0 then s.pumpAll p else s.nakArrive p (at_ 0 2) (at_ 2 1)
        | _ => s.pumpAll p)

/-- NAK_RECEIVE: a NAK run starts the retransmission of the flits it names (R292, R297). -/
def execNakReceive (p : Port) (first : BitVec 16) (count : Fin 17) (s : State) : Host.Outcome State Fault Refusal :=
  .next (if !s.portUp p.val || decide (count.val = 0) then s else s.nakArrive p first.toNat count.val)

/-- NAK_RESEND_TIMER: 64 flit times have passed since the `i`-th run named on a port; what of it is still missing is named again (R292). -/
def execNakResendTimer (p : Port) (i : Nat) (s : State) : Host.Outcome State Fault Refusal :=
  .next (match s.ports[p].naks[i]? with
    | some k =>
      let r := s.ports[p]
      let runs := (nakRuns r k.1 k.2 []).reverse
      if !s.portUp p.val then s
      else
        let s := s.onPort p fun r => { r with naks := r.naks.eraseIdx i ++ runs }
        runs.foldl (fun s k => (s.sat (brdBase p) F.BRD_RETRY_NAKS).linkMgmt p k.1 k.2) s
    | none => s)

/-- LINK_MGMT_FLIT_TIMER: 64 flit times have passed; a link-management flit returns the credits that wait (R297). -/
def execLinkMgmtFlitTimer (p : Port) (s : State) : Host.Outcome State Fault Refusal :=
  .next (if s.portUp p.val then s.linkMgmt p 0 0 else s)

/-! ### Packets -/

/-- PACKET_FORWARD: the front packet of a class is for another module; it is forwarded with one hop less, or dropped at the hop limit
or without a route (R302, R303). -/
def execPacketForward (p : Port) (c : Fin 4) (s : State) : Host.Outcome State Fault Refusal :=
  .next (match s.inFront p c with
    | none => s
    | some k =>
      if k.typ = 4 ∨ k.typ = 0xC ∨ k.dst = s.modId then s
      else
        let s := s.takeFront p c
        if k.hops = 0 then s.sat brdmBase F.BRD_DROP_HOPS else s.routePacket { k with hops := k.hops - 1 })

/-- Answer a request: a completion with a status, or a read's data (R296, R306). -/
def State.complete (s : State) (k : Packet) (status : Nat) : State :=
  s.sendPacket ⟨k.src, 0, k.sunit, k.job, 6, 0, false, 0, k.tag, status, []⟩

/-- A request that arrives for a partition of this module: refused where its job matches none, or where the partition is in reset
(R306, R313). -/
def State.forPart (s : State) (k : Packet) (run : State → Part → State) : State :=
  match s.jobPart k.job with
  | none => (s.sat brdmBase F.BRD_DROP_NOJOB).complete k 0x0A
  | some q => if s.partInReset q.val then s.complete k 7 else run s q

/-- Where a request's address leads: HBM of this module that a stack holds; a miss where it is not translated or leads to HBM that is not mapped;
something else (R226, R255, R306). -/
def State.linkPlace (s : State) (q : Part) (a : Nat) : Found :=
  match s.translate q.val a with
  | some (false, pa) => if s.mapped pa then .at (.hbm pa) else if pa < pageCount * pageSize then .miss else .refused
  | some (true, _) => .refused
  | none => .miss

/-- The bytes a read of LEN chunks asks for: not past the 4 KiB its address lies in, at which its sender cut it (log entry 31). -/
def readLen (k : Packet) : Nat := min (k.len * 16) (4096 - k.addr % 4096)

/-- WRITE_PACKET: an arriving write is matched, translated and sent to its picot (R306). -/
def execWritePacket (p : Port) (s : State) : Host.Outcome State Fault Refusal :=
  .next (s.onPacket p 3 0 fun s k => s.forPart k fun s q =>
    match s.linkPlace q k.addr with
    | .at (.hbm pa) => s.memSend ⟨.link k.src k.sunit k.tag k.job false, q.val, .write (k.data.take (k.len * 16)) k.poison, pa⟩
    | _ => s.complete k 0x80)

/-- READ_REQUEST_PACKET: an arriving read is served from HBM only (R226, R306). -/
def execReadRequestPacket (p : Port) (s : State) : Host.Outcome State Fault Refusal :=
  .next (s.onPacket p 3 1 fun s k => s.forPart k fun s q =>
    match s.linkPlace q k.addr with
    | .at (.hbm pa) => s.memSend ⟨.link k.src k.sunit k.tag k.job true, q.val, .read (readLen k), pa⟩
    | .miss => s.complete k 0x80
    | _ => s.complete k 0x0A)

/-- ATOMIC_PACKET: an arriving atomic, or a part of a region operation, is translated and sent to the picot (R306, R331): the first
chunk holds OP and FMT, and a lone chunk also the value (log entry 36). -/
def execAtomicPacket (p : Port) (s : State) : Host.Outcome State Fault Refusal :=
  .next (s.onPacket p 3 2 fun s k => s.forPart k fun s q =>
    let h := leNat (k.data.take 16)
    let op := bits h 0 4
    let fmt := bits h 4 4
    let w := atomicWidth op fmt
    let body := (k.data.drop 16).take (k.len * 16 - 16)
    let vals := if k.len ≤ 1 then [bits h 64 (8 * w)]
      else (List.range (body.length / max w 1)).map fun i => leNat ((body.drop (i * w)).take w)
    match s.linkPlace q k.addr with
    | .at (.hbm pa) => s.memSend ⟨.link k.src k.sunit k.tag k.job false, q.val, .atomic op fmt vals k.poison, pa⟩
    | _ => s.complete k 0x80)

/-- WINDOW_WRITE_PACKET: an arriving window write is checked and answered with its verdict; `seq` is the number its transfer has among
those of its source (R186, R187, R306; log entry 37). -/
def execWindowWritePacket (p : Port) (seq : Nat) (s : State) : Host.Outcome State Fault Refusal :=
  .next (s.onPacket p 3 3 fun s k =>
    match s.jobPart k.job, s.physOf (bits k.addr 0 6) with
    | some q, some c =>
      if s.partOf c ≠ q.val then (s.sat brdmBase F.BRD_DROP_NOJOB).complete k 0x0A
      else
        let r := s.windowArrive c (bits k.addr 6 4) (bits k.addr 10 16) (bits k.addr 26 18 * 64) k.src (k.sunit % 64) (seq * 4 + 3)
          (k.data.take (k.len * 16)) k.poison
        r.1.complete k r.2
    | _, _ => (s.sat brdmBase F.BRD_DROP_NOJOB).complete k 0x0A)

/-- The bobbin whose request a response answers: it waits for that module under that tag, and JOB is its partition's (R225, R295, R306). -/
def State.tagOwner (s : State) (k : Packet) : Option (PCore × Bob) :=
  if h : k.sunit < 64 then
    let c : PCore := ⟨k.sunit, h⟩
    ((List.finRange 2).find? fun b => (s.bob c b).reqs.any fun q =>
      q.tag = k.tag && !q.done && decide (q.remoteMod = some k.src) && decide (s.jobOf (s.partOf c) = k.job)).map fun b => (c, b)
  else none

/-- A response that nothing waits for is discarded; no other comes for its tag (R306). -/
def State.responseGone (s : State) (k : Packet) : State :=
  if h : k.sunit < 64 then
    (List.finRange 2).foldl (fun s b => s.onBob ⟨k.sunit, h⟩ b fun r => { r with stale := r.stale.erase k.tag }) s
  else s

/-- READ_RESPONSE_PACKET: a read's data arrives for its source unit's tag; one that nothing waits for is discarded (R306). -/
def execReadResponsePacket (p : Port) (s : State) : Host.Outcome State Fault Refusal :=
  .next (s.onPacket p 1 5 fun s k =>
    match s.tagOwner k with
    | some (c, b) => s.bobResponse c b k.tag (k.data.take (k.len * 16)) k.poison 0
    | none => s.responseGone k)

/-- COMPLETION_PACKET: a completion with its STATUS arrives for its source unit's tag; one that nothing waits for is discarded (R306). -/
def execCompletionPacket (p : Port) (s : State) : Host.Outcome State Fault Refusal :=
  .next (s.onPacket p 1 6 fun s k =>
    match s.tagOwner k with
    | some (c, b) =>
      let reading := (s.bob c b).reqs.any fun q => q.tag = k.tag && q.data.isNone
      if k.addr % 256 = 0 ∧ reading = true then s else s.bobResponse c b k.tag [] false (k.addr % 256)
    | none => s.responseGone k)

/-- CREDIT_REQUEST_PACKET: a credit request of another module reaches a window of logical core `core`; the packet's layout is not in
the spec, so its fields are operands (R189; log entry 38). -/
def execCreditRequestPacket (p : Port) (core : Fin 64) (w : Fin 16) (bytes : Nat) (flag : Fin 64) (inc : BitVec 16) (s : State) :
    Host.Outcome State Fault Refusal :=
  .next (s.onPacket p 0 9 fun s k =>
    match s.jobPart k.job, s.physOf core.val with
    | some q, some c =>
      if s.partOf c ≠ q.val then s.sat brdmBase F.BRD_DROP_NOJOB
      else s.creditArrive c ⟨w.val, bytes, k.src, k.sunit % 64, flag.val, inc.toNat⟩
    | _, _ => s.sat brdmBase F.BRD_DROP_NOJOB)

/-- CREDIT_GRANT_PACKET: a credit grant of another module adds N to the requester's flag (R189; log entry 38). -/
def execCreditGrantPacket (p : Port) (flag : Fin 64) (inc : BitVec 16) (s : State) : Host.Outcome State Fault Refusal :=
  .next (s.onPacket p 0 0xA fun s k =>
    match s.jobPart k.job with
    | some q =>
      if h : k.sunit < 64 then
        if s.partOf ⟨k.sunit, h⟩ = q.val then s.flagAddExt ⟨k.sunit, h⟩ flag.val inc.toNat else s.sat brdmBase F.BRD_DROP_NOJOB
      else s
    | none => s.sat brdmBase F.BRD_DROP_NOJOB)

end Sys2Proof.Machine
end

