-- ==== Sys2Proof/Machine/Multicast.lean ====
section
/-!
DEFINITION. Multicast groups, backlogs, expulsion and DETACHED notices (R317 to R326), and barrier contexts (R327 to R330, R335).
-/
namespace Sys2Proof.Machine

/-! ### Branches (R319, R322) -/

/-- A group's route entry: REPL, LOCAL and VALID (R304). -/
def State.mcEntry (s : State) (g : Nat) : Nat := SMap.get 0 s.routes (65536 + g)

/-- The record of a branch, empty where it holds nothing. -/
def State.branchOf (s : State) (g b : Nat) : Branch :=
  (s.branches.find? fun x => x.group = g && x.branch = b).getD ⟨g, b, [], none, []⟩

/-- Whether a branch of a group is expelled (R324). -/
def State.expelled (s : State) (g b : Nat) : Bool := s.rdBit mcastBase F.BRD_MCSTAT_EXPELLED b g

/-- The port branches of a group for what arrived on port `frm` (24 none): those of its entry but the arrival port (R319, R325). -/
def State.mcRepl (s : State) (g frm : Nat) : List Port :=
  (List.finRange 24).filter fun p => (s.mcEntry g).testBit p.val && decide (p.val ≠ frm)

/-- The branches that take a packet: ports but the arrival port, then the local one (24), those not expelled (R319, R324); at the hop limit no port
(R303). -/
def State.mcBranches (s : State) (g : Nat) (k : Packet) (frm : Nat) : List Nat :=
  ((if k.hops = 0 ∧ frm < 24 then [] else (s.mcRepl g frm).map Fin.val) ++ if (s.mcEntry g).testBit 24 then [24] else []).filter
    fun b => !s.expelled g b

/-- Whether a branch with an empty backlog can send at once: a port with an empty bulk queue and credit; the local branch while the routers run, whose
slots carry its lines (R215, R322, R335; log entry 47). -/
def State.mcNow (s : State) (g b : Nat) : Bool :=
  (s.branchOf g b).queue.isEmpty &&
    if h : b < 24 then s.ports[(⟨b, h⟩ : Port)].txq[(3 : Fin 4)].isEmpty && decide (s.ports[(⟨b, h⟩ : Port)].credits[(3 : Fin 4)] > 0) else !s.frozen

/-- Whether a branch's backlog has room for a packet: 64 KiB in all (R322). -/
def State.mcRoom (s : State) (g b : Nat) (k : Packet) : Bool :=
  decide (((s.branchOf g b).queue.map fun q => q.chunks.length).sum + k.chunks.length ≤ 65536)

/-- Whether a branch exists now: its port is up, or it is the local one (R319). -/
def State.mcUp (s : State) (b : Nat) : Bool := decide (24 ≤ b) || s.portUp b

/-- Whether a branch can take a packet, a free buffer apart: it sends now, or its backlog has room, or its port is not up (R319, R322). -/
def State.mcTakes (s : State) (g : Nat) (k : Packet) (b : Nat) : Bool := !s.mcUp b || s.mcNow g b || s.mcRoom g b k

/-- Whether a branch must take a buffer for a packet: the copy waits and its backlog is empty (R322). -/
def State.mcNeedsBuf (s : State) (g b : Nat) : Bool := s.mcUp b && !s.mcNow g b && (s.branchOf g b).queue.isEmpty

/-- Whether every branch can receive a copy: each has room, and there are free buffers for those that need one (R322, R323). -/
def State.mcAll (s : State) (g : Nat) (k : Packet) (bs : List Nat) : Bool :=
  bs.all (s.mcTakes g k) && decide (s.rd mcastBase F.BRD_MCBUF_INUSE + (bs.filter (s.mcNeedsBuf g)).length ≤ 64)

/-- A branch without room holds the packet at its input: it is full from now (R323, R324). -/
def State.mcFull (s : State) (g : Nat) (k : Packet) (b : Nat) : State :=
  let r := s.branchOf g b
  if s.mcUp b && !s.mcNow g b && !s.mcRoom g b k && r.full.isNone && !r.queue.isEmpty then s.setBranch { r with full := some s.us } else s

/-! ### The replication point -/

/-- A copy for one branch: skipped, sent or delivered, or appended to the backlog (R319, R322); one for a port has a hop less than what arrived. -/
def State.mcCopy (s : State) (g : Nat) (k : Packet) (frm b : Nat) : State :=
  let k' := if frm < 24 ∧ b < 24 then { k with hops := k.hops - 1 } else k
  if !s.mcUp b then s.sat mcastBase F.BRD_MCCNT_SKIPPED 1 g
  else if s.mcNow g b then (if h : b < 24 then s.sendOn ⟨b, h⟩ k' else s.mcDeliver g k)
  else
    let r := s.branchOf g b
    s.setBranch { r with queue := r.queue ++ [k'] }

/-- The replication point takes a packet: a copy for every branch, and the SEQ it has reached (R319 to R322). At the hop limit
no port takes a copy (R303). -/
def State.mcTake (s : State) (g : Nat) (k : Packet) (frm : Nat) : State :=
  let s := { s with mcSeen := SMap.set 0 s.mcSeen g ((k.addr + 1) % 2 ^ 24) }
  let ports := (s.mcRepl g frm).filter fun p => !s.expelled g p.val
  let s := if k.hops = 0 ∧ frm < 24 ∧ ports ≠ [] then s.sat brdmBase F.BRD_DROP_HOPS else s
  let s := (s.mcBranches g k frm).foldl (fun s b => s.mcCopy g k frm b) s
  ports.foldl (fun s p => s.pumpAll p) s

/-- MULTICAST_PACKET: the front bulk packet of a port is replicated when every branch can take it; otherwise it stays (R319, R322,
R323). -/
def execMulticastPacket (p : Port) (s : State) : Host.Outcome State Fault Refusal :=
  .next (match s.inFront p 3 with
    | none => s
    | some k =>
      if k.typ ≠ 4 then s
      else
        let g := k.dst % 256
        if !(s.mcEntry g).testBit 25 then (s.takeFront p 3).sat brdmBase F.BRD_DROP_NOROUTE
        else
          let bs := s.mcBranches g k p.val
          if s.mcAll g k bs then (s.takeFront p 3).mcTake g k p.val
          else bs.foldl (fun s b => s.mcFull g k b) s)

/-! ### The source (R318) -/

/-- The flits that wait at a complex for one of its multicast source entries, oldest first: up to five, the first of which may be half taken, of one
stream and one poison mark. -/
def State.txFlits (s : State) (x : Complex) : Option (Nat × List DstFlit) :=
  let entry (stream : Nat) : Option Nat := (s.txEntries stream).find? fun i => decide (i / 64 = x.val)
  let here := s.net.dst.filter fun d => decide ((d.die, d.router) = complexPlace x.val) && decide (d.lane ≥ 10) && (entry d.stream).isSome
  match here with
  | [] => none
  | d :: _ =>
    (entry d.stream).map fun i => (i, ((here.filter fun e => e.stream = d.stream).takeWhile fun e => e.flit.poison = d.flit.poison).take 5)

/-- Take `n` bytes of lines from flits that stand at a complex, in order: a flit whose lines are all taken is gone, one taken in part keeps the rest. -/
def takeLines (n : Nat) (l : List DstFlit) : List DstFlit → List DstFlit
  | [] => l
  | d :: ds =>
    if n = 0 then l
    else if d.flit.data.length ≤ n then takeLines (n - d.flit.data.length) (l.erase d) ds
    else l.replace d { d with flit := { d.flit with data := d.flit.data.drop n } }

/-- MULTICAST_PACKET_FORM: a complex packs lines of a source stream into the group's next packet, up to 512 B, when every branch can take it
(R318, R322). A packet ends where the window offset wraps. -/
def execMulticastPacketForm (x : Complex) (s : State) : Host.Outcome State Fault Refusal :=
  .next (match s.txFlits x with
    | none => s
    | some (i, fs) =>
      let g := s.rd mcastBase F.BRD_TXMAP_GROUP i
      let lines := s.rd mcastBase F.BRD_TXMAP_LINES i
      let wrap := if lines = 0 then 2 ^ 18 else lines
      let n := SMap.get 0 s.mcLines i
      let data := (fs.flatMap fun d => d.flit.data).take (64 * min 8 (wrap - n % wrap))
      let poison := fs.any fun d => d.flit.poison
      let job := s.jobOf ((fs.head?.map fun d => d.part).getD 0)
      let k : Packet := ⟨g, s.modId, 85, job, 4, s.rd brdmBase F.BRD_ROUTECFG_HOPLIMIT, poison, data.length / 16, 0,
        s.rd mcastBase F.BRD_MCCNT_NEXT_SEQ g + (s.rd mcastBase F.BRD_TXMAP_BASE i + n % wrap) % 2 ^ 18 * 2 ^ 24, data⟩
      let bs := s.mcBranches g k 24
      if !s.on brdmBase F.BRD_MODID_LOCK then s
      else if !s.mcAll g k bs then bs.foldl (fun s b => s.mcFull g k b) s
      else
        let s := s.onNet fun m => { m with dst := takeLines data.length m.dst fs }
        let s := { s with mcLines := SMap.set 0 s.mcLines i (n + data.length / 64) }
        let s := s.count mcastBase F.BRD_MCCNT_NEXT_SEQ 1 g
        (if (s.mcEntry g).testBit 25 then s.mcTake g k 24 else s.sat brdmBase F.BRD_DROP_NOROUTE).sendSweep)

/-- A write of a multicast source entry: it restarts the group's SEQ and the entry's line count at 0 (R318, R336). -/
def State.txmapWrite (s : State) (i v : Nat) : State :=
  let s := s.writeReg mcastBase R.BRD_TXMAP i v
  let s := { s with mcLines := SMap.set 0 s.mcLines i 0 }
  s.wr mcastBase F.BRD_MCCNT_NEXT_SEQ 0 (bits v 12 8)

/-- BRD_TXMAP_WRITE: the host writes entry `k` of a complex (R318). -/
def execBrdTxmapWrite (f : Func) (x : Complex) (k : Fin 64) (v : BitVec 64) (s : State) : Host.Outcome State Fault Refusal :=
  .next (s.asPF0 f (mcastBase + x.val * 0x200 + k.val * 8) fun s => s.txmapWrite (x.val * 64 + k.val) v.toNat)

/-! ### Expulsion and notices (R324, R325) -/

/-- MULTICAST_EXPEL: a branch (24 the local one) that has been full for LIMIT µs is expelled: its backlog is discarded and a DETACHED notice issued,
sent on a port branch's port, or left to the local branch (R324; log entry 47). -/
def execMulticastExpel (g : BitVec 8) (b : Fin 25) (s : State) : Host.Outcome State Fault Refusal :=
  .next (
    let r := s.branchOf g.toNat b.val
    let lim := s.rd mcastBase F.BRD_MCCFG_LIMIT g.toNat
    match r.full, r.queue with
    | some t, k :: _ =>
      if s.on mcastBase F.BRD_MCCFG_EXPEL g.toNat && decide (t + (if lim = 0 then 1000 else lim) ≤ s.us) then
        let missed := k.addr % 2 ^ 24
        let n := s.noticePacket g.toNat missed
        let s := s.setBranch { r with queue := [], full := none, notices := if b.val = 24 then r.notices ++ [(n, 24)] else r.notices }
        let s := s.wrBit mcastBase F.BRD_MCSTAT_EXPELLED b.val true g.toNat
        let s := s.wr mcastBase F.BRD_MCSTAT_MISSED_SEQ missed g.toNat
        (if h : b.val < 24 then s.sendOn ⟨b.val, h⟩ n else s).brideEvent
      else s
    | _, _ => s)

/-- DETACHED_NOTICE: a notice arrives on a port and is forwarded with one hop less on the group's other port branches, each after what
precedes it, or dropped there at the hop limit; the local branch notes it (R303, R325). -/
def execDetachedNotice (p : Port) (s : State) : Host.Outcome State Fault Refusal :=
  .next (match s.inFront p 0 with
    | none => s
    | some k =>
      if k.typ ≠ 0xC then s
      else
        let g := k.dst % 256
        let s := s.takeFront p 0
        if !(s.mcEntry g).testBit 25 then s.sat brdmBase F.BRD_DROP_NOROUTE else
        let n := ({ k with hops := k.hops - 1 }, p.val)
        let note (s : State) (b : Nat) : State :=
          let r := s.branchOf g b
          s.setBranch { r with notices := r.notices ++ [n] }
        let ps := (s.mcRepl g p.val).filter fun q => s.portUp q.val
        let s := if k.hops = 0 then (if ps.isEmpty then s else s.sat brdmBase F.BRD_DROP_HOPS)
          else ps.foldl (fun s q => (note s q.val).pumpAll q) s
        if (s.mcEntry g).testBit 24 then note s 24 else s)

/-- DETACHED_APPLY: the local branch of a group has delivered everything before the gap: DETACHED is set, and the delivery core's
NOTE_FLAG signalled (R325). -/
def execDetachedApply (g : BitVec 8) (s : State) : Host.Outcome State Fault Refusal :=
  .next (
    let b := s.branchOf g.toNat 24
    match s.readyNotice b true with
    | some n =>
      let s := s.setBranch { b with notices := b.notices.erase n }
      let s := s.wr mcastBase F.BRD_MCSTAT_DETACHED 1 g.toNat
      let s := s.wr mcastBase F.BRD_MCSTAT_MISSED_SEQ n.1.missed g.toNat
      match s.physOf (s.rd mcastBase F.BRD_MCDELIV_CORE g.toNat) with
      | some c => s.flagAddExt c (s.rd mcastBase F.BRD_MCDELIV_NOTE_FLAG g.toNat) 1
      | none => s
    | none => s)

/-- EXPELLED_CLEAR: the host clears EXPELLED and DETACHED bits of a group by a write of `BRD_MCSTAT` (R325, R336). -/
def execExpelledClear (f : Func) (g : BitVec 8) (v : BitVec 64) (s : State) : Host.Outcome State Fault Refusal :=
  .next (s.asPF0 f (mcastBase + 0x3000 + g.toNat * 16) fun s => s.writeReg mcastBase R.BRD_MCSTAT g.toNat v.toNat)

/-! ### Barriers (R327 to R330) -/

/-- A write of a context's configuration (R327, R336). -/
def State.barConfig (s : State) (b : Fin 32) (v : Nat) : State :=
  let busy := decide (s.rd mcastBase F.BRD_BARSTAT_ARRIVED b.val ≠ 0) || decide (s.rd mcastBase F.BRD_BARSTAT_CHILD_IN b.val ≠ 0)
  if busy || decide (bits v 6 7 > 60) || decide (bits v 13 4 > 8) then s.setOn mcastBase F.BRD_BARSTAT_CFG_REJ b.val
  else ((s.writeReg mcastBase R.BRD_BARCFG b.val v).wr mcastBase F.BRD_BARSTAT_EPOCH 0 b.val).barClear b

/-- BARRIER_CONFIG_WRITE: the host configures a context (R327). -/
def execBarrierConfigWrite (f : Func) (b : Fin 32) (v : BitVec 64) (s : State) : Host.Outcome State Fault Refusal :=
  .next (s.asPF0 f (mcastBase + 0x4000 + b.val * 16) fun s => s.barConfig b v.toNat)

/-- BARRIER_ARRIVE: the host writes a context's number to a core's `BRD_BARRIVE` (R328); a bobbin's write of the register is the same
arrival. -/
def execBarrierArrive (f : Func) (c : PCore) (b : Fin 32) (s : State) : Host.Outcome State Fault Refusal :=
  .next (s.asCore f c .register (coreBase c + 0x50000) fun s => s.barArrive c b)

/-- Act on a barrier packet of a phase: one that is for no partition is counted, one for a partition in reset dropped with
ERR_EXTRA (R306, R329, R335). -/
def State.onBarrier (s : State) (p : Port) (phase : Nat) (run : State → Fin 32 → Packet → State) : State :=
  match s.inFront p 0 with
  | none => s
  | some k =>
    if bits k.addr 5 1 ≠ phase then s
    else
      s.onPacket p 0 0xB fun s k =>
        let b : Fin 32 := ⟨k.addr % 32, Nat.mod_lt _ (by omega)⟩
        match s.jobPart k.job with
        | none => s.sat brdmBase F.BRD_DROP_NOJOB
        | some q =>
          if s.partInReset q.val ∨ ¬ s.on mcastBase F.BRD_BARCFG_VALID b.val ∨ s.barPart b ≠ q.val then
            s.wr mcastBase F.BRD_BARSTAT_ERR_EXTRA 1 b.val
          else run s b k

/-- BARRIER_ARRIVE_PACKET: a child's arrival is counted or dropped (R329, R330). -/
def execBarrierArrivePacket (p : Port) (s : State) : Host.Outcome State Fault Refusal :=
  .next (s.onBarrier p 0 fun s b k =>
    if bits k.addr 6 16 ≠ s.rd mcastBase F.BRD_BARSTAT_EPOCH b.val then s.wr mcastBase F.BRD_BARSTAT_ERR_EPOCH 1 b.val
    else if s.bars[b].kids.length ≥ s.rd mcastBase F.BRD_BARCFG_CHILDREN b.val ∨ s.bars[b].kids.contains k.src then
      s.wr mcastBase F.BRD_BARSTAT_ERR_EXTRA 1 b.val
    else
      let s := s.onBar b fun r => { r with kids := r.kids ++ [k.src] }
      (s.count mcastBase F.BRD_BARSTAT_CHILD_IN 1 b.val).barCheck b)

/-- BARRIER_RELEASE_PACKET: the parent's release releases the context (R329, R330). -/
def execBarrierReleasePacket (p : Port) (s : State) : Host.Outcome State Fault Refusal :=
  .next (s.onBarrier p 1 fun s b k =>
    if s.on mcastBase F.BRD_BARCFG_ROOT b.val ∨ k.src ≠ s.rd mcastBase F.BRD_BARCFG_PARENT b.val ∨
        bits k.addr 6 16 ≠ s.rd mcastBase F.BRD_BARSTAT_EPOCH b.val then s.wr mcastBase F.BRD_BARSTAT_ERR_EPOCH 1 b.val
    else s.barRelease b)

end Sys2Proof.Machine
end

