-- ==== Sys2Proof/Machine/Transfer.lean ====
section
/-!
DEFINITION. The bobbins' instructions and the ends of transfers: the checks at a bobbin queue's head (R170, R171, R230, R259), a
transfer's entry into a context and into a ring slot (R223, R240), its completion (R234, R235), and the responses that never come
(R306, R350).
-/
namespace Sys2Proof.Machine

/-- The queue of a bobbin. -/
def bobQueue (b : Bob) : Queue := ⟨4 + b.val, by omega⟩

/-- The bobbin's queue head when it is an instruction with opcode `op`. -/
def State.bobHead (s : State) (c : PCore) (b : Bob) (op : Nat) : Option (IWord × Nat) :=
  match s.headInstr c (bobQueue b) with
  | some (w, ia) => if opcodeOf w = op then some (w, ia) else none
  | none => none

/-- Skip the instruction at a bobbin's head. -/
def State.bobSkip (s : State) (c : PCore) (b : Bob) (w : IWord) (ia reason : Nat) : State :=
  let s := (s.onBob c b fun r => { r with ringWait := none }).wr (bobBase c b) F.BOB_STATUS_RINGWAIT 0
  s.skipHead c (bobQueue b) w ia reason

/-- The lowest context of a bobbin that is free (R223). -/
def State.freeCtx (s : State) (c : PCore) (b : Bob) : Option Nat :=
  (List.range 4).find? fun n => !(s.bob c b).ctxs.any fun x => x.ctxNo = n

/-- A transfer as it enters a context. -/
def Xfer.new (id n : Nat) (w : IWord) (ia : Nat) (kind : XferKind) (desc : List Nat) (flag inc entered : Nat)
    (ring : Option (Nat × Nat × Nat)) : Xfer where
  id := id
  ctxNo := n
  word := w
  ia := ia
  kind := kind
  desc := desc
  flag := flag
  inc := inc
  entered := entered
  next := [0, 0, 0, 0, 0]
  num := 0
  allSent := false
  ring := ring
  counts := []
  refusedW := []
  status := 0
  refAt := 0
  refDest := 0
  poisoned := false
  bytes := 0
  dropped := 0

/-- The instruction at the head leaves for context `n` (R223). -/
def State.enter (s : State) (c : PCore) (b : Bob) (n : Nat) (w : IWord) (ia : Nat) (kind : XferKind) (desc : List Nat)
    (flag inc : Nat) (ring : Option (Nat × Nat × Nat) := none) : State :=
  let s := s.popQ c (bobQueue b)
  let s := (s.wrBit (bobBase c b) F.BOB_STATUS_CTX n true).wr (bobBase c b) F.BOB_STATUS_RINGWAIT 0
  s.onBob c b fun r => { r with
    ctxs := r.ctxs ++ [Xfer.new r.nextId n w ia kind desc flag inc s.cycle ring]
    nextId := r.nextId + 1
    ringWait := none }

/-- The sixteen words of a descriptor (R227, R258). -/
def State.descWords (s : State) (c : PCore) (off : Nat) : List Nat := (List.range 16).map fun i => s.spadLE c (off + 8 * i) 8

/-- Whether a descriptor's offset is aligned and in range (R148, R170, R171). -/
def descFits (off : Nat) : Bool := decide (off % 64 = 0) && spadFits off 128

/-! ### BXFER (R170, R227 to R233) -/

/-- Whether bits [63:lo] of a word are zero. -/
def highZero (w lo : Nat) : Bool := decide (w % 2 ^ 64 < 2 ^ lo)

/-- Whether a descriptor keeps every reserved field zero (R227). -/
def xferReserved (d : List Nat) : Bool :=
  let w (i : Nat) := d.getD i 0
  highZero (w 0) 33 && highZero (w 3) 48 && (decide (bits (w 0) 10 3 ≠ 2) || highZero (w 2) 50) && highZero (w 9) 28 &&
    highZero (w 10) 40 && highZero (w 11) 48 && highZero (w 12) 24 && decide (w 13 = 0) && decide (w 14 = 0) && decide (w 15 = 0)

/-- The conditions of reason 0x13 on a transfer descriptor (R230, and R148 for the record's region). R227 gives a dispatch 1 to 65,535 experts and
R230 names no reason for none: a dispatch with NEXP 0 is skipped with this one (DESIGN CHOICE, log entry 110). -/
def xferBad (d : List Nat) : Bool :=
  let f := descF d
  let win := decide (f.dstSp = 2)
  let counts := (List.range (f.ndim - 1)).map fun i => bits (d.getD 4 0) (16 * i) 16
  let m64 (v : Int) : Bool := decide (v % 64 ≠ 0)
  decide (f.kind ≥ 4) || decide (f.ndim = 0) || decide (f.ndim ≥ 6) || decide (f.srcSp ≥ 2) || decide (f.dstSp ≥ 4) ||
    !xferReserved d || decide (f.len0 = 0) || counts.any (fun n => n = 0) ||
    (win && ((decide (f.kind ≠ 3) && decide (f.dst % 2 ^ 24 % 64 ≠ 0)) || decide (f.len0 % 64 ≠ 0) || f.ds.any m64)) ||
    (decide (f.kind = 3) && (decide (f.ndim ≠ 2) || decide (f.srcSp ≠ 0) || !win || decide (f.k = 0) || decide (f.k > 8) ||
      decide (f.nexp = 0) || decide (f.table % 16 ≠ 0) || decide (f.place % 4 ≠ 0) || decide (f.counts % 4 ≠ 0))) ||
    ((decide (f.kind = 1) || decide (f.kind = 2)) && decide (f.ndim = 1)) ||
    (decide (1 ≤ f.kind) && decide (f.idx % 8 ≠ 0)) || (f.wantRec && (decide (f.recOff % 32 ≠ 0) || !spadFits f.recOff 32))

/-- Whether a stream may carry a bobbin's requests: bound to it with ROLE 4, and with an allotment entry (R230). -/
def State.reqStream (s : State) (c : PCore) (b : Bob) (stream : Nat) : Bool :=
  (List.range 256).any (fun i => decide (s.rd (coreBase c) F.NET_STREAM_STREAM i = stream) &&
    decide (s.rd (coreBase c) F.NET_STREAM_ROLE i = 4) && decide (s.rd (coreBase c) F.NET_STREAM_UNIT i = b.val)) &&
    (s.allotOf c stream).isSome

/-- The reason a BXFER is skipped for, or 0: the lowest-numbered that applies (R147, R230). -/
def State.xferCheck (s : State) (c : PCore) (b : Bob) (d : List Nat) : Nat :=
  let f := descF d
  let here := f.modul = 0xFFFF ∨ f.modul = s.modId
  let target := match s.physOf (bits f.dst 44 6) with
    | some k => decide (s.partOf k = s.partOf c)
    | none => false
  if f.dstSp = 2 ∧ f.kind ≠ 3 ∧ here ∧ target = false then 0x12
  else if xferBad d then 0x13
  else if f.dstSp = 3 ∧ ¬ (s.on (bobcBase c) F.BOB_RING_CFG_ENABLE f.ring ∧ s.rd (bobcBase c) F.BOB_RING_CFG_PRODUCER f.ring = b.val) then 0x14
  else if !s.reqStream c b f.stream then 0x17
  else 0

/-- A read of a scratchpad range by a bobbin: the errors stored there are met (R177); the first marked offset (R384). -/
def State.readMark (s : State) (c : PCore) (off n : Nat) : State × Option Nat :=
  let s := s.spadMeet c off n
  (s, s.firstMark c off n)

/-- The bobbin reads what it needs of the scratchpad to walk a transfer, its index list or its routing entries and their experts' entries: the errors
met there, and the first marked offset (R177, R384). -/
def State.xferTake (s : State) (c : PCore) (d : List Nat) : State × Option Nat :=
  let f := descF d
  let n := f.cnt.getD 0 1
  if f.kind = 1 ∨ f.kind = 2 then s.readMark c f.idx (4 * n)
  else if f.kind = 3 then
    let a := s.readMark c f.idx (8 * n * f.k)
    if a.2.isSome then a
    else
      (((List.range (n * f.k)).map fun i => a.1.spadLE c (f.idx + 8 * i + 4) 4).filter fun e => decide (e < f.nexp)).foldl
        (fun r e => if r.2.isSome then r else r.1.readMark c (f.table + e * 16) 16) a
  else (s, none)

/-- A BXFER at the head whose KIND is a dispatch (`disp`) or is not: skipped, consumed, left waiting for a context or a ring slot, or
entered; a ring transfer that waits reserves its slot by RING_SLOT_RESERVE (`waiting`), within its time (R138, R170, R223, R230, R240, R241). -/
def State.bxfer (s : State) (c : PCore) (b : Bob) (disp waiting : Bool) : State :=
  match s.bobHead c b 0x80, s.freeCtx c b with
  | some (w, ia), some n =>
    let off := s.x32 c w 107
    let d := s.descWords c off
    let f := descF d
    let isDisp := descFits off && decide (f.kind = 3)
    if isDisp ≠ disp ∨ (s.bob c b).ringWait.isSome ≠ waiting ∨ s.ringWaitOver c b = true then s
    else if !descFits off then s.bobSkip c b w ia 0x13
    else
      let r := s.readMark c off 128
      let s := r.1
      match r.2 with
      | some a => s.bobConsume c b a ia
      | none =>
        let reason := s.xferCheck c b d
        if reason ≠ 0 then s.bobSkip c b w ia reason
        else
          let r := s.xferTake c d
          let s := r.1
          match r.2 with
          | some a => s.bobConsume c b a ia
          | none =>
            let flag := fieldOf w 101 6
            let inc := fieldOf w 85 16
            if f.dstSp ≠ 3 then s.enter c b n w ia .desc d flag inc
            else if !s.ringRoom c f.ring then
              (s.onBob c b fun r => { r with ringWait := some f.ring }).wr (bobBase c b) F.BOB_STATUS_RINGWAIT 1
            else
              let g := bobcBase c
              let m := (s.rd g F.BOB_RING_PTR_TAIL f.ring + s.rd g F.BOB_RING_PTR_RSV f.ring) % 65536
              let base := s.rd g F.BOB_RING_CFG_BASE f.ring +
                m % s.rd g F.BOB_RING_CFG_NSLOTS f.ring * s.rd g F.BOB_RING_CFG_SLOT_SIZE f.ring
              (s.count g F.BOB_RING_PTR_RSV 1 f.ring).enter c b n w ia .desc d flag inc (some (f.ring, m, base))
  | _, _ => s

/-- BXFER: a copy, gather or scatter, or a descriptor that is skipped (R170, R228, R230). -/
def execBxfer (c : PCore) (b : Bob) (s : State) : Host.Outcome State Fault Refusal := .next (s.bxfer c b false false)

/-- BXFER_DISPATCH: a dispatch (R231, R232). -/
def execBxferDispatch (c : PCore) (b : Bob) (s : State) : Host.Outcome State Fault Refusal := .next (s.bxfer c b true false)

/-- RING_SLOT_RESERVE: the ring transfer that waits at the head reserves a slot that has been released (R240, R241). -/
def execRingSlotReserve (c : PCore) (b : Bob) (s : State) : Host.Outcome State Fault Refusal := .next (s.bxfer c b false true)

/-- BCOPY (R170): its words are destination, source, length, and the record's offset plus one where it writes one. -/
def execBcopy (c : PCore) (b : Bob) (s : State) : Host.Outcome State Fault Refusal :=
  .next (match s.bobHead c b 0x81, s.freeCtx c b with
    | some (w, ia), some n =>
      let len := s.x32 c w 97
      let wantRec := s.on (bobBase c b) F.BOB_COPYREC_EN
      let at_ := s.rd (bobBase c b) F.BOB_COPYREC_OFFSET
      if len = 0 ∨ (wantRec ∧ (at_ % 32 ≠ 0 ∨ ¬ spadFits at_ 32)) then s.bobSkip c b w ia 0x13
      else s.enter c b n w ia .copy [(s.x c (rdOf w)).toNat, (s.x c (rs1Of w)).toNat, len, if wantRec then at_ + 1 else 0]
        (fieldOf w 91 6) (fieldOf w 75 16)
    | _, _ => s)

/-! ### Memory-side operations (R171, R258 to R261, R265) -/

/-- Whether a memory-side descriptor keeps every reserved field zero (R258). -/
def mopReserved (d : List Nat) : Bool :=
  let w (i : Nat) := d.getD i 0
  highZero (w 0) 31 && highZero (w 3) 40 && decide (bits (w 7) 12 4 = 0) && decide (bits (w 7) 28 4 = 0) && decide (bits (w 7) 44 4 = 0) &&
    highZero (w 7) 60 && highZero (w 12) 32 && decide (w 13 = 0) && decide (w 14 = 0) && decide (w 15 = 0)

/-- The formats a memory-side operation takes (R260). -/
def mopFmtOk (op fmt : Nat) : Bool :=
  match op with
  | 0 => fmt = 1 || fmt = 2 || fmt = 3 || fmt = 0xD
  | 1 | 2 => fmt = 1 || fmt = 0xD
  | 3 => fmt = 1
  | 4 => fmt ≤ 6
  | _ => fmt ≠ 0xF

/-- The region of R247 a local HBM address lies in (0 the common one, 1 + d a die's), and its interleave period in bytes. -/
def State.regionOf (s : State) (a : Nat) : Nat × Nat :=
  let n := s.rd mmemBase F.HBM_MAP_DIELOCAL
  let first := 20 * (64 - n) * gib
  if a < first ∨ n = 0 then (0, s.stacksUp.length * 4096)
  else
    let d := (a - first) / (5 * n * gib)
    (1 + d, (s.stacksUp.filter fun k => k / 5 = d).length * 4096)

/-- Where 64 B of an array of an optimiser step lie: none where they lie in no mapped region of R247, and otherwise their region and place in its
interleave period; an address that misses has none yet, and the walk finds the miss (R247, R259, R261). -/
def State.arraySpot (s : State) (p a : Nat) : Option (Option (Nat × Nat)) :=
  match s.translate p (a % 2 ^ 48) with
  | none => some none
  | some (false, pa) =>
    let r := s.regionOf pa
    if (s.locate pa).isSome then some (some (r.1, pa % r.2)) else none
  | some (true, _) => none

/-- Whether the arrays of an optimiser step lie in one region of R247 at congruent addresses, at every 64 B of them (R259, R261). -/
def State.mopPlaced (s : State) (p : Nat) (f : MopF) : Bool :=
  (List.range (f.len / 64)).all fun i =>
    let spots := f.arrays.map fun a => s.arraySpot p (a + 64 * i)
    let at_ := spots.filterMap Option.join
    spots.all Option.isSome && at_.all fun y => decide (some y = at_.head?)

/-- The conditions of reason 0x13 on a memory-side descriptor (R148, R259; only region operations may name another module, R331). R259 asks of every
LEN a multiple of 64 and R258 of a norm fetch's 32 × its entry count: of OP 6 a multiple of 32 is asked (DESIGN CHOICE, log entry 111). -/
def State.mopBad (s : State) (p : Nat) (d : List Nat) : Bool :=
  let f := mopF d
  let al (a : Nat) : Bool := decide (a % 64 ≠ 0)
  decide (f.op ≥ 7) || !mopReserved d || !mopFmtOk f.op f.fmt || decide (f.alg = 3) || decide (f.wrnd = 1) || decide (f.wrnd = 3) ||
    al f.dst || al f.src || al f.mom1 || al f.mom2 || al f.work || decide (f.len = 0) ||
    (if f.op = 6 then decide (f.len % 32 ≠ 0) else decide (f.len % 64 ≠ 0) || decide (f.len % f.width ≠ 0)) ||
    (decide (f.op ≤ 2) && decide (f.space = 0) && !spadFits f.src f.len) || (decide (f.op = 6) && decide (f.space = 0) && !spadFits f.dst f.len) ||
    (decide (3 ≤ f.op) && (decide (f.op ≤ 5) || decide (f.space = 1)) && !s.isHere f.dst) ||
    (decide (f.op = 3) && (decide (f.space = 0) || (decide (f.alg = 2) && decide (f.step = 0)) || (f.arrays.any fun a => !s.isHere a) || !s.mopPlaced p f))

/-- A MOP at the head whose operation is `op`; operation 0 takes along what is skipped whatever it asks (R171, R258, R259). -/
def State.mop (s : State) (c : PCore) (b : Bob) (op : Nat) : State :=
  match s.bobHead c b 0x90, s.freeCtx c b with
  | some (w, ia), some n =>
    let off := s.x32 c w 107
    let d := s.descWords c off
    let f := mopF d
    let mine := if descFits off ∧ f.op < 7 then f.op else 0
    if mine ≠ op then s
    else if !descFits off then s.bobSkip c b w ia 0x13
    else
      let r := s.readMark c off 128
      let s := r.1
      match r.2 with
      | some a => s.bobConsume c b a ia
      | none =>
        if s.mopBad (s.partOf c) d then s.bobSkip c b w ia 0x13
        else if !s.reqStream c b f.stream then s.bobSkip c b w ia 0x17
        else s.enter c b n w ia .mop d (fieldOf w 101 6) (fieldOf w 85 16)
  | _, _ => s

/-- MOP_REGION_ADD (R260). -/
def execMopRegionAdd (c : PCore) (b : Bob) (s : State) : Host.Outcome State Fault Refusal := .next (s.mop c b 0)
/-- MOP_REGION_MAX (R257, R260). -/
def execMopRegionMax (c : PCore) (b : Bob) (s : State) : Host.Outcome State Fault Refusal := .next (s.mop c b 1)
/-- MOP_REGION_MIN (R257, R260). -/
def execMopRegionMin (c : PCore) (b : Bob) (s : State) : Host.Outcome State Fault Refusal := .next (s.mop c b 2)
/-- MOP_OPTIMISER_STEP (R261). -/
def execMopOptimiserStep (c : PCore) (b : Bob) (s : State) : Host.Outcome State Fault Refusal := .next (s.mop c b 3)
/-- MOP_NORM_ACCUMULATION (R260, R264). -/
def execMopNormAccumulation (c : PCore) (b : Bob) (s : State) : Host.Outcome State Fault Refusal := .next (s.mop c b 4)
/-- MOP_ZERO_FILL (R260). -/
def execMopZeroFill (c : PCore) (b : Bob) (s : State) : Host.Outcome State Fault Refusal := .next (s.mop c b 5)
/-- MOP_NORM_FETCH (R265). -/
def execMopNormFetch (c : PCore) (b : Bob) (s : State) : Host.Outcome State Fault Refusal := .next (s.mop c b 6)

/-- SCOMMIT: the bobbin forms the descriptor of a commit from the record's address and the step number (R88, R171, R266). -/
def execScommit (c : PCore) (b : Bob) (s : State) : Host.Outcome State Fault Refusal :=
  .next (match s.bobHead c b 0x91, s.freeCtx c b with
    | some (w, ia), some n =>
      s.enter c b n w ia .scommit [(s.x c (rdOf w)).toNat % 2 ^ 42 * 64, (s.x c (rs1Of w)).toNat] (fieldOf w 96 6) (fieldOf w 80 16)
    | _, _ => s)

/-- The alignment of a MATOM's address (R171). -/
def matomAligned (op fmt a : Nat) : Bool :=
  if op ≠ 0 then decide (a % 8 = 0)
  else if fmt = 2 then decide (a % 2 = 0) && decide (a % 64 + 6 ≤ 64)
  else if fmt = 3 then decide (a % 2 = 0)
  else decide (a % 4 = 0)

/-- A MATOM that stood at the head of its queue when its task was aborted in this cycle, and whose address misses: its record is filled too
(R237). -/
def State.lateMatom (s : State) (c : PCore) (b : Bob) : State :=
  match (s.bob c b).goneHead with
  | some (w, ia) =>
    let a := (s.x c (fieldOf w 101 5)).toNat
    let fmt := fieldOf w 106 4
    if (s.bob c b).goneAt = s.cycle ∧ opcodeOf w = 0x92 ∧ (s.bob c b).gone.length < 4 ∧ mopFmtOk (fieldOf w 110 2) fmt ∧
        matomAligned (fieldOf w 110 2) fmt a ∧ s.isHere a ∧ s.resolve c a (atomicWidth (fieldOf w 110 2) fmt) true = .miss then
      (s.lateFault c b (Xfer.new (s.bob c b).nextId 0 w ia .matom [] 0 0 s.cycle none) 1 a false false []).bobSettle c b
    else s
  | none => s

/-- MATOM: checked and translated at the head (R171). An address that translates to no mapped HBM is one of R171's, other than HBM of this module, and
one of R255's: it is skipped with reason 0x13 (DESIGN CHOICE, log entry 112). -/
def execMatom (c : PCore) (b : Bob) (s : State) : Host.Outcome State Fault Refusal :=
  .next (match s.bobHead c b 0x92, s.freeCtx c b with
    | some (w, ia), some n =>
      let op := fieldOf w 110 2
      let fmt := fieldOf w 106 4
      let a := (s.x c (fieldOf w 101 5)).toNat
      let go (s : State) : State :=
        s.enter c b n w ia .matom [op, fmt, a, (s.x c (fieldOf w 96 5)).toNat] (fieldOf w 90 6) (fieldOf w 74 16)
      if !mopFmtOk op fmt then s.bobSkip c b w ia 0x07
      else if !matomAligned op fmt a then s.bobSkip c b w ia 0x13
      else if !s.isHere a then go s
      else
        match s.resolve c a (atomicWidth op fmt) true with
        | .miss => s.bobFault c b (Xfer.new (s.bob c b).nextId n w ia .matom [] 0 0 s.cycle none) 1 a false false []
        | .at (.hbm _) => go s
        | _ => s.bobSkip c b w ia 0x13
    | none, _ => s.lateMatom c b
    | _, _ => s)

/-! ### Completion (R234, R235, R240) -/

/-- A ring's slot is filled: TAIL passes every slot at its end whose transfer has completed (R240). -/
def State.ringAdvance (s : State) (c : PCore) (r : Nat) : Nat → State
  | 0 => s
  | n + 1 =>
    let g := bobcBase c
    let t := s.rd g F.BOB_RING_PTR_TAIL r
    if (s.core c).ringDone.contains (r, t) then
      let s := s.onCore c fun k => { k with ringDone := k.ringDone.filter fun e => e ≠ (r, t) }
      ((s.count g F.BOB_RING_PTR_TAIL 1 r).wr g F.BOB_RING_PTR_RSV (s.rd g F.BOB_RING_PTR_RSV r - 1) r).ringAdvance c r n
    else s

/-- The 32 bytes of a transfer's record (R234). -/
def Xfer.record (x : Xfer) (b : Bob) (status now : Nat) : List Byte :=
  leBytes 1 status ++ leBytes 1 (b.val + (if x.kind = .desc then (descF x.desc).kind else 0) * 2) ++ leBytes 2 0 ++ leBytes 4 x.dropped ++
    leBytes 8 x.bytes ++ leBytes 8 x.refDest ++ leBytes 8 (now - x.entered)

/-- Where a transfer's record goes. -/
def Xfer.recordAt (x : Xfer) : Option Nat :=
  match x.kind with
  | .desc => if (descF x.desc).wantRec then some (descF x.desc).recOff else none
  | .copy => if x.desc.getD 3 0 = 0 then none else some (x.desc.getD 3 0 - 1)
  | _ => none

/-- A transfer is complete: the counts of a dispatch, the ring tail, the record, the completion pair, which a memory-side operation signals only where
no part was refused (R232, R234, R235, R240, R331). -/
def State.completeXfer (s : State) (c : PCore) (b : Bob) (x : Xfer) : State :=
  let f := descF x.desc
  let disp := decide (x.kind = .desc) && decide (f.kind = 3)
  if disp && !spadFits f.counts (4 * f.nexp) then s.bobFault c b x 1 f.counts true false x.next
  else
    let s := if disp then
        (List.range f.nexp).foldl (fun s e => s.spadWrite c (f.counts + 4 * e) (leBytes 4 (SMap.get 0 x.counts e))) s
      else s
    let s := match x.ring with
      | some (r, m, _) => (s.onCore c fun k => { k with ringDone := (r, m) :: k.ringDone }).ringAdvance c r 16
      | none => s
    let status := if x.status ≠ 0 then x.status else if x.poisoned then 0x0B else 0
    let s := match x.recordAt with
      | some a => s.spadWrite c a (x.record b status s.cycle)
      | none => s
    let s := s.count (bobBase c b) F.BOB_XFERS_COUNT
    let s := if x.status ≠ 0 then (s.sat (bobBase c b) F.BOB_REFCNT_COUNT).setOn (bobBase c b) F.BOB_ERR_REFUSED else s
    let s := s.wrBit (bobBase c b) F.BOB_STATUS_CTX x.ctxNo false
    let s := s.onBob c b fun r => { r with ctxs := r.ctxs.filter fun y => y.id ≠ x.id }
    if x.kind = .mop ∧ x.status ≠ 0 then s else s.signalPair c x.flag x.inc x.ia

/-- A dispatch that was about to complete when its task was aborted in this cycle, and whose counts do not fit: its record is filled too (R237). -/
def State.lateCounts (s : State) (c : PCore) (b : Bob) (n : Fin 4) : State :=
  match (s.bob c b).gone.find? fun x => x.ctxNo = n.val with
  | some x =>
    let f := descF x.desc
    if (s.bob c b).goneAt = s.cycle ∧ x.allSent ∧ (s.bob c b).reqs.all (fun q => decide (q.xfer ≠ x.id)) ∧ x.kind = .desc ∧ f.kind = 3 ∧
        !spadFits f.counts (4 * f.nexp) then (s.lateFault c b x 1 f.counts true false x.next).bobSettle c b
    else s
  | none => s

/-- TRANSFER_COMPLETE: every request of the transfer in context `n` is complete (R234). -/
def execTransferComplete (c : PCore) (b : Bob) (n : Fin 4) (s : State) : Host.Outcome State Fault Refusal :=
  .next (match (s.bob c b).ctxs.find? fun x => x.ctxNo = n.val with
    | some x => if x.allSent && !(s.bob c b).reqs.any (fun q => q.xfer = x.id) then s.completeXfer c b x else s
    | none => s.lateCounts c b n)

/-! ### Responses that do not come -/

/-- REMOTE_RESPONSE_TIMEOUT: no response within `BRD_RSPLIMIT`; a page fault with REMOTE set (R306). -/
def execRemoteResponseTimeout (c : PCore) (b : Bob) (tag : Nat) (s : State) : Host.Outcome State Fault Refusal :=
  .next (match (s.bob c b).reqs.find? fun q => q.tag = tag with
    | some q =>
      if q.awaitsRemote && !q.done && decide (q.since + limitOr 1000 (s.rd brdmBase F.BRD_RSPLIMIT_LIMIT) ≤ s.us) then
        ((s.sat brdmBase F.BRD_TIMEOUT_COUNT).tagStale c b tag).finishReq c b q 0x80
      else s
    | none => s)

/-- CXL_RESPONSE_TIMEOUT: the host has not answered within `CXL_RSPLIMIT`; a page fault (R350). -/
def execCxlResponseTimeout (c : PCore) (b : Bob) (tag : Nat) (s : State) : Host.Outcome State Fault Refusal :=
  .next (match (s.bob c b).reqs.find? fun q => q.tag = tag with
    | some q =>
      if q.awaitsHost && !q.done && decide (q.since + limitOr 100 (s.rd cxlBase F.CXL_RSPLIMIT_LIMIT) ≤ s.us) then
        let s := (s.setOn cxlBase F.CXL_ERR_RSP_TIMEOUT).sat cxlBase F.CXL_ERRCNT_RSP_TO_CNT
        let s := s.errLog (errRec 2 0xD 0 0 (s.partOf c) 0x13 0xA 0 q.failAddr)
        (s.tagStale c b tag).finishReq c b q 0x80
      else s
    | none => s)

end Sys2Proof.Machine
end

