-- ==== Sys2Proof/Machine/Partition.lean ====
section
/-!
DEFINITION. Partitions and resets (R363 to R381): the core reset shared by every scope, cluster, partition and module resets,
partition commands, and the zero-fill of handed-over cores (R196).
-/
namespace Sys2Proof.Machine

/-! ### The core reset (R370, R371) -/

/-- Whether a core's reset sequence is running (`RST_CORESTAT`). -/
def State.resetting (s : State) (c : PCore) : Bool := s.rdBit rstBase F.RST_CORESTAT_INRESET c.val

/-- The fields of a core's control slot that a core reset keeps: window generations, `SPD_RESETDROP`, and the spares in service
(R191, R22, R371). -/
def keptKeys (c : PCore) : List Nat :=
  (List.range 16).map (fkey (spdBase c) F.SPD_WIN_B_GEN) ++
  [F.SPD_RESETDROP_COUNT, F.SPD_SPARE_BANK_A, F.SPD_SPARE_BANK_B, F.SPD_SPARE_USED].map (fun f => fkey (spdBase c) f 0) ++
  (List.finRange 4).flatMap fun e =>
    [F.OPE_STATUS_SPARES_USED, F.OPE_STATUS_SPARE_ROW_A, F.OPE_STATUS_SPARE_ROW_B].map fun f => fkey (opeBase c e) f 0

/-- Every register of a core's control slot that resets with the core takes its reset value; a quarantined or disabled engine
stays so (R62, R370, R386). -/
def State.slotReset (s : State) (c : PCore) : State :=
  let keep := keptKeys c
  let st := (List.finRange 4).map fun e => (e, s.rd (opeBase c e) F.OPE_STATUS_STATE)
  let s := s.resetRange (coreBase c) (coreBase c + 0x100000) keep.contains
  st.foldl (fun s x => if x.2 = 5 ∨ x.2 = 6 then s.wr (opeBase c x.1) F.OPE_STATUS_STATE x.2 else s) s

/-- A core at the acceptance of its reset (R370): fetch stops and the queues are discarded; passes whose fold has not begun are
abandoned; drains and bobbins stop, and the tags of requests to other modules and the host are released; its source slots send
idle flits; windows close (R191, R219). -/
def State.coreResetStart (s : State) (c : PCore) : State :=
  let s := s.wrBit rstBase F.RST_CORESTAT_INRESET c.val true
  let s := s.onCore c fun r => { r with
    queues := Vector.replicate 8 []
    headAt := Vector.replicate 8 s.cycle
    cutSince := Vector.replicate 8 none
    waiters := []
    netOps := []
    regsDone := false
    resetEnd := some (s.cycle + 9400) }
  let s := (List.finRange 4).foldl (fun s e => (s.onCore c fun r => { r with
    engines := vupd r.engines e fun k => { k with
      loads := []
      issued := k.issued.filter fun q => decide (q.last + 48 ≤ s.cycle)
      repairing := [] } }).stopDrain c e) s
  let s := (List.finRange 2).foldl (fun s b => (s.stopBobbin c b).onCore c fun r => { r with
    bobs := vupd r.bobs b fun k => { k with
      stale := k.stale ++ (k.reqs.filter fun q => q.awaitsRemote || q.awaitsHost).map (·.tag)
      reqs := k.reqs.filter fun q => !(q.awaitsRemote || q.awaitsHost) } }) s
  let s := { s with net := { s.net with src := s.net.src.filter fun x => x.core ≠ c.val } }
  (s.closeWindows c).disableRings c

/-- Core resets of some cores at once: a running task that one of them belongs to is aborted first, where `abort` says so, with
cause 7 on every core that is not reset (R370); disabled cores, cores without power and cores already in reset are left out (R379, R455). -/
def State.resetCores (s : State) (cs : List PCore) (abort : Bool) : State :=
  let cs := cs.filter fun c => s.enabled c && s.powered c && !s.resetting c
  let s := if abort then
      cs.foldl (fun s c =>
        let p := s.partOf c
        if (s.taskCores p).contains c then s.abortTask p 7 none true cs else s) s
    else s
  cs.foldl (fun s c => s.coreResetStart c) s

/-- What remains of a core's requests after its reset: those of its drains at a picot are applied without an answer, and answers to them on their
way are discarded (R370, R371). -/
def State.orphan (s : State) (c : PCore) : State :=
  let mine : MemSrc → Bool := fun
    | .bobbin k _ _ => k = c.val
    | .drain k _ => k = c.val
    | .work k _ _ => k = c.val
    | _ => false
  let free (l : List MemReq) : List MemReq := l.map fun r => if mine r.src then { r with src := .firmware } else r
  { s with
    memReqs := s.memReqs.map free
    arrivals := s.arrivals.map fun (a : Arrival) => ({ a with waiting := free a.waiting } : Arrival)
    memResps := s.memResps.map fun l => l.filter fun r => !mine r.dst }

/-- The memories of a core are zero-filled with fresh codes: scratchpad, tile halves, instruction banks, and their marks (CORE_ZERO_FILL; R196). -/
def CoreRec.zeroFill (r : CoreRec) : CoreRec :=
  { r with imem := [], spad := [], spadPois := [], spadBad := [], accBad := [], acc := Vector.replicate 4 [] }

/-- The state of a core's sequencer after a reset: 0, or 5 where it is reported down (R123, R370). -/
def State.restState (s : State) (c : PCore) : Nat := if s.coresDown.testBit c.val then 5 else 0

/-- A request to local HBM that a bobbin of a core has issued (R370). -/
def MemReq.ofBobbin (r : MemReq) (c : PCore) : Bool :=
  match r.src with
  | .bobbin k _ _ => decide (k = c.val)
  | .work k _ _ => decide (k = c.val)
  | _ => false

/-- A response for a bobbin of a core. -/
def MemResp.ofBobbin (r : MemResp) (c : PCore) : Bool :=
  match r.dst with
  | .bobbin k _ _ => decide (k = c.val)
  | _ => false

/-- Whether a request to local HBM that a core's bobbins had issued is not complete: at a picot, or with its answer on its way (R370). -/
def State.localHeld (s : State) (c : PCore) : Bool :=
  !s.noRequest (·.ofBobbin c) || s.memResps.toList.any fun l => l.any (·.ofBobbin c)

/-- A core's reset in a cycle (R137, R370): a request to local HBM that is held beyond cycle 1,354 moves the rows after it; in cycle 1,463 the
registers take their reset values, and what the core absorbs from then on is counted. -/
def State.resetTick (s : State) (c : PCore) : State :=
  match (s.core c).resetEnd with
  | some t =>
    if s.resetting c && !(s.core c).regsDone && decide (t < s.cycle + (9400 - 1354)) && s.localHeld c then
      s.onCore c fun r => { r with resetEnd := some (t + 1) }
    else if s.resetting c && !(s.core c).regsDone && decide (t ≤ s.cycle + (9400 - 1463)) then
      ((s.slotReset c).wr (coreBase c) F.SEQ_STATUS_STATE (s.restState c)).onCore c fun r => { r with regsDone := true }
    else s
  | none => s

/-- A core reset ends: every register that resets with the core has had its reset value, its memories are as they were, and the core
is in state 0, or 5 if reported down (R370, R371). A zero-fill follows where one is asked for (R196, R367, R455). -/
def State.coreResetEnd (s : State) (c : PCore) : State :=
  let s := s.orphan c
  let s := if (s.core c).regsDone then s else s.slotReset c
  let s := s.wr (coreBase c) F.SEQ_STATUS_STATE (s.restState c)
  let s := s.onCore c fun r => { CoreRec.reset with
    imem := r.imem
    spad := r.spad
    spadPois := r.spadPois
    spadBad := r.spadBad
    accBad := r.accBad
    acc := r.acc
    refused := r.refused
    netNext := r.netNext
    bobs := r.bobs.map fun k => { BobRec.reset with nextId := k.nextId, stale := k.stale }
    bornAt := s.cycle
    fillEnd := if r.wantFill then some (s.cycle + 4160) else none }
  let s := if (s.core c).fillEnd.isSome then s.onCore c CoreRec.zeroFill else s
  s.wrBit rstBase F.RST_CORESTAT_INRESET c.val false

/-! ### Requests through `RST_CMD` (R369, R379, R381) -/

/-- The cores a reset request names: scope 0 a core, 1 a cluster, 2 a partition. -/
def State.scopeCores (s : State) (scope target : Nat) : List PCore :=
  allCores.filter fun c =>
    if scope = 0 then decide (c.val = target) else if scope = 1 then decide ((clusterOf c).val = target)
    else decide (s.partOf c = target)

/-- Report a request of `RST_CMD`; REASON is written for a rejection alone (R381). -/
def State.rstReport (s : State) (scope target result reason : Nat) : State :=
  let s := (s.wr rstBase F.RST_STAT_SCOPE scope).wr rstBase F.RST_STAT_TARGET target
  let s := s.wr rstBase F.RST_STAT_RESULT result
  if reason = 0 then s else s.wr rstBase F.RST_STAT_REASON reason

/-- A reset the host asked for has ended once none of its cores, and not its partition, is in reset. -/
def State.rstOver (s : State) (x : Nat × Nat) : Bool :=
  !((s.scopeCores x.1 x.2).any s.resetting || (decide (x.1 = 2) && s.on prtBase F.PRT_PSTAT_INRESET x.2))

/-- Requests of the host that have ended leave `hostReset`: RESULT is done where the last request is among them, and BUSY clears with the last
of them (R381). -/
def State.rstCheck (s : State) : State :=
  let ended := s.hostReset.filter s.rstOver
  if ended.isEmpty then s
  else
    let last := (s.rd rstBase F.RST_STAT_SCOPE, s.rd rstBase F.RST_STAT_TARGET)
    let run := s.hostReset.filter fun x => !s.rstOver x
    let s := if ended.contains last && decide (s.rd rstBase F.RST_STAT_RESULT = 0) then s.wr rstBase F.RST_STAT_RESULT 1 else s
    ({ s with hostReset := run }).wr rstBase F.RST_STAT_BUSY (if run.isEmpty then 0 else 1)

/-- A request is accepted: it runs. -/
def State.rstAccept (s : State) (scope target : Nat) : State :=
  (({ s with hostReset := s.hostReset ++ [(scope, target)] }).rstReport scope target 0 0).wr rstBase F.RST_STAT_BUSY 1

/-! ### Partition reset (R373 to R375) -/

/-- Flits of a partition inside the network are discarded, those of its streams, SIGNALs, window writes and credit requests (R219, R373). -/
def State.dropFlits (s : State) (p : Nat) : State :=
  let cs := allCores.filter fun c => s.partOf c = p
  { s with
    sigs := s.sigs.filter fun m => m.part ≠ p
    winReqs := s.winReqs.filter fun q => s.partOf q.target ≠ p
    creditMs := s.creditMs.filter fun m => s.partOf m.1 ≠ p
    net := { s.net with
    flits := s.net.flits.filter fun x => x.part ≠ p
    late := s.net.late.filter fun x => x.2.part ≠ p
    dst := s.net.dst.filter fun x => x.part ≠ p || s.txHere x
    merges := s.net.merges.filter fun x => x.part ≠ p
    src := s.net.src.filter fun x => !(cs.any fun c => x.core = c.val) } }

/-- A partition reset stops a fill (R414): at the partner the fills of its job pause, at the spare the page on its way is lost. -/
def State.fillHold (s : State) (p : Part) : State :=
  let hit (x : Fill) : Bool := decide (s.rd mirBase F.MIR_STORE_B_JOB x.store = s.jobOf p.val)
  let fills := s.fills.map fun x => if hit x then { x with paused := true } else x
  let s' := { s with fills := fills, fillRx := vupd s.fillRx p fun r => { r with parts := [], chunks := [] } }
  if (s.fills.head?).any hit then s'.wr mirBase F.MIR_FILL_STAT_STATE 2 else s'

/-- A partition reset is accepted (R373, R375, R414): INRESET, the contexts' counts, the hold of its entries, the abort without a KIND 0x02
record, the core resets; a cut in progress is abandoned. -/
def State.partResetStart (s : State) (p : Part) : State :=
  let s := s.setOn prtBase F.PRT_PSTAT_INRESET p.val
  let s := { s with parts := vupd s.parts p fun r => { r with goHeld := false, resetAt := some s.cycle } }
  let s := (List.finRange 32).foldl (fun s b => if s.barPart b = p.val then s.barClear b else s) s
  let s := (s.netAll F.NET_PARTHOLD_HOLD (putBit (s.rd (netBase 0) F.NET_PARTHOLD_HOLD) p.val true)).dropFlits p.val
  let s := s.abortTask p.val 7 none false
  let s := { s with mir := vupd s.mir p fun m => { m with cutStart := none } }
  let s := s.fillHold p
  let s := s.resetCores (s.scopeCores 2 p.val) false
  s.sat rstBase F.RST_COUNTS_PARTITION

/-- Whether a partition exists (R363). -/
def State.exist (s : State) (p : Nat) : Bool := s.rdBit prtBase F.PRT_EXIST_EXIST p

/-- A partition reset from any source: superseded while one runs, without effect where the partition does not exist (R369, R379); it waits while a
self-test of a core of the partition runs (R25). -/
def State.partReset (s : State) (p : Part) : State :=
  if !s.exist p.val || s.partInReset p.val then s
  else if (s.scopeCores 2 p.val).any s.underTest then { s with held := s.held ++ [.part p.val] }
  else s.partResetStart p

/-- What a write of `RST_CMD` with GO asks of a scope below the module (R369 to R373, R379, R381); it waits while a self-test of a core it names
runs (R25). -/
def State.rstRequest (s : State) (scope target : Nat) : State :=
  let cs := s.scopeCores scope target
  if cs.any s.underTest then { s with held := s.held ++ [.reset scope target] }
  else if scope = 2 then
    if h : target < 16 then
      if !s.exist target then s.rstReport 2 target 2 3
      else if s.partInReset target then s.rstReport 2 target 3 0
      else (s.rstAccept 2 target).partResetStart ⟨target, h⟩
    else s.rstReport 2 target 2 3
  else if cs.isEmpty then s.rstReport scope target 2 1
  else if scope = 0 ∧ cs.all (fun c => !s.enabled c) then s.rstReport scope target 2 2
  else if cs.any (fun c => s.partInReset (s.partOf c)) ||
      (cs.any s.resetting && cs.all fun c => s.resetting c || !s.enabled c || !s.powered c) then s.rstReport scope target 3 0
  else
    let s := s.sat rstBase (if scope = 0 then F.RST_COUNTS_CORE else F.RST_COUNTS_CLUSTER)
    ((s.rstAccept scope target).resetCores cs true).rstCheck

/-- A write of `RST_CMD` (R381). -/
def State.rstCmd (s : State) (v : Nat) : State :=
  let s := s.writeReg rstBase R.RST_CMD 0 v
  if !v.testBit 8 then s
  else if bits v 0 2 = 3 then s.moduleReset 3
  else s.rstRequest (bits v 0 2) (bits v 2 6)

/-- The value of `RST_CMD` that asks for a reset. -/
def rstWord (scope target : Nat) : Nat := scope + target * 4 + 256

/-- RESET_CORE: the host asks for the reset of a physical core (R369, R370). -/
def execResetCore (f : Func) (c : PCore) (s : State) : Host.Outcome State Fault Refusal :=
  .next (s.asPF0 f rstBase fun s => s.rstCmd (rstWord 0 c.val))
/-- RESET_CLUSTER: the host asks for the reset of cluster `k`; above 15 there is none (R372, R381). -/
def execResetCluster (f : Func) (k : Fin 64) (s : State) : Host.Outcome State Fault Refusal :=
  .next (s.asPF0 f rstBase fun s => s.rstCmd (rstWord 1 k.val))
/-- RESET_PARTITION: the host asks for a partition reset (R373). -/
def execResetPartition (f : Func) (p : Fin 64) (s : State) : Host.Outcome State Fault Refusal :=
  .next (s.asPF0 f rstBase fun s => s.rstCmd (rstWord 2 p.val))
/-- RESET_MODULE: the host asks for a module reset (R376, R377). -/
def execResetModule (f : Func) (s : State) : Host.Outcome State Fault Refusal :=
  .next (s.asPF0 f rstBase fun s => s.rstCmd (rstWord 3 0))

/-- CORE_RESET_COMPLETE: the 9,400 cycles have passed, every fold begun is complete, and so is every request to local HBM that the core's bobbins
had issued, its answer taken (R370). -/
def execCoreResetComplete (c : PCore) (s : State) : Host.Outcome State Fault Refusal :=
  .next (match (s.core c).resetEnd with
    | some t =>
      if s.resetting c && decide (t ≤ s.cycle) && (s.core c).engines.toList.all (fun e => e.issued.isEmpty) &&
          !s.localHeld c then
        (s.coreResetEnd c).rstCheck
      else s
    | none => s)

/-- PARTITION_RESET_COMPLETE: every row of R373 has ended, what the picots had accepted for the partition among them; INRESET clears and a KIND 0x04 record is written (R357, R373). -/
def execPartitionResetComplete (p : Part) (s : State) : Host.Outcome State Fault Refusal :=
  .next (match s.parts[p].resetAt with
    | some t =>
      if s.partInReset p.val && decide (t + 9400 ≤ s.cycle) && !(s.scopeCores 2 p.val).any s.resetting &&
          s.noRequest (fun r => decide (r.part = p.val)) then
        let s := s.wr prtBase F.PRT_PSTAT_INRESET 0 p.val
        let s := { s with parts := vupd s.parts p fun r => { r with resetAt := none } }
        ((s.abortReport p.val).cqPost p.val 0x04 0xFFFF 0 0).rstCheck
      else s
    | none => s)

/-! ### Partition commands (R365 to R368, R380) -/

/-- The cores of a cluster. -/
def coresOf (k : Nat) : List PCore := allCores.filter fun c => (clusterOf c).val = k

/-- The owner of a cluster. -/
def State.ownerOfCluster (s : State) (k : Nat) : Nat := s.rd prtBase F.PRT_MAP_OWNER k

/-- The clusters a command affects (R366): for FORM and MOVE those named that p does not own, for DISSOLVE those of p. -/
def State.affected (s : State) (op p clusters : Nat) : List Nat :=
  (List.range 16).filter fun k => if op = 3 then decide (s.ownerOfCluster k = p) else clusters.testBit k && decide (s.ownerOfCluster k ≠ p)

/-- The first reason to reject a command, or 0 (R366). -/
def State.partCheck (s : State) (op p clusters : Nat) : Nat :=
  let ks := s.affected op p clusters
  let cs := ks.flatMap coresOf
  let touched := if ks.isEmpty then [] else if op = 3 then [p, 0] else p :: ks.map s.ownerOfCluster
  if op = 0 ∨ op > 3 then 1
  else if (op = 1 ∧ s.exist p) ∨ (op ≠ 1 ∧ !s.exist p) then 2
  else if op = 3 ∧ (p = 0 ∨ s.rd prtBase F.PRT_PSTAT_PAGES p ≠ 0) then 3
  else if op ≠ 3 ∧ clusters % 65536 = 0 then 4
  else if op ≠ 3 ∧ p ≠ 0 ∧ !s.licensed 0 then 5
  else if cs.any (fun c => s.seqState c = 1 || s.seqState c = 2) then 6
  else if touched.any s.partInReset then 7
  else if s.partCmd.isSome then 8
  else 0

/-- The enabled cores a partition owns, for `PRT_PSTAT`.CORES. -/
def State.countCores (s : State) : State :=
  (List.range 16).foldl (fun s p =>
    s.wr prtBase F.PRT_PSTAT_CORES (allCores.filter fun c => s.enabled c && decide (s.partOf c = p)).length p) s

/-- FORM's settings of a new partition: its bit, WAITDEF, the epoch counter and the mirror registers (R365, R367, R403, R418). -/
def State.partForm (s : State) (p : Part) : State :=
  let s := s.wrBit prtBase F.PRT_EXIST_EXIST p.val true
  let s := s.wr prtBase F.PRT_P_WAITDEF 0x1000 p.val
  let s := s.resetRange (mirBase + p.val * 0x80) (mirBase + p.val * 0x80 + 0x80)
  { s with mir := vupd s.mir p fun _ => MirRec.reset }

/-- What DISSOLVE clears (R367). -/
def State.partDissolve (s : State) (p : Part) : State :=
  let s := (s.wr brdmBase F.BRD_JOB_JOB 0 p.val).wr mmemBase F.MSE_SEED_SEED 0 p.val
  let s := s.wr (dbBase p) F.CXL_CQCFG_EN 0
  let s := (List.finRange 32).foldl (fun s b => if s.barPart b = p.val then s.wr mcastBase F.BRD_BARCFG_VALID 0 b.val else s) s
  let s := (s.wr mmemBase F.MSE_NORMRANGE_BASE 0 p.val).wr mmemBase F.MSE_NORMRANGE_COUNT 0 p.val
  s.wrBit prtBase F.PRT_EXIST_EXIST p.val false

/-- Steps 3 and 4 of an accepted command, once no affected core is in reset or fill: `PRT_MAP` names the new owner, the command reads
done, and PF0 vector 2 is sent (R367). -/
def State.partFinish (s : State) : State :=
  match s.partCmd with
  | some k =>
    if (k.clusters.flatMap coresOf).any (fun c => s.resetting c || (s.core c).fillEnd.isSome || (s.core c).wantFill) then s
    else
      let owner := if k.op = 3 then 0 else k.part
      let s := k.clusters.foldl (fun s c => s.wr prtBase F.PRT_MAP_OWNER owner c) s
      let s := if h : k.part < 16 then
          if k.op = 1 then s.partForm ⟨k.part, h⟩ else if k.op = 3 then s.partDissolve ⟨k.part, h⟩ else s
        else s
      let s := ({ s with partCmd := none }).countCores
      (s.wr prtBase F.PRT_CMDSTAT_STATE 2).msix 0 2
  | none => s

/-- A partition command with GO: rejected whole, or accepted, with the core resets of every affected cluster started (R366, R367); it waits while a
self-test of a core it affects runs (R25). A command rejected while another runs leaves STATE at 1, and shows in REASON alone (log entry 106). -/
def State.partRun (s : State) (op p clusters : Nat) : State :=
  let r := s.partCheck op p clusters
  if ((s.affected op p clusters).flatMap coresOf).any s.underTest then { s with held := s.held ++ [.command op p clusters] }
  else if r ≠ 0 then
    let s := if s.partCmd.isSome then s else s.wr prtBase F.PRT_CMDSTAT_STATE 3
    s.wr prtBase F.PRT_CMDSTAT_REASON r
  else
    let ks := s.affected op p clusters
    let cs := (ks.flatMap coresOf).filter fun c => s.enabled c && s.powered c
    let s := s.wr prtBase F.PRT_CMDSTAT_STATE 1
    let s := { s with partCmd := some ⟨op, p, ks⟩ }
    let s := s.sat rstBase F.RST_COUNTS_CORE (cs.filter fun c => !s.resetting c).length
    let s := s.resetCores cs true
    let s := cs.foldl (fun s c => s.onCore c fun r => { r with wantFill := true }) s
    s.partFinish

/-- A write of `PRT_CMD`; GO with OP 0 asks for nothing (R380). -/
def State.prtCmd (s : State) (v : Nat) : State :=
  let s := s.writeReg prtBase R.PRT_CMD 0 v
  if !v.testBit 23 || decide (bits v 0 3 = 0) then s else s.partRun (bits v 0 3) (bits v 3 4) (bits v 7 16)

/-- The value of `PRT_CMD` that asks for a command. -/
def prtWord (op p clusters : Nat) : Nat := op + p * 8 + clusters * 128 + 2 ^ 23

/-- PARTITION_FORM (R366, R367). -/
def execPartitionForm (f : Func) (p : Part) (clusters : BitVec 16) (s : State) : Host.Outcome State Fault Refusal :=
  .next (s.asPF0 f prtBase fun s => s.prtCmd (prtWord 1 p.val clusters.toNat))
/-- PARTITION_MOVE (R366, R367). -/
def execPartitionMove (f : Func) (p : Part) (clusters : BitVec 16) (s : State) : Host.Outcome State Fault Refusal :=
  .next (s.asPF0 f prtBase fun s => s.prtCmd (prtWord 2 p.val clusters.toNat))
/-- PARTITION_DISSOLVE (R366, R367). -/
def execPartitionDissolve (f : Func) (p : Part) (s : State) : Host.Outcome State Fault Refusal :=
  .next (s.asPF0 f prtBase fun s => s.prtCmd (prtWord 3 p.val 0))

/-- ZERO_FILL_COMPLETE: every zero-fill whose 4,160 cycles have passed ends, and the partition command whose cores are all usable
reports done with vector 2 (R196, R367). -/
def execZeroFillComplete (s : State) : Host.Outcome State Fault Refusal :=
  .next (
    let isOver (c : PCore) : Bool := match (s.core c).fillEnd with
      | some t => decide (t ≤ s.cycle)
      | none => false
    ((allCores.filter isOver).foldl (fun s c => s.onCore c fun r => { r with fillEnd := none }) s).partFinish)

end Sys2Proof.Machine
end

