-- ==== Sys2Proof/Machine/Cxl.lean ====
section
/-!
DEFINITION. The host port (R337 to R362): CXL.mem requests, back-invalidation, the device cache, HDM decoders, IDE, doorbells,
completion queues, posts, and the resets that CXL asks for.
-/
namespace Sys2Proof.Machine

/-! ### CXL.mem (R344 to R348) -/

/-- Whether CXL.mem is available: the port answers, its stream is not insecure, and a decoder is committed (R344, R358). -/
def State.cxlMemUp (s : State) : Bool := s.inService && s.cmOpen && s.hdm.toList.any (·.committed)

/-- CXL_MEM_READ: the host reads a line, and caches it where `grant` says so. Beyond the mapped capacity the read completes with
poisoned data (free values: the spec states none; R344, R345, R346). -/
def execCxlMemRead (tag line : Nat) (grant : Bool) (s : State) : Host.Outcome State Fault Refusal :=
  .next (if !s.cxlMemUp then s
    else if s.mapped (line * 64) then s.memSend ⟨.host tag line grant, 0x10, .read 64, line * 64⟩
    else
      let v := s.fresh
      v.2.emit (.memData tag (leBytes 64 (Config.freeValue v.1)) true true))

/-- CXL_MEM_WRITE: the host writes bytes of one line; the completion follows when the picot has applied them. Beyond the mapped
capacity the write is discarded (R344, R345, R348). -/
def execCxlMemWrite (tag addr : Nat) (data : List Byte) (poison : Bool) (s : State) : Host.Outcome State Fault Refusal :=
  .next (if !s.cxlMemUp || data.isEmpty || decide (addr % 64 + data.length > 64) then s
    else if s.mapped addr then s.memSend ⟨.host tag (addr / 64) false, 0x10, .write data poison, addr⟩
    else s.emit (.memData tag [] false true))

/-- BI_SNOOP_RESPONSE: the host answers the snoop of a line, and the data it has written back is applied; after an invalidating
snoop the host holds the line no more (R346). -/
def execBiSnoopResponse (line : Nat) (data : Option (List Byte)) (s : State) : Host.Outcome State Fault Refusal :=
  .next (if !s.cmOpen then s else match s.mem.snooped.find? fun e => e.line = line && !e.answered with
    | some e =>
      let s := match data with
        | some bs => s.hbmWrite (line * 64) (bs.take 64)
        | none => s
      if e.inv then
        ({ s with mem := { s.mem with snooped := s.mem.snooped.filter fun x => x.line ≠ line } }).untrack line
      else { s with mem := { s.mem with snooped := s.mem.snooped.map fun x => if x.line = line then { x with answered := true } else x } }
    | none => s)

/-- BI_SNOOP_TIMEOUT: no answer within `CXL_BILIMIT`; the line is marked, the filter entry dropped, and the waiting request may
proceed (R347, R396). -/
def execBiSnoopTimeout (line : Nat) (s : State) : Host.Outcome State Fault Refusal :=
  .next (match s.mem.snooped.find? fun e => e.line = line && !e.answered with
    | some e =>
      if e.since + limitOr 1000 (s.rd cxlBase F.CXL_BILIMIT_LIMIT) ≤ s.us then
        let s := s.markLine line true
        let s := ({ s with mem := { s.mem with snooped := s.mem.snooped.filter fun x => x.line ≠ line } }).untrack line
        let s := (s.setOn cxlBase F.CXL_ERR_BI_TIMEOUT).sat cxlBase F.CXL_ERRCNT_BI_TO_CNT
        s.errLog (errRec 1 0xD 0 0 0x10 0x12 0x1 0 (line * 64))
      else s
    | none => s)

/-- HOST_SNOOP: the device cache answers for a host line from clean state; an invalidating snoop drops the line (R349). -/
def execHostSnoop (line : Nat) (inv : Bool) (s : State) : Host.Outcome State Fault Refusal :=
  .next (if !s.cmOpen then s else
    let hit := s.hcache.any fun e => e.1 = line
    let s := if inv then { s with hcache := SMap.del line s.hcache } else s
    s.emit (.snoopAnswer line hit))

/-- HDM_DECODER_COMMIT: without BI Enable on the path the commit fails with Error Not Committed (R344). -/
def execHdmDecoderCommit (d : Fin 2) (s : State) : Host.Outcome State Fault Refusal :=
  .next (if !s.hostReady then s
    else
      let ok := s.on cxlBase F.CXL_LINK_BI_EN
      { s with hdm := vupd s.hdm d fun _ => ⟨ok, !ok⟩ })

/-- The place of a stream in `State.ide` (R358). -/
def ideIndex : IdeStream → Fin 6
  | .ioLink => 0
  | .ioSel n => ⟨n.val + 1, by omega⟩
  | .cm _ => 5

/-- A stream changes its state; IDE_IO shows CXL.io secure where some stream of it is and none is insecure, and IDE_CM shows the other one
(R358, R360; log entry 122). -/
def State.setIde (s : State) (i : Fin 6) (x : IdeState) : State :=
  let s := { s with ide := vupd s.ide i fun _ => x }
  let io := s.ide.toList.take 5
  (s.wr cxlBase F.CXL_LINK_IDE_IO (if io.contains .secure && !io.contains .insecure then 1 else 0)).wr cxlBase F.CXL_LINK_IDE_CM
    (if s.ide[5] = .secure then 1 else 0)

/-- IDE_INTEGRITY_FAILURE: a secure stream goes insecure: its flits are discarded until the host keys it again (R358, R396). -/
def execIdeIntegrityFailure (stream : IdeStream) (s : State) : Host.Outcome State Fault Refusal :=
  .next (
    if s.ide[(ideIndex stream)] ≠ .secure then s
    else ((s.setIde (ideIndex stream) .insecure).setOn cxlBase F.CXL_ERR_IDE_FAIL).errLog (errRec 0 0xD 0 0 0x10 0x14 0x1))

/-! ### Doorbells (R351, R387, R455) -/

/-- Whether a function reaches the doorbell page of a partition: PF0 every page, VF n that of an existing partition n − 1 (R341,
R342). -/
def State.doorOk (s : State) (f : Func) (p : Part) : Bool :=
  decide (f.val = 0) || (decide (f.val = p.val + 1) && s.exist p.val)

/-- A test of a scratchpad, accumulator or instruction-memory unit of one of a partition's cores is pending or running (R387). -/
def State.testsPending (s : State) (p : Nat) : Bool :=
  s.quar.any fun q =>
    let c := if q.unit = 0x2 then q.unitId / 4 else q.unitId
    (q.unit = 0x2 || q.unit = 0x4 || q.unit = 0x5) && if h : c < 64 then decide (s.partOf ⟨c, h⟩ = p) else false

/-- A doorbell's GO takes effect: every core in state 0 or 3 starts, the others are marked in GO_SKIPPED (R351, R455). -/
def State.doorGo (s : State) (p : Part) : State :=
  let cs := allCores.filter fun c => s.enabled c && decide (s.partOf c = p.val)
  let ready (c : PCore) : Bool :=
    (decide (s.seqState c = 0) || decide (s.seqState c = 3)) && !s.inReset c && (s.core c).fillEnd.isNone
  let skipped := (cs.filter fun c => !ready c).foldl (fun m c => m + 2 ^ (s.logicalOf c).getD 0) 0
  let s' := (cs.filter ready).foldl (fun s c => s.go c) s
  s'.wr (dbBase p) F.CXL_DBSTAT_GO_SKIPPED skipped

/-- A write of `CXL_DB` (R351): discarded and recorded, or COUNT is added and GO starts the cores, at the end of the pending
self-tests of the partition's cores where there are any (R387). PF0's write acts for the page's partition whatever `CXL_PFPART` holds (R342). -/
def State.doorbell (s : State) (f : Func) (p : Part) (v : Nat) : State :=
  let count := bits v 12 16
  let target := s.physOf (bits v 0 6)
  let outside := match target with
    | some c => decide (s.partOf c ≠ p.val)
    | none => true
  if !s.hostReady then s
  else if !s.doorOk f p || !s.exist p.val || s.partInReset p.val || (decide (count ≠ 0) && outside) then
    s.authRejectAs f .doorbell (dbBase p) (if f.val = 0 then p.val else (s.authority f).getD 0x10)
  else
    let s := match target with
      | some c => if count ≠ 0 then s.flagAddExt c (bits v 6 6) count else s
      | none => s
    if !v.testBit 28 then s
    else if s.testsPending p.val then { s with parts := vupd s.parts p fun r => { r with goHeld := true } }
    else s.doorGo p

/-- DOORBELL_COUNT: a write of `CXL_DB` whose COUNT is not zero (R351). -/
def execDoorbellCount (f : Func) (p : Part) (v : BitVec 64) (s : State) : Host.Outcome State Fault Refusal :=
  .next (if bits v.toNat 12 16 = 0 then s else s.doorbell f p v.toNat)
/-- DOORBELL_GO: a write of `CXL_DB` with GO set (R351). -/
def execDoorbellGo (f : Func) (p : Part) (v : BitVec 64) (s : State) : Host.Outcome State Fault Refusal :=
  .next (if v.toNat.testBit 28 then s.doorbell f p v.toNat else s)

/-! ### Completion queues (R352, R353, R361) -/

/-- Write what is held while there is room, then the record of those lost (R353). -/
def State.cqFlush (s : State) (p : Part) : Nat → State
  | 0 => s
  | n + 1 =>
    if !s.on (dbBase p) F.CXL_CQCFG_EN || !s.cqRoom p then s
    else
      match s.cqs[p].held with
      | r :: rs =>
        let s := ({ s with cqs := vupd s.cqs p fun q => { q with held := rs } }).wr (dbBase p) F.CXL_CQSTAT_HELD rs.length
        (s.cqWrite p r).cqFlush p n
      | [] =>
        if s.cqs[p].lost = 0 then s
        else
          let k := s.cqs[p].lost
          ({ s with cqs := vupd s.cqs p fun q => { q with lost := 0 } }).cqWrite p ⟨0x05, 0xFFFF, k, 0⟩

/-- Do `k` where a function reaches a doorbell page; refuse otherwise (R341, R342). -/
def State.asDoor (s : State) (f : Func) (p : Part) (addr : Nat) (k : State → State) : State :=
  if !s.hostReady then s else if s.doorOk f p then k s else s.authReject f .register addr

/-- A write of `CXL_CQCFG`: a SIZE outside 4 to 15 or a VEC above 119 discards it; EN zeroes head, tail and SEQNO, and the first
pass begins (R352, R361). -/
def State.cqCfg (s : State) (p : Part) (v : Nat) : State :=
  if bits v 2 4 < 4 ∨ bits v 6 7 > 119 then s
  else
    let b := dbBase p
    let s := s.writeReg b R.CXL_CQCFG 0 v
    if v.testBit 0 then
      let s := (s.wr b F.CXL_CQHEAD_HEAD 0).wr b F.CXL_CQTAIL_TAIL 0
      ({ s with cqs := vupd s.cqs p fun q => { q with phase := true, seqno := 0 } }).cqFlush p 65
    else s

/-- A write of `CXL_CQHEAD`: the host has consumed records, and held ones are written in order (R352, R353). -/
def State.cqHead (s : State) (p : Part) (v : Nat) : State := (s.writeReg (dbBase p) R.CXL_CQHEAD 0 v).cqFlush p 65

/-- CQ_CFG_WRITE (R352, R353, R361). -/
def execCqCfgWrite (f : Func) (p : Part) (v : BitVec 32) (s : State) : Host.Outcome State Fault Refusal :=
  .next (s.asDoor f p (dbBase p + 0x10) fun s => s.cqCfg p v.toNat)
/-- CQ_HEAD_WRITE (R352, R353). -/
def execCqHeadWrite (f : Func) (p : Part) (v : BitVec 32) (s : State) : Host.Outcome State Fault Refusal :=
  .next (s.asDoor f p (dbBase p + 0x18) fun s => s.cqHead p v.toNat)

/-- CXL_POST: a program's write of `CXL_POST` of its core's control slot (R354, R362). -/
def execCxlPost (c : PCore) (v : BitVec 64) (s : State) : Host.Outcome State Fault Refusal :=
  .next (s.post c v.toNat)

/-! ### Resets that CXL asks for (R343) -/

/-- The configuration state of every function takes its defaults. -/
def State.funcReset (s : State) : State := { s with funcs := Vector.replicate 17 FuncRec.reset, vfEnable := false }

/-- FLR_VF: the partition of a VF is reset where it exists, and the VF's configuration state (R343, R379). -/
def execFlrVf (p : Part) (s : State) : Host.Outcome State Fault Refusal :=
  .next (if !s.hostReady then s
    else
      let s := s.partReset p
      { s with funcs := vupd s.funcs ⟨p.val + 1, by omega⟩ fun _ => FuncRec.reset })

/-- Every partition is reset and every function takes its defaults. -/
def State.flrAll (s : State) : State := ((List.finRange 16).foldl (fun s p => s.partReset p) s).funcReset

/-- FLR_PF0 (R343). -/
def execFlrPf0 (s : State) : Host.Outcome State Fault Refusal := .next (if s.hostReady then s.flrAll else s)

/-- CXL_RESET: as FLR of PF0; every tracked line is back-invalidated before the filter is emptied, and the device cache is emptied; the
answers, with what the host writes back, are still taken (R343, R346). -/
def execCxlReset (s : State) : Host.Outcome State Fault Refusal :=
  .next (if !s.hostReady then s
    else
      let s := s.flrAll
      let s := (s.mem.filter.map Prod.fst).foldl (fun s l => s.snoop l true) s
      ({ s with hcache := [], mem := { s.mem with filter := [] } }).sfCount)

/-- CXL_LINK_DOWN: a hot reset or a link that goes down resets the module (R343, R381). -/
def execCxlLinkDown (s : State) : Host.Outcome State Fault Refusal := .next (s.moduleReset 2)

end Sys2Proof.Machine
end

