-- ==== Sys2Proof/Machine/Errors.lean ====
section
/-!
DEFINITION. Errors and self-test (R382 to R399): the self-tests of quarantined units and their lasting actions, the patrol of
scratchpads and accumulators, lane margins, the hour, and the fatal errors of a stack and of a control processor.
-/
namespace Sys2Proof.Machine

/-! ### Units under quarantine -/

/-- The physical core and engine of a record's UNIT_ID (R395). -/
def QuarRec.core (q : QuarRec) : PCore := ⟨(if q.unit = 0x1 ∨ q.unit = 0x2 then q.unitId / 4 else q.unitId) % 64, Nat.mod_lt _ (by omega)⟩
def QuarRec.eng (q : QuarRec) : Eng := ⟨q.unitId % 4, Nat.mod_lt _ (by omega)⟩

/-- Whether an engine has no pass whose fold is incomplete and no drain request running (R390). -/
def State.engQuiet (s : State) (c : PCore) (e : Eng) : Bool :=
  (s.eng c e).issued.isEmpty && (s.drn c e).run.isNone && (s.drn c e).ended.isEmpty

/-- Whether another core's bobbin still has to read a core's scratchpad (R390). -/
def State.readRemotely (s : State) (c : PCore) : Bool :=
  allCores.any fun k => (List.finRange 2).any fun b => (s.bob k b).reqs.any fun q => !q.done && q.unread.any fun p => match p.1 with
    | .remSpad n _ => decide (n = c.val)
    | _ => false

/-- The point at which a unit may be tested, spared or retired (R25, R387, R390, R398): an engine without work; a core not in state 1, in no reset
or zero-fill, without a window arrival or a remote read outstanding; a stack page whose copy is over; a lane is out of its port already. -/
def State.testPoint (s : State) (q : QuarRec) : Bool :=
  if q.unit = 0x1 then s.engQuiet q.core q.eng && !s.resetting q.core
  else if q.unit = 0x9 then
    if h : q.unitId < 20 then decide ((s.mem.perStack[(⟨q.unitId, h⟩ : Stack)].retire.map Prod.fst) ≠ some q.loc) else true
  else if q.unit = 0xB then true
  else decide (s.seqState q.core ≠ 1) && !s.resetting q.core && (s.core q.core).fillEnd.isNone && (s.core q.core).landing.isEmpty &&
    !s.readRemotely q.core && (q.unit ≠ 0x2 || s.engQuiet q.core q.eng)

/-- The point at which a unit's test starts: a memory of a core is tested after the task's end or abort, so not in state 2 either (R386,
R387). -/
def State.startPoint (s : State) (q : QuarRec) : Bool :=
  s.testPoint q && (q.unit = 0x1 || q.unit = 0x9 || q.unit = 0xB || decide (s.seqState q.core ≠ 2))

/-- What a test shows where an error came in the unit while it ran: it fails, for an engine at the row of the error (R398). -/
def QuarRec.shows (q : QuarRec) (r : TestResult) : TestResult :=
  if q.again && decide (r = .pass) then .failRow ⟨q.loc % 128, Nat.mod_lt _ (by omega)⟩ else r

/-- The duration of a unit's test in microseconds, with the two copies of 4,096 core cycles for a core's memories (R386, R387). -/
def State.testTime (s : State) (q : QuarRec) : Nat :=
  if q.unit = 0x1 then 20 else if q.unit = 0xB then 10000 else if q.unit = 0x9 then 1000
  else 50 + ceilDiv (8192 * s.rd clkBase F.CLK_STATUS_CORE_DIV) 7520

/-- SELF_TEST_START: the self-test of the `i`-th unit under quarantine starts at its start point (R386). -/
def execSelfTestStart (i : Nat) (s : State) : Host.Outcome State Fault Refusal :=
  .next (match s.quar[i]? with
    | some q =>
      if q.started.isNone && q.failed.isNone && s.startPoint q then
        let s := if q.shut then s else s.sat errBase F.ERR_STATUS_QUARANTINED
        let s := { s with quar := s.quar.set i { q with started := some s.us, shut := true } }
        s.wr errBase F.ERR_STATUS_PENDING (s.rd errBase F.ERR_STATUS_PENDING - 1)
      else s
    | none => s)

/-! ### What follows a test -/

/-- The record of a self-test: the error's class, unit, location and cause, the outcome, and the SEQNO of the error tested (R394). -/
def State.testRecord (s : State) (q : QuarRec) (passed : Bool) (action : Nat) : State :=
  s.logWrite (errRec q.cls q.unit q.unitId q.loc 0x10 q.cause action (if passed then 1 else 2) q.seqno)

/-- An engine is disabled (R22, R386). -/
def State.engDisable (s : State) (c : PCore) (e : Eng) : State :=
  let s := (s.wr (opeBase c e) F.OPE_STATUS_STATE 6).sat errBase F.ERR_SPARE_ENG_DIS
  { s with boot := { s.boot with repair := { s.boot.repair with engines := s.boot.repair.engines ++ [engId c e] } } }

/-- A core is reported down; a cluster whose cores are all down loses its power (R22, R123, R423). -/
def State.coreDown (s : State) (c : PCore) : State :=
  let s := { s with coresDown := putBit s.coresDown c.val true }
  let s := (s.wr (coreBase c) F.SEQ_STATUS_STATE 5).sat errBase F.ERR_SPARE_CORES_DOWN
  let k := clusterOf c
  let s := if allCores.all fun d => clusterOf d ≠ k || !s.enabled d || s.coresDown.testBit d.val then s.wrBit pwrBase F.PWR_PDSTAT_ON k.val false
    else s
  { s with boot := { s.boot with repair := { s.boot.repair with cores := s.boot.repair.cores ++ [c.val] } } }

/-- A quarantined engine issues again; one that was asked to pre-empt meanwhile does so now, and one disabled meanwhile stays so (R22, R48,
R386). -/
def State.engReturn (s : State) (c : PCore) (e : Eng) : State :=
  if s.engState c e ≠ 5 then s
  else
    let s := s.wr (opeBase c e) F.OPE_STATUS_STATE 0
    if (s.eng c e).askedStop then (s.onEng c e fun r => { r with askedStop := false }).preempt c e else s

/-- A spare bank of a core has failed: the repair record names it as bank 64 (R398). -/
def State.spareFails (s : State) (c : PCore) : State :=
  { s with boot := { s.boot with repair := { s.boot.repair with banks := s.boot.repair.banks ++ [(c.val, 64)] } } }

/-- The spare banks of a core that are in service or have failed (R177, R398). -/
def State.sparesGone (s : State) (c : PCore) : Nat :=
  s.rd (spdBase c) F.SPD_SPARE_USED + (s.boot.repair.banks.filter fun b => b = (c.val, 64)).length

/-- The lasting action for a unit that failed, and its ACTION code (R386, R388, R397): a spare row or bank where one is left; a spare bank
that failed while the bank was copied to it is passed over (R398). -/
def State.lasting (s : State) (q : QuarRec) (r : TestResult) : State × Nat :=
  let c := q.core
  let e := q.eng
  match q.unit with
  | 0x1 =>
    let b := opeBase c e
    let n := s.rd b F.OPE_STATUS_SPARES_USED
    match r with
    | .failRow row =>
      if n ≥ 2 then (s.engDisable c e, 0x8)
      else
        let p := s.physRow c e row.val
        let s := s.wr b (if n = 0 then F.OPE_STATUS_SPARE_ROW_A else F.OPE_STATUS_SPARE_ROW_B) p
        let s := ((s.wr b F.OPE_STATUS_SPARES_USED (n + 1)).engReturn c e).sat errBase F.ERR_SPARE_ROWS
        ({ s with boot := { s.boot with repair := { s.boot.repair with rows := s.boot.repair.rows ++ [(engId c e, p)] } } }, 0x4)
    | _ => (s.engDisable c e, 0x8)
  | 0x5 =>
    let b := spdBase c
    let n := s.rd b F.SPD_SPARE_USED
    let s := if r = .failCopy then s.spareFails c else s
    if s.sparesGone c ≥ 2 then (s.coreDown c, 0x9)
    else
      let s := s.wr b (if n = 0 then F.SPD_SPARE_BANK_A else F.SPD_SPARE_BANK_B) (q.loc % 64)
      let s := (s.wr b F.SPD_SPARE_USED (n + 1)).sat errBase F.ERR_SPARE_BANKS
      ({ s with boot := { s.boot with repair := { s.boot.repair with banks := s.boot.repair.banks ++ [(c.val, q.loc % 64)] } } }, 0x5)
  | 0x2 => (s.engDisable c e, 0x8)
  | 0x4 => (s.coreDown c, 0x9)
  | 0xB => (s.sat errBase F.ERR_HOURCUR_LANE_RET, 0x6)
  | 0x9 => ({ s with boot := { s.boot with repair := { s.boot.repair with pages := s.boot.repair.pages ++ [(q.unitId, q.loc)] } } }, 0x7)
  | _ => (s, 0)

/-- A unit that passed returns to service: an engine issues again, a lane's port retrains with it, or trains where no width was left to it, an old page
joins the spares (R386, R388). -/
def State.returned (s : State) (q : QuarRec) : State :=
  if q.unit = 0x1 then s.engReturn q.core q.eng
  else if q.unit = 0xB then
    if h : q.unitId < 24 then
      let p : Port := ⟨q.unitId, h⟩
      let s := s.onPort p fun r => { r with good := putBit r.good q.loc true, trial := putBit r.trial q.loc true }
      if s.portUp p.val then s.retrain p else if s.rd (brdBase p) F.BRD_STATUS_STATE = 5 then s.trainStart p else s
    else s
  else if q.unit = 0x9 then
    if h : q.unitId < 20 then
      ({ s with mem := { s.mem with perStack := vupd s.mem.perStack ⟨q.unitId, h⟩ fun t => { t with freed := t.freed + 1 } } }).stackShow ⟨q.unitId, h⟩
    else s
  else s

/-- The host commands that waited for a self-test act, in their order, but for those that name a core still under test (R25). -/
def State.runHeld (s : State) : State :=
  s.held.foldl (fun s h => match h with
    | .go c => s.hostGo c
    | .reset scope target => s.rstRequest scope target
    | .part p => if h : p < 16 then s.partReset ⟨p, h⟩ else s
    | .command op p clusters => s.partRun op p clusters) { s with held := [] }

/-- A doorbell GO of a core's partition that waited takes effect once no test of the partition is left (R387). -/
def State.goWaited (s : State) (c : PCore) : State :=
  match (List.finRange 16).find? fun p => decide (p.val = s.partOf c) with
  | some p =>
    if s.parts[p].goHeld && !s.testsPending p.val then
      ({ s with parts := vupd s.parts p fun r => { r with goHeld := false } }).doorGo p
    else s
  | none => s

/-- The unit leaves quarantine; a change of its state updates the report, host commands that waited act, and a doorbell GO that waited takes
effect once no test of its partition is left (R25, R386, R387, R436). -/
def State.release (s : State) (i : Nat) (q : QuarRec) (changed : Bool) : State :=
  let s := { s with quar := s.quar.eraseIdx i }
  let s := s.wr errBase F.ERR_STATUS_QUARANTINED (s.rd errBase F.ERR_STATUS_QUARANTINED - 1)
  ((if changed then s.reportChange else s).runHeld).goWaited q.core

/-- Take the lasting action of the `i`-th unit, at a point where no ordering promise is pending on it (SPARE_TAKE; R390). -/
def State.spareTake (s : State) (i : Nat) (q : QuarRec) (r : TestResult) : State :=
  if !s.testPoint q then s
  else
    let x := s.lasting q r
    ((x.1).testRecord q false x.2).release i q true

/-- SELF_TEST_END: the `i`-th unit's test is over; it returns to service, or its lasting action follows, at once where the point of
R390 is met (R386). -/
def execSelfTestEnd (i : Nat) (r : TestResult) (s : State) : Host.Outcome State Fault Refusal :=
  .next (match s.quar[i]? with
    | some q =>
      match q.started with
      | some t =>
        if q.failed.isSome || decide (s.us < t + s.testTime q) then s
        else
          match q.shows r with
          | .pass => ((s.returned q).testRecord q true 0x3).release i q false
          | r =>
            let q' := { q with failed := some r }
            ({ s with quar := s.quar.set i q' }).spareTake i q' r
      | none => s
    | none => s)

/-- SPARE_TAKE: the lasting action of the `i`-th unit, which failed its test, is taken at its point (R390). -/
def execSpareTake (i : Nat) (s : State) : Host.Outcome State Fault Refusal :=
  .next (match s.quar[i]? with
    | some q => match q.failed with
      | some r => s.spareTake i q r
      | none => s
    | none => s)

/-! ### In-service tests (R391) -/

/-- The lines of a scratchpad and the rows of a core's accumulators, in the order of the patrol. -/
def patrolSpan : Nat := 196608 + 4 * 4096

/-- One more upset at place `k` of a list of places in error: a second in the same word makes two bits (R96, R177). -/
def addUpset (l : List (Nat × Bool)) (k : Nat) (double : Bool) : List (Nat × Bool) :=
  (l.filter fun b => decide (b.1 ≠ k)) ++ [(k, double || l.any fun b => decide (b.1 = k))]

/-- A bit of an 8-byte word of a scratchpad flips, two where `double` (R177). -/
def State.wordUpset (s : State) (c : PCore) (word : Nat) (double : Bool) : State :=
  s.onCore c fun r => { r with spadBad := addUpset r.spadBad word double }

/-- A bit of a word pair of an accumulator row flips, two where `double` (R96). -/
def State.rowUpset (s : State) (c : PCore) (e : Eng) (row pair : Nat) (double : Bool) : State :=
  s.onCore c fun r => { r with accBad := addUpset r.accBad ((e.val * 4096 + row) * 64 + pair) double }

/-- An upset of an accumulator row, or an uncorrectable error in an instruction: that is recorded, and its bank quarantined and tested (R386). -/
def State.memUpset (s : State) (u : MemUpset) : State :=
  match u with
  | .acc c e row pair double => s.rowUpset c e row.val pair.val double
  | .imem c i => s.errMarked 0x4 c.val i.val (s.partOf c) 0

/-- The patrol reads and writes back a line or row: a single-bit error is corrected and counted, a double-bit one marks the line or half (R96,
R177, R391). -/
def State.patrolRead (s : State) (c : PCore) (place : Nat) : State :=
  if place < 196608 then s.spadMeet c (place * 64) 64
  else s.accMeet c ⟨(place - 196608) / 4096 % 4, Nat.mod_lt _ (by omega)⟩ ((place - 196608) % 4096)

/-- SCRATCHPAD_PATROL: after the upsets that have come since the last (log entry 93), the patrol takes its next line or row; after the last of
core 63 a sweep is complete (R96, R177, R391). -/
def execScratchpadPatrol (words : List (PCore × Fin 1572864 × Bool)) (rows : List MemUpset) (s : State) :
    Host.Outcome State Fault Refusal :=
  let s := words.foldl (fun s (c, w, double) => s.wordUpset c w.val double) s
  let s := rows.foldl State.memUpset s
  .next (if !s.on errBase F.ERR_CTRL_IST_EN then s
    else
      let i := s.patrolAt
      let c : PCore := ⟨i / patrolSpan % 64, Nat.mod_lt _ (by omega)⟩
      let s := if !s.enabled c || s.inReset c then s else s.patrolRead c (i % patrolSpan)
      let next := if i + 1 < 64 * patrolSpan then i + 1 else 0
      let s := { s with patrolAt := next }
      if next = 0 then s.sat errBase F.ERR_IST_SWEEPS else s)

/-- LANE_MARGIN_CHECK: an active lane's projected pre-FEC BER, as −16 × log10: below 96 the margin is low, below 58 the lane is dropped
(R293, R314, R391, R396). -/
def execLaneMarginCheck (p : Port) (lane : Fin 8) (code : BitVec 8) (s : State) : Host.Outcome State Fault Refusal :=
  .next (if !s.on errBase F.ERR_CTRL_IST_EN || !s.portUp p.val || !s.rdBit (brdBase p) F.BRD_STATUS_LANES lane.val then s
    else if code.toNat < 58 then (s.laneDrop p lane.val 0x0C).retrain p
    else if code.toNat < 96 then s.errLog (errRec 0 0xB p.val lane.val 0x10 0x1E 0x1)
    else s)

/-! ### The hour, and fatal errors of units -/

/-- ERROR_HOUR_ROLLOVER: an hour since the last one has passed; `ERR_HOURCUR` is copied and starts again (R399). -/
def execErrorHourRollover (s : State) : Host.Outcome State Fault Refusal :=
  .next (if s.us < s.hourAt + 3600000000 then s
    else
      let s := s.wr errBase F.ERR_HOURLAST_ALL (s.readReg errBase R.ERR_HOURCUR 0)
      let s := [F.ERR_HOURCUR_CORR, F.ERR_HOURCUR_CONTAINED, F.ERR_HOURCUR_LANE_RET, F.ERR_HOURCUR_RETRAIN].foldl
        (fun s f => s.wr errBase f 0) s
      { s with corrHour := [], hourAt := s.hourAt + 3600000000 })

/-- STACK_LOST: a stack fails in service (R249, R396). -/
def execStackLost (k : Stack) (s : State) : Host.Outcome State Fault Refusal := .next (s.fatal 0x9 k.val 0 0x18 0)

/-- CONTROL_PROCESSOR_FAULT: a die's control processor, or the security engine, faults (R396). -/
def execControlProcessorFault (d : Die) (s : State) : Host.Outcome State Fault Refusal := .next (s.fatal 0xF d.val 0 0x19 0)

end Sys2Proof.Machine
end

