-- ==== Sys2Proof/Machine/Mirror.lean ====
section
/-!
DEFINITION. Mirroring at the source (R400 to R412): enabling, the completion of cuts, sending an epoch, its answers, failure and
release, and restoring in place.
-/
namespace Sys2Proof.Machine

/-! ### Packets of the mirror class and its answers (R406, R408) -/

/-- ADDR of a mirror packet. -/
def mirAddr (page gran part kind epoch : Nat) : Nat :=
  page % 2 ^ 20 + gran % 2 ^ 9 * 2 ^ 20 + part % 8 * 2 ^ 29 + kind % 4 * 2 ^ 32 + epoch % 2 ^ 14 * 2 ^ 34

/-- ADDR of an answer, release, confirmation or request. -/
def ansAddr (status epoch page kind : Nat) : Nat :=
  status % 256 + epoch % 2 ^ 14 * 2 ^ 8 + page % 2 ^ 20 * 2 ^ 22 + kind % 8 * 2 ^ 42

/-- A mirror packet to module `dst` for a job. -/
def mirPacket (dst sunit job addr : Nat) (data : List Byte) (poison : Bool) : Packet :=
  ⟨dst, 0, sunit, job, 8, 0, poison, units data.length, 0, addr, data⟩

/-- An answer packet. -/
def ansPacket (dst job addr : Nat) : Packet := ⟨dst, 0, 85, job, 7, 0, false, 0, 0, addr, []⟩

/-- The 64 bytes of a digest, and the SHA-512 digest of some bytes (R406). -/
def digestBytes (d : Nat) : List Byte := leBytes 64 d
@[inherit_doc digestBytes] def digestOf (bs : List Byte) : Nat := sha512 bs

/-- The digest of a page from its granules' digests, in order. -/
def pageDigest (ds : List Nat) : Nat := digestOf (ds.flatMap digestBytes)

/-- The lines of the 2 MiB page at a local page number. -/
def pageLines (g : Nat) : List Nat := (List.range 32768).map (· + g * 32768)

/-- The digest of 2 MiB at a local address. -/
def State.digestAt (s : State) (a : Nat) : Nat := pageDigest ((List.range 512).map fun g => digestOf (s.hbmBytes (a + g * 4096) 4096))

/-- Whether a packet can leave for a module now. -/
def State.reachable (s : State) (dst sunit : Nat) : Bool := decide (dst = s.modId) || (s.routeOf dst s.modId sunit).isSome

/-! ### A manifest (R407) -/

/-- What a manifest says; `range` is the base of the norm range where the manifest carries norms. -/
structure Manifest where
  epoch : Nat
  step  : Nat
  seed  : Nat
  hold  : Bool
  pages : List Nat
  range : Option Nat
  norms : List (Nat × NormEnt)
  deriving DecidableEq, Repr

/-- A norm entry of 32 bytes. -/
def normOf (bs : List Byte) : NormEnt :=
  let f (i n : Nat) : Nat := leNat ((bs.drop i).take n)
  ⟨BitVec.ofNat 48 (f 0 8), f 8 8, f 16 4, f 20 4, f 24 4⟩

/-- The bytes of a manifest. -/
def Manifest.bytes (m : Manifest) : List Byte :=
  leBytes 8 (m.epoch % 2 ^ 48) ++ leBytes 8 m.step ++ leBytes 8 m.seed ++ leBytes 4 m.pages.length ++
    leBytes 1 ((if m.hold then 1 else 0) + (if m.range.isSome then 2 else 0)) ++ leBytes 3 0 ++
    leBytes 2 (m.range.getD 0) ++ leBytes 2 m.norms.length ++ leBytes 28 0 ++
    m.pages.flatMap (leBytes 4) ++ m.norms.flatMap fun e => e.2.bytes

/-- The manifest that bytes spell. -/
def manifestOf (bs : List Byte) : Manifest :=
  let f (i n : Nat) : Nat := leNat ((bs.drop i).take n)
  let n := f 24 4
  let normed := (f 28 1).testBit 1
  let norms := if normed then f 34 2 else 0
  { epoch := f 0 8 % 2 ^ 48, step := f 8 8, seed := f 16 8, hold := (f 28 1).testBit 0
    pages := (List.range n).map fun i => f (64 + 4 * i) 4
    range := if normed then some (f 32 2) else none
    norms := (List.range norms).map fun i => (f 32 2 + i, normOf ((bs.drop (64 + 4 * n + 32 * i)).take 32)) }

/-- The chunks of a manifest: 512 B each (R406). -/
def chunksOf (bs : List Byte) : List (List Byte) := (List.range (ceilDiv bs.length 512)).map fun i => (bs.drop (512 * i)).take 512

/-- The bytes of the chunks that have arrived, in order; `none` while one is missing. -/
def joinChunks (cs : SMap (List Byte)) : Option (List Byte) :=
  let head := SMap.get [] cs 0
  if head.length < 64 then none
  else
    let f (i n : Nat) : Nat := leNat ((head.drop i).take n)
    let total := 64 + 4 * f 24 4 + (if (f 28 1).testBit 1 then 32 * f 34 2 else 0)
    let k := ceilDiv total 512
    if (List.range k).all fun i => cs.any fun e => e.1 = i then
      some (((List.range k).flatMap fun i => SMap.get [] cs i).take total)
    else none

/-- Send a manifest's chunks. -/
def State.sendManifest (s : State) (dst job epoch : Nat) (bs : List Byte) : State :=
  (chunksOf bs).zipIdx.foldl (fun s (c, i) => s.sendPacket (mirPacket dst 85 job (mirAddr i 0 0 2 epoch) c false)) s

/-! ### Enabling and disabling (R400, R401, R415) -/

/-- The mirrored pages of a partition: those it owns with MIRROR set. -/
def State.mirrored (s : State) (p : Nat) : List Nat := (s.mem.owners.filter fun e => e.2 = p + 32).map Prod.fst

/-- Set or clear the whole current bitmap of a partition, and clear the closing one. -/
def State.setBitmaps (s : State) (p : Nat) (all : Bool) : State :=
  let s := s.dropClosing p
  let m := SMap.wipe (fun k => k / 2 ^ 20 = p) s.mem.dirty
  { s with mem := { s.mem with
    dirty := if all then (s.mirrored p).foldl (fun m g => SMap.set false m (dirtyKey p g) true) m else m } }

/-- A partner's limit in microseconds: ACKLIMIT ms, 0 treated as 100 (R418). -/
def State.ackLimit (s : State) (p : Nat) : Nat := limitOr 100 (s.rd mirBase F.MIR_PARTNER_ACKLIMIT p) * 1000

/-- An epoch in transit fails because mirroring ends; its status is none of R409's and LASTSTAT stays. -/
def State.epochStop (s : State) (p : Part) : State :=
  let last := s.rd mirBase F.MIR_COMMIT_LASTSTAT p.val
  (s.epochFail p 0).wr mirBase F.MIR_COMMIT_LASTSTAT last p.val

/-- A write of `MIR_CFG`: while EN is 1 only a write that clears EN is taken; EN = 1 needs the licence and a reserve of unowned
pages, and starts with every bit set, or, with ADOPT and a store whose committed epoch `have_` is this module's, with none (R400,
R401, R415). -/
def State.mirCfg (s : State) (p : Part) (v have_ : Nat) : State :=
  let en := s.on mirBase F.MIR_CFG_EN p.val
  if en && v.testBit 0 then s
  else if en then
    let s := (s.epochStop p).setBitmaps p.val false
    let s := s.onMir p fun m => { m with restore := none }
    let s := if s.rd mirBase F.MIR_RESTSTAT_STATE p.val = 1 then
        (s.wr mirBase F.MIR_RESTSTAT_STATE 3 p.val).wr mirBase F.MIR_RESTSTAT_REASON 1 p.val else s
    (s.writeReg mirBase R.MIR_CFG p.val v).wr mirBase F.MIR_STATE_STATE 0 p.val
  else if !v.testBit 0 then s.writeReg mirBase R.MIR_CFG p.val v
  else
    let base := s.rd mirBase F.MIR_RESBASE_BASE p.val
    let owned := (List.range (bits v 16 20)).any fun i => s.ownerOf (base + i) ≠ 0x10
    if !s.licensed 4 || owned then s
    else
      let s := s.writeReg mirBase R.MIR_CFG p.val v
      let adopt := s.on mirBase F.MIR_CFG_ADOPT p.val && decide (have_ = s.rd mirBase F.MIR_COMMIT_EPOCH p.val) && decide (have_ ≠ 0)
      (s.setBitmaps p.val (!adopt)).wr mirBase F.MIR_STATE_STATE 1 p.val

/-- MIRROR_ENABLE: the host writes `MIR_CFG` with EN set; `have_` is the committed epoch the partner's store reports (R400, R401). -/
def execMirrorEnable (f : Func) (p : Part) (v : BitVec 64) (have_ : Nat) (s : State) : Host.Outcome State Fault Refusal :=
  .next (if v.toNat.testBit 0 then s.asPF0 f mirBase fun s => s.mirCfg p v.toNat have_ else s)

/-- MIRROR_DISABLE: the host clears EN (R400). -/
def execMirrorDisable (f : Func) (p : Part) (s : State) : Host.Outcome State Fault Refusal :=
  .next (s.asPF0 f mirBase fun s => s.mirCfg p (s.readReg mirBase R.MIR_CFG p.val / 2 * 2) 0)

/-! ### The completion of a cut (R159, R403, R404) -/

/-- The EPOCH of the markers at the heads of all eight queues of a core, where they agree. -/
def State.cutHeads (s : State) (c : PCore) : Option Nat :=
  let r := s.core c
  let heads := (List.finRange 8).map fun q => match r.queues[q] with
    | .marker e _ :: _ => if r.headAt[q] ≤ s.cycle then some e else none
    | _ => none
  match heads with
  | some e :: rest => if rest.all (· = some e) then some e else none
  | _ => none

/-- Whether the cut of a partition's task is complete but for the picots: every core runs with its markers at its heads and
everything before them done, or has ended; the same EPOCH everywhere (R159). -/
def State.cutReady (s : State) (p : Nat) : Bool :=
  let cs := s.taskCores p
  let run := cs.filter fun c => s.seqState c = 1
  !run.isEmpty && cs.all (fun c => s.seqState c ≠ 2) &&
    run.all fun c => (s.cutHeads c).isSome && decide (s.cutHeads c = (run.head?.bind s.cutHeads)) &&
      ((List.finRange 9).all fun u => s.queueSettled c u) && !s.memBusy c

/-- The lowest logical core's step (R403). -/
def State.cutStep (s : State) (p : Nat) : Nat :=
  let cs := (s.taskCores p).filter fun c => s.seqState c = 1 || s.seqState c = 3
  match s.physOf (s.lowestLogical cs) with
  | some c => s.rd (coreBase c) F.SEQ_RNGPOS_STEP
  | none => 0

/-- The norm entries of a partition's range (R263, R403). -/
def State.normRange (s : State) (p : Nat) : List (Nat × NormEnt) :=
  let b := s.rd mmemBase F.MSE_NORMRANGE_BASE p
  (List.range (s.rd mmemBase F.MSE_NORMRANGE_COUNT p)).map fun i => (b + i, s.normEnt (b + i))

/-- The picots exchange a partition's bitmaps and the epoch begins its transfer (EPOCH_BITMAP_EXCHANGE; R267, R403). -/
def State.sealStart (s : State) (p : Part) (num : Nat) : State :=
  let pages := pagesIn s.mem.dirty p.val
  let e : Epoch := {
    num := num
    step := s.cutStep p.val
    seed := s.rd mmemBase F.MSE_SEED_SEED p.val
    norms := if s.on mirBase F.MIR_CFG_NORMS p.val then s.normRange p.val else []
    pages := pages
    digs := []
    done := []
    doneAt := s.us
    sentAt := none
    progress := s.us
    verified := false
    captures := 0 }
  let s := { s with mem := { s.mem with
    closing := pages.foldl (fun m g => SMap.set false m (dirtyKey p.val g) true) s.mem.closing
    dirty := SMap.wipe (fun k => k / 2 ^ 20 = p.val) s.mem.dirty } }
  (s.onMir p fun m => { m with epoch := some e }).wr mirBase F.MIR_STATE_STATE 2 p.val

/-- CUT_COMPLETE: all markers of the cut leave, NEXT rises, and with mirroring enabled the epoch's set is closed; while an earlier epoch
is in transit the cut waits, and with the partner lost it is a barrier (R159, R403, R404, R410). -/
def execCutComplete (p : Part) (s : State) : Host.Outcome State Fault Refusal :=
  .next (
    let mirroring := s.on mirBase F.MIR_CFG_EN p.val && decide (s.rd mirBase F.MIR_STATE_STATE p.val ≠ 5)
    if !s.cutReady p.val || (mirroring && s.mir[p].epoch.isSome) then s
    else
      let num := s.rd mirBase F.MIR_EPOCH_NEXT p.val
      let s := if mirroring then s.sealStart p num else s
      let s := ((s.taskCores p.val).filter fun c => s.seqState c = 1).foldl
        (fun s c => (List.finRange 8).foldl (fun s q => s.popQ c q) s) s
      let s := s.wr mirBase F.MIR_EPOCH_NEXT (num + 1) p.val
      let cut := min (s.us - (s.mir[p].cutStart.getD s.us)) 65535
      (s.wr mirBase F.MIR_LAST_CUT_US cut p.val).onMir p fun m => { m with cutStart := none })

/-! ### Sending an epoch (R405 to R407) -/

/-- The partner of a partition. -/
def State.partner (s : State) (p : Nat) : Nat := s.rd mirBase F.MIR_PARTNER_MODULE p

/-- The stack that holds a granule of a page. -/
def State.granStack (s : State) (page g : Nat) : Nat := ((s.locate (page * pageSize + g * 4096)).map Prod.fst).getD 0

/-- Whether a partition's epoch has sent a granule. -/
def State.sentGran (s : State) (p : Part) (page g : Nat) : Bool := SMap.get false s.mem.granSent (sentKey p.val (page * 512 + g))

/-- The next granule a stack's picot sends: its first unsent one in ascending page order; the picot that holds granule 0 of a page goes
on to the next page only after that page's digest (R406). -/
def State.nextGran (s : State) (p : Part) (e : Epoch) (k : Stack) : Option (Nat × Nat) :=
  let open_ := e.pages.filter fun g => !e.done.contains g
  let find (page : Nat) : Option (Nat × Nat) :=
    ((List.range 512).find? fun g => decide (s.granStack page g = k.val) && !s.sentGran p page g).map fun g => (page, g)
  let upTo := match open_.find? fun page => s.granStack page 0 = k.val with
    | some page => open_.filter fun g => g ≤ page
    | none => open_
  upTo.findSome? find

/-- The bytes of a granule as the epoch's: captured lines from the reserve, the others from the page (R406). -/
def State.granBytes (s : State) (p : Part) (page g : Nat) : List (List Byte × Bool) :=
  (List.range 64).map fun i =>
    let line := page * 32768 + g * 64 + i
    match s.mem.captured.find? fun e => e.1 = capKey p.val line with
    | some e => e.2
    | none => (s.hbmBytes (line * 64) 64, s.hbmPoisoned (line * 64) 64)

/-- Send the eight parts of a granule. -/
def State.sendGran (s : State) (dst sunit job page g epoch : Nat) (ls : List (List Byte × Bool)) : State :=
  (List.range 8).foldl (fun s i =>
    let part := (ls.drop (8 * i)).take 8
    s.sendPacket (mirPacket dst sunit job (mirAddr page g i 0 epoch) (part.flatMap Prod.fst) (part.any Prod.snd))) s

/-- GRANULE_SEND: stack `k`'s picot sends its next granule of the epoch of partition `p` and frees its slot; a page's last granule is
followed by the page digest (R405, R406). Lines that no capture holds are read from the page once the host has given up those it holds changed (R346);
`q.ecc` is what these reads find (R246). -/
def execGranuleSend (p : Part) (q : Served) (s : State) : Host.Outcome State Fault Refusal :=
  .next (match s.mir[p].epoch with
    | none => s
    | some e =>
      let dst := s.partner p.val
      let job := s.jobOf p.val
      if s.rd mirBase F.MIR_STATE_STATE p.val ≠ 2 || !s.reachable dst (64 + q.stack.val) then s
      else
        match s.nextGran p e q.stack with
        | none => s
        | some (page, g) =>
          let lines := ((List.range 64).map fun i => page * 32768 + g * 64 + i).filter fun l =>
            (s.mem.captured.find? fun x => x.1 = capKey p.val l).isNone
          let gate := s.snoopGateL lines false
          if !gate.2 then gate.1
          else
          let s := gate.1.linesEcc lines q.ecc
          let ls := s.granBytes p page g
          let s := s.sendGran dst (64 + q.stack.val) job page g e.num ls
          let digs := SMap.put (page * 512 + g) (digestOf (ls.flatMap Prod.fst)) e.digs
          let s := { s with mem := { s.mem with
            granSent := SMap.set false s.mem.granSent (sentKey p.val (page * 512 + g)) true
            captured := SMap.wipe (fun l => l / 64 = sentKey p.val (page * 512 + g)) s.mem.captured } }
          if (List.range 512).all fun g => s.sentGran p page g then
            let d := pageDigest ((List.range 512).map fun g => SMap.get 0 digs (page * 512 + g))
            let s := s.sendPacket (mirPacket dst (64 + s.granStack page 0) job (mirAddr page 0 0 1 e.num) (digestBytes d) false)
            s.onMir p fun m => { m with epoch := some { e with
              digs := SMap.wipe (fun x => x / 512 = page) digs, done := e.done ++ [page], progress := s.us } }
          else s.onMir p fun m => { m with epoch := some { e with digs := digs, progress := s.us } })

/-- MANIFEST_SEND: every page digest of the epoch is out; die 0 sends the manifest, and the answer is awaited (R407). -/
def execManifestSend (p : Part) (s : State) : Host.Outcome State Fault Refusal :=
  .next (match s.mir[p].epoch with
    | none => s
    | some e =>
      let dst := s.partner p.val
      if s.rd mirBase F.MIR_STATE_STATE p.val ≠ 2 || !e.pages.all e.done.contains || !s.reachable dst 85 then s
      else
        let range := if s.on mirBase F.MIR_CFG_NORMS p.val then
            some ((e.norms.map Prod.fst).headD (s.rd mmemBase F.MSE_NORMRANGE_BASE p.val)) else none
        let m : Manifest := ⟨e.num, e.step, e.seed, s.on mirBase F.MIR_CFG_HOLD p.val, e.pages, range, e.norms⟩
        let s := s.sendManifest dst (s.jobOf p.val) e.num m.bytes
        (s.onMir p fun m => { m with epoch := some { e with sentAt := some s.us, progress := s.us } }).wr
          mirBase F.MIR_STATE_STATE 3 p.val)

/-! ### Answers (R408 to R410) -/

/-- An epoch commits: COMMIT, the recorded step, the counters; the closing bitmap is cleared and PF0 vector 5 sent (R408). -/
def State.epochCommit (s : State) (p : Part) (e : Epoch) (status : Nat) : State :=
  let s := (s.wr mirBase F.MIR_COMMIT_EPOCH e.num p.val).wr mirBase F.MIR_COMMIT_LASTSTAT status p.val
  let s := s.wr mirBase F.MIR_CSTEP_STEP e.step p.val
  let s := s.wr mirBase F.MIR_LAST_SEAL_US (s.us - e.doneAt) p.val
  let s := (s.wr mirBase F.MIR_LAST2_PAGES e.pages.length p.val).wr mirBase F.MIR_LAST2_CAPTURED
    (min e.captures (2 ^ F.MIR_LAST2_CAPTURED.w - 1)) p.val
  let s := s.dropClosing p.val
  let s := s.onMir p fun m => { m with epoch := none, commit := some ⟨e.num, e.step, e.seed, e.norms⟩ }
  let s := s.count mirBase F.MIR_CNT_COMMITS 1 p.val
  (s.wr mirBase F.MIR_STATE_STATE 1 p.val).msix 0 5

/-- The partition that mirrors to a module under a job. -/
def State.mirrorPart (s : State) (src job : Nat) : Option Part :=
  (List.finRange 16).find? fun p => s.on mirBase F.MIR_CFG_EN p.val && decide (s.partner p.val = src) && decide (s.jobOf p.val = job)

/-- A restore ends refused with REASON 0x6 (R411, R412). -/
def State.restoreLost (s : State) (p : Part) : State :=
  let s := s.onMir p fun m => { m with restore := none }
  (s.wr mirBase F.MIR_RESTSTAT_STATE 3 p.val).wr mirBase F.MIR_RESTSTAT_REASON 6 p.val

/-- MIRROR_EPOCH_STATUS: an epoch status arrives at the source on a port: VERIFIED commits, or under HOLD waits for the host; COMMITTED
commits; a failure that R409 has the partner raise fails the epoch, and a status that R409 never writes is not acted on; NO_STORE ends a running
restore (R408, R409, R411). -/
def execMirrorEpochStatus (port : Port) (s : State) : Host.Outcome State Fault Refusal :=
  .next (match s.inFront port 1 with
    | none => s
    | some k =>
      if bits k.addr 42 3 ≠ 0 then s
      else s.onPacket port 1 7 fun s k =>
        let status := bits k.addr 0 8
        match s.mirrorPart k.src k.job with
        | none => s
        | some p =>
          let s := if status = 3 && s.mir[p].restore.isSome then s.restoreLost p else s
          match s.mir[p].epoch with
          | none => s
          | some e =>
            let st := s.rd mirBase F.MIR_STATE_STATE p.val
            if e.num % 2 ^ 14 ≠ bits k.addr 8 14 ∨ (st ≠ 2 ∧ st ≠ 3) then s
            else if status = 0 ∧ s.on mirBase F.MIR_CFG_HOLD p.val = true then
              (s.onMir p fun m => { m with epoch := some { e with verified := true } }).wr mirBase F.MIR_STATE_STATE 4 p.val
            else if status = 0 ∨ status = 6 then s.epochCommit p e status
            else if 1 ≤ status ∧ status ≤ 4 then s.epochFail p status
            else s)

/-- MIRROR_ACK_TIMEOUT: no answer within ACKLIMIT of the manifest, or no progress in sending for that long (R410). -/
def execMirrorAckTimeout (p : Part) (s : State) : Host.Outcome State Fault Refusal :=
  .next (match s.mir[p].epoch with
    | none => s
    | some e =>
      let st := s.rd mirBase F.MIR_STATE_STATE p.val
      if (st = 2 ∨ st = 3) ∧ (e.sentAt.getD e.progress) + s.ackLimit p.val ≤ s.us then s.epochFail p 0x11 else s)

/-- A write of RELEASE: the held epoch is released (R408). -/
def State.mirRelease (s : State) (p : Part) : State :=
  match s.mir[p].epoch with
  | some e =>
    if s.rd mirBase F.MIR_STATE_STATE p.val = 4 then
      let s := s.sendPacket (ansPacket (s.partner p.val) (s.jobOf p.val) (ansAddr 0 e.num 0 3))
      (s.onMir p fun m => { m with epoch := some { e with sentAt := some s.us } }).wr mirBase F.MIR_STATE_STATE 3 p.val
    else s
  | none => s

/-! ### Restoring in place (R411, R412) -/

/-- The epoch a restore names: the committed one, or the held one in STATE 4. -/
def State.restoreTarget (s : State) (p : Part) (low : Nat) : Option EpochMark :=
  let held : Option EpochMark := match s.mir[p].epoch with
    | some e => if s.rd mirBase F.MIR_STATE_STATE p.val = 4 ∧ e.num % 65536 = low then some ⟨e.num, e.step, e.seed, e.norms⟩ else none
    | none => none
  match s.mir[p].commit with
  | some m => if m.num % 65536 = low then some m else held
  | none => held

/-- The first reason to refuse a restore, or 0; 6 comes later (R411). -/
def State.restoreCheck (s : State) (p : Part) : Nat :=
  let target := s.restoreTarget p (s.rd mirBase F.MIR_CMD_EPOCH p.val)
  let cs := allCores.filter fun c => s.partOf c = p.val
  if !s.on mirBase F.MIR_CFG_EN p.val || decide (s.rd mirBase F.MIR_STATE_STATE p.val = 5) then 1
  else if cs.any (fun c => s.seqState c = 1 || s.seqState c = 2) then 2
  else if s.partInReset p.val then 3
  else
    match target with
    | none => 4
    | some m =>
      if s.on mirBase F.MIR_CMD_RNGCHK p.val && decide (s.rd mirBase F.MIR_RNGSTEP_STEP p.val ≠ m.step) &&
          !s.on mirBase F.MIR_CTRL_FORCE_SKEW then 5
      else if s.mir[p].restore.isSome || decide (s.rd mirBase F.MIR_FILLRX_B_STATE p.val = 1) then 7
      else 0

/-- Norm entries of a manifest are written. -/
def State.putNorms (s : State) (ns : List (Nat × NormEnt)) : State := ns.foldl (fun s e => s.setNorm e.1 e.2) s

/-- Steps 5 and 6 of a restore: seed, norms, random-stream positions; both bitmaps cleared, NEXT, DONE, PF0 vector 5 (R412). -/
def State.restoreFinish (s : State) (p : Part) (r : Restore) : State :=
  let s := s.wr mmemBase F.MSE_SEED_SEED r.target.seed p.val
  let s := if s.on mirBase F.MIR_CMD_RNORMS p.val then s.putNorms r.target.norms else s
  let step := if r.forced then s.rd mirBase F.MIR_RNGSTEP_STEP p.val else r.target.step
  let s := (allCores.filter fun c => s.partOf c = p.val).foldl (fun s c =>
    (s.wr (coreBase c) F.SEQ_RNGPOS_STEP step).wr (coreBase c) F.SEQ_RNGPOS_LAYER 0) s
  let s := s.setBitmaps p.val false
  let s := s.wr mirBase F.MIR_EPOCH_NEXT (r.target.num + 1) p.val
  let s := s.onMir p fun m => { m with restore := none }
  (s.wr mirBase F.MIR_RESTSTAT_STATE 2 p.val).msix 0 5

/-- Ask for the page a restore stands at, or finish it. -/
def State.restoreNext (s : State) (p : Part) (r : Restore) : State :=
  match r.pages[r.next]? with
  | none => s.restoreFinish p r
  | some page =>
    let s := s.onMir p fun m => { m with restore := some { r with parts := [], progress := s.us } }
    s.sendPacket (ansPacket (s.partner p.val) (s.jobOf p.val) (ansAddr 0 r.target.num page 4))

/-- A write of RESTORE: refused with the first reason, or begun; while another restore runs STATE goes on to show that it runs (R411, R412; log entry
106). -/
def State.restoreGo (s : State) (p : Part) : State :=
  let why := s.restoreCheck p
  let no (s : State) (why : Nat) : State := (s.wr mirBase F.MIR_RESTSTAT_STATE 3 p.val).wr mirBase F.MIR_RESTSTAT_REASON why p.val
  if why ≠ 0 then (if s.mir[p].restore.isSome then s.wr mirBase F.MIR_RESTSTAT_REASON why p.val else no s why)
  else
    match s.restoreTarget p (s.rd mirBase F.MIR_CMD_EPOCH p.val) with
    | none => no s 4
    | some m =>
      let forced := s.on mirBase F.MIR_CMD_RNGCHK p.val && decide (s.rd mirBase F.MIR_RNGSTEP_STEP p.val ≠ m.step)
      let held : Option Epoch := s.mir[p].epoch
      let other : Bool := (held.map fun e => e.num != m.num).getD false
      let s : State := if other then s.epochStop p else s
      let cur := pagesIn s.mem.dirty p.val
      let pages := cur ++ (pagesIn s.mem.closing p.val).filter fun g => !cur.contains g
      let s := (s.wr mirBase F.MIR_RESTSTAT_STATE 1 p.val).wr mirBase F.MIR_RESTSTAT_FORCED (if forced then 1 else 0) p.val
      let s := (s.wr mirBase F.MIR_RESTSTAT_PAGES pages.length p.val).wr mirBase F.MIR_RESTSTAT_DONE 0 p.val
      s.restoreNext p ⟨m, forced, pages, 0, 1, s.us, []⟩

/-- A write of `MIR_CMD` (R408, R411, R418). -/
def State.mirCmd (s : State) (p : Part) (v : Nat) : State :=
  let s := s.writeReg mirBase R.MIR_CMD p.val v
  let s := if v.testBit 0 then s.mirRelease p else s
  if v.testBit 1 then s.restoreGo p else s

/-- MIRROR_RELEASE: the host writes RELEASE (R408). -/
def execMirrorRelease (f : Func) (p : Part) (s : State) : Host.Outcome State Fault Refusal :=
  .next (s.asPF0 f mirBase fun s => s.mirRelease p)

/-- MIRROR_RESTORE: the host writes `MIR_CMD` with RESTORE, EPOCH, RNORMS and RNGCHK (R411, R412). -/
def execMirrorRestore (f : Func) (p : Part) (epoch : BitVec 16) (rnorms rngchk : Bool) (s : State) : Host.Outcome State Fault Refusal :=
  .next (s.asPF0 f mirBase fun s =>
    s.mirCmd p (2 + (if rnorms then 4 else 0) + (if rngchk then 8 else 0) + epoch.toNat * 65536))

/-- RESTORE_ANSWER_TIMEOUT: the partner gives no answer within ACKLIMIT (R411). -/
def execRestoreAnswerTimeout (p : Part) (s : State) : Host.Outcome State Fault Refusal :=
  .next (match s.mir[p].restore with
    | some r => if r.progress + s.ackLimit p.val ≤ s.us then s.restoreLost p else s
    | none => s)

/-- A part of the page a restore stands at arrives (R412). -/
def State.restoreData (s : State) (p : Part) (r : Restore) (k : Packet) : State :=
  if r.pages[r.next]? = some (bits k.addr 0 20) then
    s.onMir p fun m => { m with restore := some { r with
      parts := SMap.put (bits k.addr 20 9 * 8 + bits k.addr 29 3) (k.data.take 512, k.poison) r.parts, progress := s.us } }
  else s

/-- The digest of that page arrives: the page is written, or asked for again, at most twice (R412); what came marked is marked (R295, R384). The write sets no dirty bit. -/
def State.restoreDigest (s : State) (p : Part) (r : Restore) (k : Packet) : State :=
  let page := bits k.addr 0 20
  if r.pages[r.next]? ≠ some page then s
  else
    let part (i : Nat) : List Byte := (SMap.get ([], false) r.parts i).1
    let gran (g : Nat) : List Byte := (List.range 8).flatMap fun i => part (g * 8 + i)
    let whole := (List.range 4096).all fun i => (part i).length = 512
    if whole && decide (pageDigest ((List.range 512).map fun g => digestOf (gran g)) = leNat (k.data.take 64)) then
      let s := (List.range 4096).foldl (fun s i =>
        s.hbmRaw (page * pageSize + i * 512) (part i) (SMap.get ([], false) r.parts i).2) s
      let s := s.count mirBase F.MIR_RESTSTAT_DONE 1 p.val
      s.restoreNext p { r with next := r.next + 1, tries := 1 }
    else if r.tries ≥ 3 then s.restoreLost p
    else s.restoreNext p { r with tries := r.tries + 1 }

end Sys2Proof.Machine
end

