-- ==== Sys2Proof/Machine/Partner.lean ====
section
/-!
DEFINITION. Mirroring at the partner and the spare (R402, R408, R409, R412 to R416): store contexts, arriving epochs, releases and
restore requests, and fills.
-/
namespace Sys2Proof.Machine

/-! ### Store contexts (R401, R402, R419) -/

/-- Change what a store context holds. -/
def State.onStore (s : State) (n : Fin 16) (f : StoreRec → StoreRec) : State := { s with stores := vupd s.stores n f }

/-- A store's state (R419). -/
def State.storeState (s : State) (n : Fin 16) : Nat := s.rd mirBase F.MIR_STORE_D_STATE n.val

/-- The pages of the map at the head of a region (R402). -/
def mapPages : Nat := 23

/-- The registers of a store follow what it holds. -/
def State.storeView (s : State) (n : Fin 16) : State :=
  let r := s.stores[n]
  (s.wr mirBase F.MIR_STORE_D_USED r.map.length n.val).wr mirBase F.MIR_STORE_D_STAGED r.staged.length n.val

/-- Forget the incoming or held epoch; the committed one stays (R409). -/
def State.storeDrop (s : State) (n : Fin 16) : State :=
  let s := s.onStore n fun r => { r with
    epoch := none, staged := [], parts := [], digests := [], bad := false, chunks := [], manAt := none, held := [] }
  let st := s.storeState n
  let s := if st = 3 ∨ st = 4 then s.wr mirBase F.MIR_STORE_D_STATE (if s.stores[n].map.isEmpty then 1 else 2) n.val else s
  s.storeView n

/-- A write of `MIR_STORE_A`: while STATE is 0 or 1, or to clear VALID, which discards the copy; VALID needs a region of unowned pages
(R401, R419). A store that fills never changes (R415). -/
def State.storeWrite (s : State) (n : Fin 16) (v : Nat) : State :=
  let valid := v.testBit 40
  if (valid && decide (s.storeState n > 1)) || decide (s.storeState n = 5) then s
  else if !valid then
    let s := s.writeReg mirBase R.MIR_STORE_A n.val v
    let s := (s.wr mirBase F.MIR_STORE_C_COMMITTED 0 n.val).wr mirBase F.MIR_STORE_D_STATE 0 n.val
    (s.onStore n fun _ => StoreRec.reset).storeView n
  else if (List.range (bits v 20 20)).any fun i => s.ownerOf (bits v 0 20 + i) ≠ 0x10 then s
  else (s.writeReg mirBase R.MIR_STORE_A n.val v).wr mirBase F.MIR_STORE_D_STATE 1 n.val

/-- A write of `MIR_STORE_B`: only while STATE is 0 or 1 (R419). -/
def State.storeSource (s : State) (n : Fin 16) (v : Nat) : State :=
  if s.storeState n > 1 then s else s.writeReg mirBase R.MIR_STORE_B n.val v

/-- MIRROR_STORE_WRITE: the host writes a store context's `MIR_STORE_A` (R419). -/
def execMirrorStoreWrite (f : Func) (n : Fin 16) (v : BitVec 64) (s : State) : Host.Outcome State Fault Refusal :=
  .next (s.asPF0 f mirBase fun s => s.storeWrite n v.toNat)

/-- The context that accepts a source's mirror traffic (R402). -/
def State.storeOf (s : State) (src job : Nat) : Option (Fin 16) :=
  (List.finRange 16).find? fun n => s.on mirBase F.MIR_STORE_A_VALID n.val &&
    decide (s.rd mirBase F.MIR_STORE_B_SRCMOD n.val = src) && decide (s.rd mirBase F.MIR_STORE_B_JOB n.val = job)

/-- A data page that holds nothing (R402, R408). -/
def State.freePage (s : State) (n : Fin 16) : Option Nat :=
  let r := s.stores[n]
  let base := s.rd mirBase F.MIR_STORE_A_BASE n.val
  let used := r.map.map (fun e => e.2.1) ++ r.staged.map Prod.snd
  ((List.range (s.rd mirBase F.MIR_STORE_A_CAPACITY n.val - mapPages)).map fun i => base + mapPages + i).find? fun g => !used.contains g

/-- The digest of a data page. -/
def State.storeDigest (s : State) (g : Nat) : Nat := s.digestAt (g * pageSize)

/-- Whether every part of a page has arrived. -/
def StoreRec.whole (r : StoreRec) (page : Nat) : Bool := (List.range 4096).all fun i => SMap.get false r.parts (page * 4096 + i)

/-- Packets of an epoch begin, or go on with, its arrival; a filling store takes none (R408, R415, R416). -/
def State.storeBegin (s : State) (n : Fin 16) (epoch : Nat) : Option State :=
  if s.storeState n = 5 then none
  else if s.stores[n].epoch = some epoch ∧ s.storeState n = 3 then some s
  else
    let s := s.storeDrop n
    some ((s.onStore n fun r => { r with epoch := some epoch }).wr mirBase F.MIR_STORE_D_STATE 3 n.val)

/-- Answer a source, with a status for its epoch (R408). -/
def State.storeAnswer (s : State) (n : Fin 16) (status epoch : Nat) : State :=
  s.sendPacket (ansPacket (s.rd mirBase F.MIR_STORE_B_SRCMOD n.val) (s.rd mirBase F.MIR_STORE_B_JOB n.val) (ansAddr status epoch 0 0))

/-- The arriving epoch fails: its pages are discarded and the source is told (R409). -/
def State.storeFail (s : State) (n : Fin 16) (status : Nat) : State :=
  let e := s.stores[n].epoch.getD 0
  (s.storeDrop n).storeAnswer n status e

/-- Switch the map entries of an epoch's pages in one step, in the region too, and free the pages they replaced (R402, R408). -/
def State.storeSwitch (s : State) (n : Fin 16) (man : List Byte) : State :=
  let m := manifestOf man
  let r := s.stores[n]
  let base := s.rd mirBase F.MIR_STORE_A_BASE n.val
  let entry (page : Nat) : Nat × Nat := (SMap.get 0 r.staged page, SMap.get 0 r.digests page)
  let s := m.pages.foldl (fun s page =>
    s.hbmRaw (base * pageSize + page * 72) (leBytes 4 (entry page).1 ++ leBytes 4 0 ++ digestBytes (entry page).2) false) s
  let s := s.onStore n fun r => { r with map := m.pages.foldl (fun t page => SMap.put page (entry page) t) r.map, commit := man }
  let s := s.wr mirBase F.MIR_STORE_C_COMMITTED m.epoch n.val
  let s := (s.wr mirBase F.MIR_STORE_D_STATE 2 n.val).onStore n fun r => { r with
    epoch := none, staged := [], parts := [], digests := [], bad := false, chunks := [], manAt := none, held := [] }
  s.storeView n

/-- Once the manifest and every page it lists have arrived, the epoch is verified: every digest matches, or it is a MISMATCH. With HOLD
clear the map switches; with HOLD set it waits for RELEASE (R408). `ecc` is what the reads of the pages find (R246). -/
def State.storeCheck (s : State) (n : Fin 16) (ecc : List LineEcc) : State :=
  let r := s.stores[n]
  match joinChunks r.chunks with
  | none => s
  | some man =>
    let m := manifestOf man
    let s := if r.manAt.isNone then s.onStore n fun r => { r with manAt := some s.us } else s
    if !m.pages.all (fun g => r.whole g && r.digests.any fun e => e.1 = g) then s
    else
    let s := s.linesEcc (m.pages.flatMap fun g => pageLines (SMap.get 0 r.staged g)) ecc
    if r.bad || m.pages.any fun g => s.storeDigest (SMap.get 0 r.staged g) ≠ SMap.get 0 r.digests g then s.storeFail n 1
    else
      let e := r.epoch.getD 0
      if m.hold then
        ((s.onStore n fun r => { r with held := man }).wr mirBase F.MIR_STORE_D_STATE 4 n.val).storeAnswer n 0 e
      else (s.storeSwitch n man).storeAnswer n 0 e

/-- A part of a page arrives at a store: it is written into the data page of its source page, or STORE_FULL (R402, R408, R409). -/
def State.storeData (ecc : List LineEcc) (s : State) (n : Fin 16) (k : Packet) : State :=
  match s.storeBegin n (bits k.addr 34 14) with
  | none => s
  | some s =>
    let page := bits k.addr 0 20
    let at_ := bits k.addr 20 9 * 8 + bits k.addr 29 3
    let have_ := s.stores[n].staged.find? fun e => e.1 = page
    let s := if have_.isSome then s
      else match s.freePage n with
        | some g => s.onStore n fun r => { r with staged := SMap.put page g r.staged }
        | none => s
    match s.stores[n].staged.find? fun e => e.1 = page with
    | none => s.storeFail n 2
    | some e =>
      let s := s.hbmRaw (e.2 * pageSize + at_ * 512) (k.data.take 512) k.poison
      ((s.onStore n fun r => { r with parts := SMap.set false r.parts (page * 4096 + at_) true }).storeView n).storeCheck n ecc

/-- A page digest arrives at a store and is checked against what it has stored, now or when the page is whole (R408). -/
def State.storeDigestIn (ecc : List LineEcc) (s : State) (n : Fin 16) (k : Packet) : State :=
  match s.storeBegin n (bits k.addr 34 14) with
  | none => s
  | some s =>
    let page := bits k.addr 0 20
    let d := leNat (k.data.take 64)
    let r := s.stores[n]
    let s := if r.whole page then s.linesEcc (pageLines (SMap.get 0 r.staged page)) ecc else s
    let wrong := r.whole page && decide (s.storeDigest (SMap.get 0 r.staged page) ≠ d)
    (s.onStore n fun r => { r with digests := SMap.put page d r.digests, bad := r.bad || wrong }).storeCheck n
      (if r.whole page then ecc.drop 32768 else ecc)

/-- A manifest chunk arrives at a store (R407, R408). -/
def State.storeChunk (ecc : List LineEcc) (s : State) (n : Fin 16) (k : Packet) : State :=
  match s.storeBegin n (bits k.addr 34 14) with
  | none => s
  | some s => (s.onStore n fun r => { r with chunks := SMap.put (bits k.addr 0 20) (k.data.take (k.len * 16)) r.chunks }).storeCheck n ecc

/-- A partner's limit for a store: ACKLIMIT of the partition whose job the store has, or its reset value. -/
def State.storeLimit (s : State) (n : Fin 16) : Nat :=
  match s.jobPart (s.rd mirBase F.MIR_STORE_B_JOB n.val) with
  | some p => s.ackLimit p.val
  | none => 100000

/-- MIRROR_INCOMPLETE_TIMEOUT: a page that the manifest lists is still missing ACKLIMIT after it arrived (R409). -/
def execMirrorIncompleteTimeout (n : Fin 16) (s : State) : Host.Outcome State Fault Refusal :=
  .next (match s.stores[n].manAt with
    | some t => if s.storeState n = 3 ∧ t + s.storeLimit n ≤ s.us then s.storeFail n 4 else s
    | none => s)

/-- MIRROR_RELEASE_PACKET: RELEASE of the held epoch arrives; the map switches and COMMITTED is answered (R408). -/
def execMirrorReleasePacket (port : Port) (s : State) : Host.Outcome State Fault Refusal :=
  .next (match s.inFront port 1 with
    | none => s
    | some k =>
      if bits k.addr 42 3 ≠ 3 then s
      else s.onPacket port 1 7 fun s k =>
        match s.storeOf k.src k.job with
        | none => s.sendPacket (ansPacket k.src k.job (ansAddr 3 (bits k.addr 8 14) 0 0))
        | some n =>
          if s.storeState n = 4 ∧ s.stores[n].epoch = some (bits k.addr 8 14) then
            (s.storeSwitch n s.stores[n].held).storeAnswer n 6 (bits k.addr 8 14)
          else s)

/-! ### Sending stored pages (R412, R414) -/

/-- Send a page of a store as page data and its digest; `ecc` is what the reads of its lines find (R246). -/
def State.sendPage (s : State) (dst job epoch page g digest : Nat) (ecc : List LineEcc) : State :=
  let s := s.linesEcc (pageLines g) ecc
  let s := (List.range 512).foldl (fun s i =>
    let ls := (List.range 64).map fun l =>
      let a := g * pageSize + i * 4096 + l * 64
      (s.hbmBytes a 64, s.hbmPoisoned a 64)
    s.sendGran dst (64 + s.granStack g i) job page i epoch ls) s
  s.sendPacket (mirPacket dst (64 + s.granStack g 0) job (mirAddr page 0 0 1 epoch) (digestBytes digest) false)

/-- The store that a request for a page reaches: the source's own, or the one a fill sends to the requester (R412, R414). -/
def State.requestStore (s : State) (src job : Nat) : Option (Fin 16) :=
  match (s.fills.find? fun x => x.target = src && s.rd mirBase F.MIR_STORE_B_JOB x.store = job : Option Fill) with
  | some x => if h : x.store < 16 then some ⟨x.store, h⟩ else none
  | none => s.storeOf src job

/-- RESTORE_REQUEST_PACKET: a page is asked for; it is returned from the map of the epoch named. A request for the committed epoch discards
a held one (R412, R414); `q.ecc` is what the page's reads find. -/
def execRestoreRequestPacket (q : PortRead) (s : State) : Host.Outcome State Fault Refusal :=
  .next (match s.inFront q.port 1 with
    | none => s
    | some k =>
      if bits k.addr 42 3 ≠ 4 then s
      else s.onPacket q.port 1 7 fun s k =>
        let epoch := bits k.addr 8 14
        let page := bits k.addr 22 20
        let no (s : State) : State := s.sendPacket (ansPacket k.src k.job (ansAddr 3 epoch 0 0))
        match s.requestStore k.src k.job with
        | none => no s
        | some n =>
          let r := s.stores[n]
          let held := decide (s.storeState n = 4) && decide (r.epoch = some epoch)
          let s := if s.storeState n = 4 && !held then s.storeDrop n else s
          match (if held then r.staged.find? fun e => e.1 = page else none), r.map.find? fun e => e.1 = page with
          | some e, _ => s.sendPage k.src k.job epoch page e.2 (SMap.get 0 r.digests page) q.ecc
          | none, some e => s.sendPage k.src k.job epoch page e.2.1 e.2.2 q.ecc
          | none, none => no s)

/-! ### Fills at the partner (R413 to R416) -/

/-- The partner's watermark of a fill: the pages confirmed, counted in order from the first (R414). -/
def Fill.mark (x : Fill) : Nat := (x.pages.takeWhile fun g => x.sure.contains g).length

/-- `MIR_FILL_STAT` follows the first running fill and the queue. -/
def State.fillView (s : State) : State :=
  let s := s.wr mirBase F.MIR_FILL_STAT_QUEUED s.fillQ.length
  match s.fills with
  | x :: _ =>
    (s.wr mirBase F.MIR_FILL_STAT_WATERMARK x.mark).wr mirBase F.MIR_FILL_STAT_STATE (if x.paused then 2 else 1)
  | [] => s

/-- A fill of a store begins: an open or held epoch of the store is discarded (R414, R416). -/
def State.fillBegin (s : State) (store target : Nat) : State :=
  if h : store < 16 then
    let n : Fin 16 := ⟨store, h⟩
    let s := (s.storeDrop n).wr mirBase F.MIR_STORE_D_STATE 5 store
    ({ s with fills := s.fills ++ [Fill.mk store target (s.stores[n].map.map Prod.fst) 0 [] false false s.us] }).fillView
  else s

/-- The number of fills that may run at once (R413). -/
def State.fillRoom (s : State) : Nat := if s.on mirBase F.MIR_CTRL_FILL2 then 2 else 1

/-- Start what waits in the queue while there is room. -/
def State.fillNext (s : State) : State :=
  match s.fillQ with
  | x :: xs => if s.fills.length < s.fillRoom then ({ s with fillQ := xs }).fillBegin x.1 x.2 else s.fillView
  | [] => s.fillView

/-- A fill resumes from a page of its list: those before it stay confirmed (R414). -/
def Fill.resume (x : Fill) (n now : Nat) : Fill :=
  { x with paused := false, next := n, sure := x.pages.take n, manifest := false, progress := now }

/-- A GO: a paused fill of the same store and spare resumes from the smaller of the two watermarks, of which the spare's is the other module's and so a
free value here (log entry 115); a store with a committed copy starts, or queues, up to 8 (R413, R414). -/
def State.fillGo (s : State) (store target : Nat) : State :=
  if s.fills.any fun (x : Fill) => x.store = store && x.target = target && x.paused then
    let v := s.fresh
    let s := v.2
    ({ s with fills := s.fills.map fun (x : Fill) => if x.store = store ∧ x.target = target then
      x.resume (min x.mark (Config.freeValue v.1)) s.us else x }).fillView
  else if h : store < 16 then
    if s.storeState ⟨store, h⟩ < 2 ∨ s.stores[(⟨store, h⟩ : Fin 16)].commit.isEmpty = true then s
    else if s.fills.length < s.fillRoom ∨ s.fillQ.length < 8 then ({ s with fillQ := s.fillQ ++ [(store, target)] }).fillNext
    else s.setOn mirBase F.MIR_FILL_STAT_QFULL
  else s

/-- A STOP pauses the running fills. -/
def State.fillStop (s : State) : State := ({ s with fills := s.fills.map fun (x : Fill) => { x with paused := true } }).fillView

/-- A write of `MIR_FILL_CTRL` (R420). -/
def State.fillCtrl (s : State) (v : Nat) : State :=
  let s := s.writeReg mirBase R.MIR_FILL_CTRL 0 v
  let s := if v.testBit 4 then s.fillGo (bits v 0 4) (bits v 16 16) else s
  if v.testBit 5 then s.fillStop else s

/-- FILL_GO: the host starts or queues a fill (R413). -/
def execFillGo (f : Func) (store : Fin 16) (target : BitVec 16) (s : State) : Host.Outcome State Fault Refusal :=
  .next (s.asPF0 f mirBase fun s => s.fillCtrl (store.val + 16 + target.toNat * 65536))

/-- FILL_STOP: the host pauses the running fill (R414). -/
def execFillStop (f : Func) (s : State) : Host.Outcome State Fault Refusal :=
  .next (s.asPF0 f mirBase fun s => s.fillCtrl (s.readReg mirBase R.MIR_FILL_CTRL 0 + 32))

/-- FILL_PAGE_SEND: a running fill sends its next page, whose reads find `q.ecc`, or, after the last, the manifest (R414). -/
def execFillPageSend (q : FillRead) (s : State) : Host.Outcome State Fault Refusal :=
  .next (match s.fills[q.fill.val]? with
    | none => s
    | some x =>
      if h : x.store < 16 then
        let n : Fin 16 := ⟨x.store, h⟩
        let job := s.rd mirBase F.MIR_STORE_B_JOB x.store
        let epoch := s.rd mirBase F.MIR_STORE_C_COMMITTED x.store
        if x.paused || !s.reachable x.target 85 then s
        else
          match x.pages[x.next]? with
          | some page =>
            let e := SMap.get (0, 0) s.stores[n].map page
            let s := s.sendPage x.target job epoch page e.1 e.2 q.ecc
            { s with fills := s.fills.set q.fill.val { x with next := x.next + 1, progress := s.us } }
          | none =>
            if x.manifest then s
            else
              let s := s.sendManifest x.target job epoch s.stores[n].commit
              { s with fills := s.fills.set q.fill.val { x with manifest := true, progress := s.us } }
      else s)

/-- The fill that sends to a module under a job. -/
def State.fillOf (s : State) (src job : Nat) : Option Nat :=
  s.fills.findIdx? fun x => x.target = src && s.rd mirBase F.MIR_STORE_B_JOB x.store = job

/-- FILL_PAGE_CONFIRM: the spare confirms a page, and the watermark advances (R414). -/
def execFillPageConfirm (port : Port) (s : State) : Host.Outcome State Fault Refusal :=
  .next (match s.inFront port 1 with
    | none => s
    | some k =>
      if bits k.addr 42 3 ≠ 1 then s
      else s.onPacket port 1 7 fun s k =>
        match s.fillOf k.src k.job with
        | none => s
        | some i =>
          let page := bits k.addr 22 20
          ({ s with fills := updAt s.fills i fun x => { x with
            sure := if x.sure.contains page then x.sure else x.sure ++ [page], progress := s.us } }).fillView)

/-- A fill ends: where no other fill of the store runs, the store holds its copy as before; the next fill starts (R415). -/
def State.fillEnd (s : State) (i state : Nat) : State :=
  match s.fills[i]? with
  | none => s
  | some x =>
    let s := { s with fills := s.fills.eraseIdx i }
    let s := if s.fills.any fun (y : Fill) => y.store = x.store then s else s.wr mirBase F.MIR_STORE_D_STATE 2 x.store
    let s := (s.wr mirBase F.MIR_FILL_STAT_STATE state).wr mirBase F.MIR_FILL_STAT_WATERMARK x.mark
    s.fillNext

/-- FILL_COMPLETE_ANSWER: the spare answers that the fill is complete (R413, R414). -/
def execFillCompleteAnswer (port : Port) (s : State) : Host.Outcome State Fault Refusal :=
  .next (match s.inFront port 1 with
    | none => s
    | some k =>
      if bits k.addr 42 3 ≠ 2 then s
      else s.onPacket port 1 7 fun s k =>
        match s.fillOf k.src k.job with
        | none => s
        | some i => s.fillEnd i 3)

/-! ### Fills at the spare (R413, R414) -/

/-- Change what a partition's fill receiver holds. -/
def State.onRx (s : State) (p : Part) (f : FillRx → FillRx) : State := { s with fillRx := vupd s.fillRx p f }

/-- The watermark of a receiver: the confirmed pages below the first page that has arrived and is not confirmed (R414). -/
def FillRx.mark (r : FillRx) : Nat :=
  (r.sure.filter fun g => r.parts.all fun e => g < e.1 / 4096 || r.sure.contains (e.1 / 4096)).length

/-- A write of `MIR_FILLRX_A`: ARM lets a fill in; another partner starts from the first page (R413, R414, R420). -/
def State.fillArm (s : State) (p : Part) (v : Nat) : State :=
  let same := decide (s.rd mirBase F.MIR_FILLRX_A_SRCMOD p.val = bits v 0 16)
  let s := s.writeReg mirBase R.MIR_FILLRX_A p.val v
  if !v.testBit 16 then s.wr mirBase F.MIR_FILLRX_B_STATE 0 p.val
  else
    let s := s.onRx p fun r => if same then { r with parts := [], chunks := [], progress := s.us } else ⟨[], [], [], s.us⟩
    (s.wr mirBase F.MIR_FILLRX_B_WATERMARK s.fillRx[p].mark p.val).wr mirBase F.MIR_FILLRX_B_STATE 1 p.val

/-- FILL_ARM: the host arms a partition of the spare for a partner's fill (R413). -/
def execFillArm (f : Func) (p : Part) (src : BitVec 16) (arm : Bool) (s : State) : Host.Outcome State Fault Refusal :=
  .next (s.asPF0 f mirBase fun s => s.fillArm p (src.toNat + if arm then 65536 else 0))

/-- The partition that receives a fill from a module under a job; a partition reset stops its fill (R414). -/
def State.fillPart (s : State) (src job : Nat) : Option Part :=
  (List.finRange 16).find? fun p => !s.partInReset p.val && decide (s.rd mirBase F.MIR_FILLRX_B_STATE p.val = 1) && s.on mirBase F.MIR_FILLRX_A_ARM p.val &&
    decide (s.rd mirBase F.MIR_FILLRX_A_SRCMOD p.val = src) && decide (s.jobOf p.val = job)

/-- `MIR_FILLRX_B`.EPOCH shows the epoch being filled, of which packets carry the low 14 bits and the manifest all (R406, R407, R420; log entry
116). -/
def State.fillEpoch (s : State) (p : Part) (k : Packet) : State :=
  if s.rd mirBase F.MIR_FILLRX_B_EPOCH p.val % 2 ^ 14 = bits k.addr 34 14 then s
  else s.wr mirBase F.MIR_FILLRX_B_EPOCH (bits k.addr 34 14) p.val

/-- A part of a page arrives at the spare and is written at its own local page (R414). -/
def State.fillData (s : State) (p : Part) (k : Packet) : State :=
  let page := bits k.addr 0 20
  let at_ := bits k.addr 20 9 * 8 + bits k.addr 29 3
  let s := (s.fillEpoch p k).hbmRaw (page * pageSize + at_ * 512) (k.data.take 512) k.poison
  s.onRx p fun r => { r with parts := SMap.set false r.parts (page * 4096 + at_) true, progress := s.us }

/-- A page digest arrives at the spare: the page is confirmed, or asked for again (R414); `ecc` is what the reads of the page find. -/
def State.fillDigest (ecc : List LineEcc) (s : State) (p : Part) (k : Packet) : State :=
  let page := bits k.addr 0 20
  let epoch := bits k.addr 34 14
  let r := s.fillRx[p]
  let whole := (List.range 4096).all fun i => SMap.get false r.parts (page * 4096 + i)
  let s := (s.fillEpoch p k).onRx p fun r => { r with progress := s.us }
  let s := if whole then s.linesEcc (pageLines page) ecc else s
  if whole && decide (s.digestAt (page * pageSize) = leNat (k.data.take 64)) then
    let s := s.onRx p fun r => { r with
      parts := SMap.wipe (fun x => x / 4096 = page) r.parts
      sure := if r.sure.contains page then r.sure else r.sure ++ [page] }
    let s := s.wr mirBase F.MIR_FILLRX_B_WATERMARK s.fillRx[p].mark p.val
    s.sendPacket (ansPacket k.src k.job (ansAddr 0 epoch page 1))
  else
    let s := s.onRx p fun r => { r with parts := SMap.set false r.parts (page * 4096) true }
    s.sendPacket (ansPacket k.src k.job (ansAddr 0 epoch page 4))

/-- FILL_COMPLETE: the manifest is whole at the spare; seed and step are applied, and the norms where RNORMS is set, COMMIT and
NEXT set, and fill complete is answered (R90, R412, R414). -/
def execFillComplete (p : Part) (s : State) : Host.Outcome State Fault Refusal :=
  .next (match joinChunks s.fillRx[p].chunks with
    | none => s
    | some man =>
      if s.rd mirBase F.MIR_FILLRX_B_STATE p.val ≠ 1 ∨ s.fillRx[p].parts.isEmpty = false then s
      else
        let m := manifestOf man
        let s := s.wr mmemBase F.MSE_SEED_SEED m.seed p.val
        let s := if s.on mirBase F.MIR_CMD_RNORMS p.val then s.putNorms m.norms else s
        let s := (allCores.filter fun c => s.partOf c = p.val).foldl (fun s c =>
          (s.wr (coreBase c) F.SEQ_RNGPOS_STEP m.step).wr (coreBase c) F.SEQ_RNGPOS_LAYER 0) s
        let s := (s.wr mirBase F.MIR_COMMIT_EPOCH m.epoch p.val).wr mirBase F.MIR_CSTEP_STEP m.step p.val
        let s := s.wr mirBase F.MIR_EPOCH_NEXT (m.epoch + 1) p.val
        let s := s.onMir p fun r => { r with commit := some ⟨m.epoch, m.step, m.seed, m.norms⟩ }
        let s := (s.wr mirBase F.MIR_FILLRX_B_EPOCH m.epoch p.val).wr mirBase F.MIR_FILLRX_B_STATE 2 p.val
        let s := s.onRx p fun r => { r with chunks := [] }
        s.sendPacket (ansPacket (s.rd mirBase F.MIR_FILLRX_A_SRCMOD p.val) (s.jobOf p.val) (ansAddr 0 m.epoch 0 2)))

/-- FILL_ROUTE_TIMEOUT: nothing has moved for longer than ACKLIMIT: at the partner, fill `i` pauses where the route is lost, and is
abandoned where the spare is; at the spare, the fill of partition `i` fails (R414, R416). -/
def execFillRouteTimeout (spare : Bool) (i : Fin 16) (s : State) : Host.Outcome State Fault Refusal :=
  .next (if spare then
      if s.rd mirBase F.MIR_FILLRX_B_STATE i.val = 1 ∧ s.fillRx[i].progress + s.ackLimit i.val ≤ s.us then
        s.wr mirBase F.MIR_FILLRX_B_STATE 3 i.val
      else s
    else
      match s.fills[i.val]? with
      | none => s
      | some x =>
        let lim := if h : x.store < 16 then s.storeLimit ⟨x.store, h⟩ else 100000
        if x.paused || decide (s.us < x.progress + lim) then s
        else if s.reachable x.target 85 then s.fillEnd i.val 4
        else ({ s with fills := s.fills.set i.val { x with paused := true } }).fillView)

/-! ### Arriving mirror packets (R402, R406, R412, R414) -/

/-- Where a mirror packet belongs: a restore of the partition that asked, a fill of an armed partition, or a store. -/
def State.onMirror (s : State) (port : Port) (kind : Nat) (restore : State → Part → Restore → Packet → State)
    (fill : State → Part → Packet → State) (store : State → Fin 16 → Packet → State) : State :=
  match s.inFront port 2 with
  | none => s
  | some k =>
    if bits k.addr 32 2 ≠ kind then s
    else s.onPacket port 2 8 fun s k =>
      let restoring : Option (Part × Restore) := match s.mirrorPart k.src k.job with
        | some p => s.mir[p].restore.map fun r => (p, r)
        | none => none
      match restoring, s.fillPart k.src k.job, s.storeOf k.src k.job with
      | some (p, r), _, _ => restore s p r k
      | none, some p, _ => fill s p k
      | none, none, some n => store s n k
      | none, none, none => s.sendPacket (ansPacket k.src k.job (ansAddr 3 (bits k.addr 34 14) 0 0))

/-- The bytes that the front mirror packet of a port, of a KIND, writes where a fill takes its data or a restore its page, as an address and a
length: nothing else that mirrors meets a line that the host holds (R346, R401, R412, R414). -/
def State.mirrorWrites (s : State) (port : Port) (kind : Nat) : Nat × Nat :=
  match s.inFront port 2 with
  | none => (0, 0)
  | some k =>
    let page := bits k.addr 0 20 * pageSize
    let restoring := (s.mirrorPart k.src k.job).any fun p => s.mir[p].restore.isSome
    if k.typ ≠ 8 ∨ k.dst ≠ s.modId ∨ bits k.addr 32 2 ≠ kind then (0, 0)
    else if kind = 1 && restoring then (page, pageSize)
    else if kind = 0 && !restoring && (s.fillPart k.src k.job).isSome then
      (page + bits k.addr 20 9 * 4096 + bits k.addr 29 3 * 512, 512)
    else (0, 0)

/-- Act on the front mirror packet of a port, once the host has answered for the lines it writes (R346). -/
def State.mirrorGate (s : State) (port : Port) (kind : Nat) (run : State → State) : State :=
  let w := s.mirrorWrites port kind
  let g := if w.2 = 0 then (s, true) else s.snoopGate w.1 w.2 true
  if g.2 then run g.1 else g.1

/-- MIRROR_PAGE_DATA: page data arrives on a port (R408, R412, R414). -/
def execMirrorPageData (q : PortRead) (s : State) : Host.Outcome State Fault Refusal :=
  .next (s.mirrorGate q.port 0 fun s => s.onMirror q.port 0 State.restoreData State.fillData (State.storeData q.ecc))

/-- MIRROR_PAGE_DIGEST: a page digest arrives on a port (R408, R412, R414). -/
def execMirrorPageDigest (q : PortRead) (s : State) : Host.Outcome State Fault Refusal :=
  .next (s.mirrorGate q.port 1 fun s => s.onMirror q.port 1 State.restoreDigest (State.fillDigest q.ecc) (State.storeDigestIn q.ecc))

/-- MIRROR_MANIFEST_CHUNK: a chunk of a manifest arrives on a port (R407, R408, R414). -/
def execMirrorManifestChunk (q : PortRead) (s : State) : Host.Outcome State Fault Refusal :=
  .next (s.onMirror q.port 2 (fun s _ _ _ => s)
    (fun s p k => (s.fillEpoch p k).onRx p fun r => { r with
      chunks := SMap.put (bits k.addr 0 20) (k.data.take (k.len * 16)) r.chunks, progress := s.us })
    (State.storeChunk q.ecc))

end Sys2Proof.Machine
end

