-- ==== Sys2Proof/Machine/Boot.lean ====
section
/-!
DEFINITION. Bring-up, identity and licences (R421 to R448): the boot of firmware, the yield map and the repair record, the licences
that verify, measurements, SPDM, and the commands of the security and licence pages.
-/
namespace Sys2Proof.Machine

/-! ### Firmware slots (R425 to R428) -/

/-- A firmware slot by number: 0 A, 1 B. -/
def State.slot (s : State) (n : Nat) : FwSlot := if n = 0 then s.boot.slotA else s.boot.slotB

/-- Change a firmware slot. -/
def State.onSlot (s : State) (n : Nat) (f : FwSlot → FwSlot) : State :=
  { s with boot := if n = 0 then { s.boot with slotA := f s.boot.slotA } else { s.boot with slotB := f s.boot.slotB } }

/-- The SVN of an image, 0 to 64 (R425). -/
def imageSvn (f : FwSlot) : Nat := Config.imageSvn f.chunks % 65

/-- What R426 finds of a slot, as `SEC_SLOTSTAT` codes it (R447). -/
def slotCheck (f : FwSlot) (count : Nat) : Nat :=
  if f.chunks.isEmpty then 0 else if !Config.imageOk f.chunks then 2 else if imageSvn f < count then 3 else 1

/-- A slot's state: staging until VERIFY passes, else what R426 finds. -/
def State.slotState (s : State) (n : Nat) : Nat := if (s.slot n).staging then 4 else slotCheck (s.slot n) s.boot.svn

/-- Write a slot's state into `SEC_SLOTSTAT`. -/
def State.slotShow (s : State) (n st : Nat) : State :=
  s.wr secBase (if n = 0 then F.SEC_SLOTSTAT_A_STATE else F.SEC_SLOTSTAT_B_STATE) st

/-- A slot's state in `SEC_SLOTSTAT`. -/
def State.slotShown (s : State) (n : Nat) : Nat := s.rd secBase (if n = 0 then F.SEC_SLOTSTAT_A_STATE else F.SEC_SLOTSTAT_B_STATE)

/-- The boot ROM starts the preferred slot, or else the other one; the answer says whether it started one. A slot that it does not read shows 5, or 4
where it is being staged (R426, R446). -/
def State.bootImage (s : State) : State × Bool :=
  let p := s.boot.prefer
  let s := s.wr secBase F.SEC_SLOTSTAT_PREFER p
  let start (s : State) (n : Nat) : State :=
    let f := s.slot n
    ((s.wr secBase F.SEC_STATUS_SLOT n).wr secBase F.SEC_FWVER_VERSION (Config.imageVersion f.chunks)).wr secBase F.SEC_FWVER_SVN (imageSvn f)
  let s := (s.slotShow p (s.slotState p)).slotShow (1 - p) (if (s.slot (1 - p)).staging then 4 else 5)
  if s.slotState p = 1 then (start s p, true)
  else
    let s := (s.slotShow (1 - p) (s.slotState (1 - p))).setOn secBase F.SEC_STATUS_FALLBACK
    if s.slotState (1 - p) = 1 then (start s (1 - p), true) else (s, false)

/-! ### Licences (R442 to R445) -/

/-- FORMAT, reserved bytes and reserved feature bits of a licence (R442, R443). -/
def licForm (l : List Byte) : Bool :=
  decide (licField l 0 4 = 1) && decide (licField l 12 4 < 64) && decide (licField l 17 7 = 0) && decide (licField l 32 480 = 0)

/-- Whether a stored licence verifies (R445). -/
def licValid (l : List Byte) (serial : Nat) : Bool := licForm l && decide (licField l 4 8 = serial) && Config.licenceOk l

/-- The store entries that verified, in entry order. -/
def BootRec.licGood (b : BootRec) : List (List Byte) := (b.lics.filter fun e => licValid e.2 b.serial).map Prod.snd

/-- The licence registers at boot: the entries present and verified, the active set and the ordering code (R443, R444, R448). -/
def State.licBoot (s : State) : State :=
  let mask (p : List Byte → Bool) : Nat := (s.boot.lics.filter fun e => p e.2).foldl (fun m e => m ||| 2 ^ e.1) 0
  let good := s.boot.licGood
  let s := (s.wr licBase F.LIC_STORED_PRESENT (mask fun _ => true)).wr licBase F.LIC_STORED_VALID (mask fun l => licValid l s.boot.serial)
  let s := s.wr licBase F.LIC_ACTIVE_FEATURES (good.foldl (fun m l => m ||| licField l 12 4) 0)
  s.wr licBase F.LIC_ORDER_CODE (good.foldl (fun m l => max m (licField l 16 1)) 0)

/-! ### Yield map and repair record (R21, R431, R432) -/

/-- The engine of a number core × 4 + engine. -/
def engOf (n : Nat) : PCore × Eng := (⟨n / 4 % 64, Nat.mod_lt _ (by omega)⟩, ⟨n % 4, Nat.mod_lt _ (by omega)⟩)

/-- A core of a number. -/
def coreOf (n : Nat) : PCore := ⟨n % 64, Nat.mod_lt _ (by omega)⟩

/-- A spare row goes into service for physical row `p` of an engine (R27). -/
def State.applyRow (s : State) (e : Nat) (p : Nat) : State :=
  let b := opeBase (engOf e).1 (engOf e).2
  let n := s.rd b F.OPE_STATUS_SPARES_USED
  (s.wr b (if n = 0 then F.OPE_STATUS_SPARE_ROW_A else F.OPE_STATUS_SPARE_ROW_B) p).wr b F.OPE_STATUS_SPARES_USED (n + 1)

/-- A spare bank goes into service for bank `k` of a core (R177). -/
def State.applyBank (s : State) (c k : Nat) : State :=
  let b := spdBase (coreOf c)
  let n := s.rd b F.SPD_SPARE_USED
  (s.wr b (if n = 0 then F.SPD_SPARE_BANK_A else F.SPD_SPARE_BANK_B) k).wr b F.SPD_SPARE_USED (n + 1)

/-- A stack page that earlier boots retired is remapped to the next spare (R251, R432). -/
def State.applyPage (s : State) (k page : Nat) : State :=
  if h : k < 20 then
    let n := s.rd (hbmBase ⟨k, h⟩) F.HBM_RETIRE_COUNT + 1
    let s := { s with mem := { s.mem with perStack := vupd s.mem.perStack ⟨k, h⟩ fun t => { t with remap := SMap.set 0 t.remap page n } } }
    s.wr (hbmBase ⟨k, h⟩) F.HBM_RETIRE_COUNT n
  else s

/-- A core that serves no more: reported down. -/
def State.coreOut (s : State) (c : PCore) : State :=
  ({ s with coresDown := putBit s.coresDown c.val true }).wr (coreBase c) F.SEQ_STATUS_STATE 5

/-- Apply a set of lasting actions. -/
def State.applyRepair (s : State) (r : Repair) : State :=
  let s := r.rows.foldl (fun s x => s.applyRow x.1 x.2) s
  let s := (r.banks.filter fun x => x.2 < 64).foldl (fun s x => s.applyBank x.1 x.2) s
  let s := r.engines.foldl (fun s e => s.wr (opeBase (engOf e).1 (engOf e).2) F.OPE_STATUS_STATE 6) s
  let s := r.cores.foldl (fun s c => s.coreOut (coreOf c)) s
  r.pages.foldl (fun s x => s.applyPage x.1 x.2) s

/-- The failures bring-up finds take their lasting action and are added to the record (R432). -/
def State.bootFails (s : State) (t : BootTest) : State :=
  let s := t.fails.foldl (fun s x =>
    match x.2.2.2 with
    | .pass => s
    | r =>
      let s := (s.lasting ⟨x.1, x.2.1, 0, x.2.2.1, 0, 0, none, none, false, true⟩ r).1
      if x.1 = 0x9 then s.applyPage x.2.1 x.2.2.1 else s) s
  allCores.foldl (fun s c => if t.cores.testBit c.val && s.enabled c && !s.coresDown.testBit c.val then s.coreDown c else s) s

/-! ### Dies, domains and clocks (R17, R423, R473) -/

/-- The two bridges of a die (R17). -/
def bridgesOf (d : Nat) : List Nat := if d = 0 then [0, 3] else if d = 1 then [0, 1] else if d = 2 then [2, 3] else [1, 2]

/-- Whether a die is fenced whole: its control processor fails, or neither of its bridges trains (R423). -/
def dieFenced (t : BootTest) (d : Nat) : Bool := t.dies.testBit d || (bridgesOf d).all fun b => t.bridges.testBit b

/-- The bridge ends that are up: bit 0 horizontal (bridges 0 and 2), bit 1 vertical (1 and 3). -/
def bridgeEnds (t : BootTest) (d : Nat) : Nat :=
  (bridgesOf d).foldl (fun m b => if t.bridges.testBit b then m else m ||| (if b % 2 = 0 then 1 else 2)) 0

/-- The stacks that are up. -/
def bootStacks (t : BootTest) : List Stack := (List.finRange 20).filter fun k => !t.stackBad.testBit k.val && !dieFenced t (k.val / 5)

/-- The bits of some numbers. -/
def maskOf (l : List Nat) : Nat := l.foldl (fun m i => m ||| 2 ^ i) 0

/-- Dies, stacks, bridges, domains and clocks after bring-up's step 3: a fenced die's cores are down, and a domain whose units are all
down is off (R423). -/
def State.bootUnits (s : State) (t : BootTest) : State :=
  let s := allCores.foldl (fun s c => if dieFenced t (dieOf c).val && s.enabled c then s.coreOut c else s) s
  let s := (List.finRange 4).foldl (fun s d => s.wr (netBase d) F.NET_BRIDGE_UP (bridgeEnds t d.val)) s
  let ups := (bootStacks t).map Fin.val
  let cl := (List.range 16).filter fun k => allCores.any fun c => (clusterOf c).val = k && s.enabled c && !s.coresDown.testBit c.val
  let lc := (List.range 8).filter fun x => !dieFenced t (x / 2)
  let s := (List.finRange 20).foldl (fun s k => s.stackShow k) (s.wr mmemBase F.HBM_MAP_STACKS_UP (maskOf ups))
  let s := s.wr pwrBase F.PWR_PDSTAT_ON (maskOf (cl ++ lc.map (· + 16) ++ ups.map (· + 24)))
  let s := s.wr clkBase F.CLK_STATUS_LOCK (maskOf ((List.range 4).filter fun d => !dieFenced t d))
  (((s.setOn clkBase F.CLK_STATUS_REF_OK).wr clkBase F.CLK_PHY_HBM (maskOf ups)).wr clkBase F.CLK_PHY_LINK (maskOf lc))

/-- What the CXL link trains to with what the other end offers: rate, width code and flit format; none where the port stays down (R338). -/
def cxlTrained (o : CxlOffer) : Option (Nat × Nat × Nat) :=
  if o.flit256 && (o.g32 || o.g64) && decide (1 ≤ o.width) && decide (o.width ≤ 4) then
    some (if o.g64 then 1 else 0, o.width, if o.lopt then 1 else 0)
  else none

/-- Step 4: the CXL port begins to train, or its failure is reported over the I3C sideband (R338, R421, R430). -/
def State.bootCxl (s : State) (t : BootTest) : State :=
  match t.cxl.bind cxlTrained with
  | none => s.emit .cxlFailed
  | some l => ({ s with boot := { s.boot with link := some l } }).wr cxlBase F.CXL_LINK_STATE 1

/-- The training of the CXL link ends (R338, R360; when, log entry 118). -/
def State.linkSettle (s : State) : State :=
  match s.boot.link with
  | none => s
  | some (rate, width, flit) =>
    let s := { s with boot := { s.boot with link := none } }
    let s := ((s.wr cxlBase F.CXL_LINK_STATE 2).wr cxlBase F.CXL_LINK_RATE rate).wr cxlBase F.CXL_LINK_WIDTH width
    (s.wr cxlBase F.CXL_LINK_FLIT flit).setOn clkBase F.CLK_PHY_CXL

/-- Cable ends are authenticated and their ports train; at power-on an end last used elsewhere is counted and takes this module's identity
and receptacle (R309, R310, R421). -/
def State.bootCables (s : State) : State :=
  let cold := s.pins.cold
  let s := (List.finRange 12).foldl (fun s n =>
    let s := if s.cables[n].isSome then s.wr (cabBase n) F.CAB_STATUS_PRESENT 1 else s
    if !s.vcc3 n then s else (portsOf n).foldl (fun s p => s.trainStart p) (s.cableRead n cold)) s
  { s with pins := { s.pins with cold := false } }

/-! ### Measurements (R439) -/

/-- The bytes of a list of numbers. -/
def numBytes (l : List Nat) : List Byte := l.flatMap (leBytes 8)

/-- The bytes of a set of lasting actions. -/
def Repair.bytes (r : Repair) : List Byte :=
  numBytes (r.rows.flatMap fun x => [x.1, x.2]) ++ numBytes (r.banks.flatMap fun x => [x.1, x.2]) ++ numBytes r.engines ++ numBytes r.cores ++
    numBytes (r.pages.flatMap fun x => [x.1, x.2])

/-- Take measurement `i`. -/
def State.measure (s : State) (i d : Nat) : State := { s with boot := { s.boot with meas := SMap.put i d s.boot.meas } }

/-- Measurement 1, the boot ROM. -/
def State.measureRom (s : State) : State := s.measure 1 Config.bootRom

/-- Measurement 5: the licences that verified. -/
def State.measureLic (s : State) : State := s.measure 5 (sha512 s.boot.licGood.flatten)

/-- Measurements 1 to 5: boot ROM, image, SVN and count, yield map and repairs, licences. -/
def State.measureBoot (s : State) : State :=
  let b := s.boot
  let img := (s.slot (s.rd secBase F.SEC_STATUS_SLOT)).chunks.flatMap Prod.snd
  let s := s.measureRom.measure 2 (sha512 img)
  let s := s.measure 3 (sha512 (leBytes 1 (s.rd secBase F.SEC_FWVER_SVN) ++ leBytes 1 b.svn))
  (s.measure 4 (sha512 (numBytes (s.disabled.toList.map Fin.val) ++ b.fuses.bytes ++ leBytes 8 b.yieldId ++ b.repair.bytes))).measureLic

/-- Measurement 6: the class in force and RESULT. -/
def State.measureClass (s : State) : State :=
  s.measure 6 (sha512 (leBytes 1 s.powerClass ++ leBytes 1 (s.rd pwrBase F.PWR_CLASS_RESULT)))

/-- Measurement 7: the report as first written. -/
def State.measureReport (s : State) : State := s.measure 7 (sha512 s.readiness)

/-! ### Bring-up (R421 to R424, R429, R430) -/

/-- The boot state. -/
def State.bootState (s : State) (v : Nat) : State := s.wr secBase F.SEC_STATUS_BOOTSTATE v

/-- `ERR_FATAL` reports the last fatal record that the flash holds (R394, R399). -/
def State.fatalShow (s : State) : State :=
  match s.fatalLog.getLast? with
  | none => s
  | some ws =>
    let w := ws.getD 2 0
    ((s.setOn errBase F.ERR_FATAL_VALID).wr errBase F.ERR_FATAL_CAUSE (bits w 8 8)).wr errBase F.ERR_FATAL_SEQNO (bits w 32 32)

/-- The recovery state: the CXL link trains and the report is readable (R430, R435). -/
def State.recover (s : State) : State := (s.linkSettle.bootState 4).writeReport

/-- Bring-up past step 1: the image, the licences, the CXL port, fuses and repairs, and the units; steps 5 and 6 follow once the class is settled
(R421). Without a usable image, core or stack of die 0 the module recovers; without its control processor or security engine the boot ROM
halts. -/
def State.bringUp (s : State) (t : BootTest) : State :=
  let s := { s with boot := { s.boot with step := 2 } }
  if !t.core0 then { s with boot := { s.boot with step := 3 }, pins := { s.pins with alert := true } }
  else
    let s := (s.wr pwrBase F.PWR_CLASS_STRAP s.pins.seen).wr pwrBase F.PWR_CLASS_MOD_ID s.pins.seenId
    let s := s.wr pwrBase F.PWR_CLASS_STRAP_NOW s.pins.straps
    let s := (s.wr secBase F.SEC_ARB_COUNT s.boot.svn).wr secBase F.SEC_IDSERIAL_SERIAL s.boot.serial
    let s := s.bootCxl t
    if !t.flash then ((s.slotShow 0 5).slotShow 1 5).measureRom.recover
    else
      let x := s.fatalShow.licBoot.bootImage
      if !x.2 then x.1.measureRom.measureLic.recover
      else
        let s := (x.1.applyRepair x.1.boot.fuses).applyRepair x.1.boot.repair
        let s := (s.netAll F.NET_YIELDID_ID s.boot.yieldId).bootFails t
        let s := (s.bootUnits t).measureBoot
        let core := (List.range 16).any fun i => s.enabled (coreOf i) && !s.coresDown.testBit i
        if !core || !(bootStacks t).any fun k => k.val < 5 then s.recover
        else ({ s with pins := { s.pins with alert := true } }).bootState 1

/-- Bring-up leaves step 1 once the reference is present and the junctions are cool; THERM_N is then released. Without the reference it waits with
ALERT_N asserted (R430, R458, R461). -/
def State.leaveStep1 (s : State) (t : BootTest) : State :=
  if s.pins.noRef || s.pins.hot then
    { s with boot := { s.boot with step := 1 }, pins := { s.pins with alert := s.pins.alert || s.pins.noRef } }
  else ({ s with pins := { s.pins with therm := false, alert := false } }).bringUp t

/-- BRING_UP_START: PERST_N is released, or a module reset is over: bring-up starts from step 1. The straps are sampled at a release of
PERST_N (R421, R424, R450, R453). -/
def execBringUpStart (t : BootTest) (s : State) : Host.Outcome State Fault Refusal :=
  .next (
    if !s.pins.pwrgd || decide (s.boot.step ≠ 0) then s
    else
      let s := if s.pins.perst then { s with pins := { s.pins with perst := false, seen := s.pins.straps, seenId := s.pins.modId } } else s
      ({ s with boot := { s.boot with released := s.us } }).leaveStep1 t)

/-- BRING_UP_READY: step 6: the report is written, configuration requests are answered normally and PF0 vector 2 is sent; cable ends plugged in
since step 5 began are then read (R421, R422, R446). -/
def execBringUpReady (s : State) : Host.Outcome State Fault Refusal :=
  .next (
    if s.rd secBase F.SEC_STATUS_BOOTSTATE ≠ 1 ∨ s.rd pwrBase F.PWR_CLASS_RESULT = 0 ∨ s.rd cxlBase F.CXL_LINK_STATE ≠ 2 then s
    else
      let s := (s.bootState (if s.degraded then 3 else 2)).writeReport
      let s := s.measureReport.msix 0 2
      (List.finRange 12).foldl (fun s n => if s.receps[n].newly then s.cableBegin n else s) s)

/-! ### Attestation (R438 to R441) -/

/-- ALIAS_KEY_READY: the attestation key is derived from the device secret and measurements 1 to 4, and its alias certificate carries all seven:
it waits for them (R440). -/
def execAliasKeyReady (s : State) : Host.Outcome State Fault Refusal :=
  .next (
    let m := s.boot.meas
    if !([1, 2, 3, 4, 5, 6, 7].all fun i => m.any fun e => e.1 = i) then s
    else
      let seed := hmac512 s.boot.secret ([1, 2, 3, 4].flatMap fun i => leBytes 64 (SMap.get 0 m i))
      ({ s with boot := { s.boot with aliasKey := some (seed, m) } }).setOn secBase F.SEC_STATUS_ALIAS_READY)

/-- A request that signs with the attestation key: slot 0 signs nothing, and the key must be ready (R441). -/
def State.signing (s : State) (slot : Nat) : SpdmAns :=
  if slot ≠ 1 then .invalidRequest else if !s.on secBase F.SEC_STATUS_ALIAS_READY then .busy else .ok

/-- A request inside a secured session. -/
def State.inSession (s : State) (n : Nat) : SpdmAns := if s.boot.sessions.contains n then .ok else .invalidRequest

/-- What a measurement index names: their number, one of them, or all (R439). -/
def State.measured (s : State) (i : Nat) : Option (List Nat) :=
  if i = 0 then some [s.boot.meas.length] else if i = 0xFF then some (s.boot.meas.map Prod.snd)
  else (s.boot.meas.find? fun e => e.1 = i).map fun e => [e.2]

/-- The certificate chain of a slot: 0 the identity chain of the directory, 1 that with the alias certificate (R438, R440, R441). -/
def State.chainOf (s : State) (slot : Nat) : List Byte :=
  match slot, s.boot.aliasKey with
  | 0, _ => s.boot.chain
  | _, some a => s.boot.chain ++ Config.aliasCert s.boot.serial a.1 a.2
  | _, none => []

/-- The answer to a request, what it carries, and what it changes (R358, R441). -/
def State.spdm (s : State) (doe : Bool) (r : SpdmReq) : State × SpdmAns × SpdmData :=
  let bare (a : SpdmAns) : State × SpdmAns × SpdmData := (s, a, .empty)
  match r with
  | .getVersion => (s, .ok, .version 0x13)
  | .getCapabilities => (s, .ok, .capabilities [.cert, .chal, .measSig, .keyEx, .encrypt, .mac, .hbeat, .keyUpd])
  | .negotiate => (s, .ok, .algorithms [.rsassa4096, .rsapss4096, .sha512, .secp384r1, .aes256Gcm])
  | .getDigests =>
    (s, .ok, .digests ((if s.boot.aliasKey.isSome then [0, 1] else [0]).map fun k => (k, sha512 (s.chainOf k))))
  | .getCertificate slot =>
    match (if slot = 0 then .ok else s.signing slot) with
    | .ok => (s, .ok, .chain (s.chainOf slot))
    | a => bare a
  | .challenge slot => bare (s.signing slot)
  | .getMeasurements slot i sign =>
    match (if sign then s.signing slot else .ok), s.measured i with
    | .ok, some ms => (s, .ok, .measurements ms)
    | .ok, none => bare .invalidRequest
    | a, _ => bare a
  | .keyExchange slot n =>
    match s.signing slot with
    | .ok =>
      if s.boot.sessions.length ≥ 4 then bare .sessionLimitExceeded
      else if s.boot.sessions.contains n then bare .invalidRequest
      else ({ s with boot := { s.boot with sessions := s.boot.sessions ++ [n] } }, .ok, .session n)
    | a => bare a
  | .endSession n => ({ s with boot := { s.boot with sessions := s.boot.sessions.filter fun m => m ≠ n } }, s.inSession n, .empty)
  | .heartbeat n => bare (s.inSession n)
  | .keyUpdate n => bare (s.inSession n)
  | .ideKeys n stream =>
    if doe && s.boot.sessions.contains n then
      let s := match stream with
        | .cm skid => { s with ideSkid := skid }
        | _ => s
      (s.setIde (ideIndex stream) .secure, .ok, .empty)
    else bare .invalidRequest

/-- Whether PF0 answers configuration requests, and so DOE: in service, or in recovery over a link that has trained (R338, R421, R430). -/
def State.doeOpen (s : State) : Bool :=
  s.inService || (decide (s.rd secBase F.SEC_STATUS_BOOTSTATE = 4) && decide (s.rd cxlBase F.CXL_LINK_STATE = 2))

/-- Whether the host's accesses reach the security, licence and error pages: ready, or in recovery (R358, R430, R447). -/
def State.secReady (s : State) : Bool := s.doeOpen && s.ioOpen

/-- SPDM_REQUEST: a request over DOE or over the I3C sideband is answered, from step 2 of bring-up (R441, R446). -/
def execSpdmRequest (doe : Bool) (r : SpdmReq) (s : State) : Host.Outcome State Fault Refusal :=
  .next (
    if s.rd secBase F.SEC_STATUS_BOOTSTATE = 0 ∨ (doe = true ∧ s.doeOpen = false) then s
    else
      let x := s.spdm doe r
      x.1.emit (.spdm doe x.2.1 x.2.2))

/-! ### Firmware commands (R427, R428, R432, R447) -/

/-- Do `k` for PF0 on the pages that it reaches in recovery too (R430, R447). -/
def State.asSec (s : State) (f : Func) (addr : Nat) (k : State → State) : State :=
  if !s.ioOpen then s else if f.val = 0 then k s else if s.inService then s.authReject f .register addr else s

/-- Report a firmware command: 0 done, else refused with a reason. -/
def State.fwEnd (s : State) (why : Nat) : State :=
  if why = 0 then s.wr secBase F.SEC_FWCMDSTAT_STATE 2
  else (s.wr secBase F.SEC_FWCMDSTAT_STATE 3).wr secBase F.SEC_FWCMDSTAT_REASON why

/-- The slot that did not boot. -/
def State.spareSlot (s : State) : Nat := 1 - s.rd secBase F.SEC_STATUS_SLOT

/-- WRITE: the staging buffer goes to a chunk of the slot that did not boot; the first one sets its state to 4 (R427, R446). -/
def State.fwWrite (s : State) (chunk : Nat) (fails : Bool) : State :=
  let n := s.spareSlot
  let s := if s.boot.writing then s else s.onSlot n fun f => { f with staging := true }
  let s := ({ s with boot := { s.boot with writing := true } }).slotShow n 4
  if fails then s.fwEnd 6
  else (s.onSlot n fun f => { f with chunks := SMap.put chunk (readBytes s.boot.stage 0 4096) f.chunks }).fwEnd 0

/-- VERIFY: a staged slot that passes R426 becomes valid and preferred (R427). -/
def State.fwVerify (s : State) (fails : Bool) : State :=
  let n := s.spareSlot
  if slotCheck (s.slot n) s.boot.svn ≠ 1 then s.fwEnd 3
  else if fails then s.fwEnd 6
  else
    let s := (s.onSlot n fun f => { f with staging := false }).slotShow n 1
    (({ s with boot := { s.boot with prefer := n } }).wr secBase F.SEC_SLOTSTAT_PREFER n).fwEnd 0

/-- COMMIT_SVN begins: the count is to rise to the SVN of the booted image (R428). -/
def State.fwCommit (s : State) : State :=
  if s.rd secBase F.SEC_FWVER_SVN ≤ s.boot.svn then s.fwEnd 4
  else ({ s with boot := { s.boot with committing := true } }).wr secBase F.SEC_FWCMDSTAT_STATE 1

/-- A running COMMIT_SVN blows one fuse and reads it back; after the last a slot below the count reports state 3 (R428; one fuse in a cycle, log entry
119). -/
def State.fuseTick (s : State) : State :=
  if !s.boot.committing then s
  else
    let n := s.boot.svn + 1
    let s := ({ s with boot := { s.boot with svn := n } }).wr secBase F.SEC_ARB_COUNT n
    if n < s.rd secBase F.SEC_FWVER_SVN then s
    else
      let s := { s with boot := { s.boot with committing := false } }
      ([0, 1].foldl (fun s k => if s.slotShown k ≠ 4 ∧ slotCheck (s.slot k) n = 3 then s.slotShow k 3 else s) s).fwEnd 0

/-- PREFER: the slot that is not preferred becomes so, if it is valid (R427). -/
def State.fwPrefer (s : State) (fails : Bool) : State :=
  let n := 1 - s.boot.prefer
  if s.slotState n ≠ 1 then s.fwEnd 5
  else if fails then s.fwEnd 6
  else (({ s with boot := { s.boot with prefer := n } }).wr secBase F.SEC_SLOTSTAT_PREFER n).fwEnd 0

/-- A write of `SEC_FWCMD`: refused with REASON 0x1 while the module brings up or while COMMIT_SVN runs, whose STATE stays (log entry 119); `fails` says
whether a write of the flash fails (R427, R446, R447). -/
def State.fwCmd (s : State) (v : Nat) (fails : Bool) : State :=
  let op := bits v 0 3
  if op = 0 then s
  else if !s.secReady then s.fwEnd 1
  else if s.boot.committing then s.wr secBase F.SEC_FWCMDSTAT_REASON 1
  else
    let s := if op = 1 then s else { s with boot := { s.boot with writing := false } }
    match op with
    | 1 => s.fwWrite (bits v 8 12) fails
    | 2 => s.fwVerify fails
    | 3 => s.moduleReset 5
    | 4 => s.fwCommit
    | 5 => s.fwPrefer fails
    | 6 => if fails then s.fwEnd 6 else ({ s with boot := { s.boot with repair := Repair.none } }).fwEnd 0
    | _ => s.fwEnd 2

/-- FW_WRITE: the host writes a chunk to the staging slot (R427). -/
def execFwWrite (f : Func) (chunk : BitVec 12) (fails : Bool) (s : State) : Host.Outcome State Fault Refusal :=
  .next (s.asSec f secBase fun s => s.fwCmd (1 + chunk.toNat * 256) fails)
/-- FW_VERIFY: the host has the staged slot checked (R427). -/
def execFwVerify (f : Func) (fails : Bool) (s : State) : Host.Outcome State Fault Refusal :=
  .next (s.asSec f secBase fun s => s.fwCmd 2 fails)
/-- FW_ACTIVATE: the host resets the module into the new firmware (R377, R427). -/
def execFwActivate (f : Func) (s : State) : Host.Outcome State Fault Refusal :=
  .next (s.asSec f secBase fun s => s.fwCmd 3 false)
/-- COMMIT_SVN: the host raises the anti-rollback count (R428). -/
def execCommitSvn (f : Func) (s : State) : Host.Outcome State Fault Refusal :=
  .next (s.asSec f secBase fun s => s.fwCmd 4 false)
/-- FW_PREFER: the host prefers the other slot (R427). -/
def execFwPrefer (f : Func) (fails : Bool) (s : State) : Host.Outcome State Fault Refusal :=
  .next (s.asSec f secBase fun s => s.fwCmd 5 fails)
/-- CLEAR_REPAIR: the host empties the repair record, for the next module reset (R432). -/
def execClearRepair (f : Func) (fails : Bool) (s : State) : Host.Outcome State Fault Refusal :=
  .next (s.asSec f secBase fun s => s.fwCmd 6 fails)

/-! ### Licence commands (R445, R448) -/

/-- Report a licence command: 0 done, else refused with a reason. -/
def State.licEnd (s : State) (why : Nat) : State :=
  if why = 0 then s.wr licBase F.LIC_CMDSTAT_STATE 2
  else (s.wr licBase F.LIC_CMDSTAT_STATE 3).wr licBase F.LIC_CMDSTAT_REASON why

/-- Change an entry of the store: PRESENT follows the flash; the active set changes at the next module reset (R445). -/
def State.licStore (s : State) (i : Nat) (l : List Byte) : State :=
  let s := { s with boot := { s.boot with lics := SMap.set [] s.boot.lics i l } }
  let s := s.wrBit licBase F.LIC_STORED_PRESENT i (!l.isEmpty)
  (s.wr licBase F.LIC_CMDSTAT_INDEX i).licEnd 0

/-- INSTALL: FORMAT and reserved bits, SERIAL and signature are checked, and the licence goes to the lowest free entry (R445). -/
def State.licInstall (s : State) (fails : Bool) : State :=
  let l := readBytes s.boot.licBuf 0 1024
  if !licForm l then s.licEnd 4
  else if licField l 4 8 ≠ s.boot.serial then s.licEnd 3
  else if !Config.licenceOk l then s.licEnd 2
  else
    match (List.range 16).find? fun i => (SMap.get [] s.boot.lics i).isEmpty with
    | none => s.licEnd 5
    | some i => if fails then s.licEnd 6 else s.licStore i l

/-- REMOVE: an entry is emptied (R445). -/
def State.licRemove (s : State) (i : Nat) (fails : Bool) : State :=
  if (SMap.get [] s.boot.lics i).isEmpty then s.licEnd 7 else if fails then s.licEnd 6 else s.licStore i []

/-- A write of `LIC_CMD` (R445, R446, R448). -/
def State.licCmd (s : State) (v : Nat) (fails : Bool) : State :=
  let op := bits v 0 2
  if op = 0 then s
  else if !s.secReady || s.boot.committing then s.licEnd 1
  else
    match op with
    | 1 => s.licInstall fails
    | 2 => s.licRemove (bits v 4 4) fails
    | _ => s.licEnd 4

/-- LICENCE_INSTALL: the host installs the licence it has written to `LIC_BUF` (R445). -/
def execLicenceInstall (f : Func) (fails : Bool) (s : State) : Host.Outcome State Fault Refusal :=
  .next (s.asSec f licBase fun s => s.licCmd 1 fails)
/-- LICENCE_REMOVE: the host removes an entry (R445). -/
def execLicenceRemove (f : Func) (i : Fin 16) (fails : Bool) (s : State) : Host.Outcome State Fault Refusal :=
  .next (s.asSec f licBase fun s => s.licCmd (2 + i.val * 16) fails)

end Sys2Proof.Machine
end

