-- ==== Sys2Proof/Machine/Power.lean ====
section
/-!
DEFINITION. Power, clocks and cooling (R449 to R473): input power and PERST_N, the reference, rails, the governor, thermal trips, the
power class, and the switched domains.
-/
namespace Sys2Proof.Machine

/-- Change the pins. -/
def State.onPins (s : State) (f : PinRec → PinRec) : State := { s with pins := f s.pins }

/-- Whether the boot ROM has handed over: a step of bring-up past the second runs, or has run (R421). -/
def State.booted (s : State) : Bool := decide (s.rd secBase F.SEC_STATUS_BOOTSTATE ≠ 0)

/-! ### Power-on and power-off (R465) -/

/-- What is left without power: fuses, flash, cable ends and the pins. -/
def State.powerLost (s : State) : State :=
  { State.reset with
    pending := s.pending
    disabled := s.disabled
    cables := s.cables
    boot := { s.boot with
      stage := [], licBuf := [], meas := [], aliasKey := none, nonce := none, sessions := [], writing := false, committing := false,
      released := 0, step := 0, link := none }
    pins := { s.pins with alert := false, therm := false, ramping := [], perst := true, cold := true }
    fatalLog := s.fatalLog
    out := s.out
    free := s.free }

/-- POWER_INPUT_APPLY: 54 V is applied with the straps tied; the rails are sequenced and PWRGD is released, unless the input falls below
47 V before (R465, R470). -/
def execPowerInputApply (straps : Fin 4) (modId : Fin 64) (holds : Bool) (s : State) : Host.Outcome State Fault Refusal :=
  .next (if s.pins.pwrgd then s
    else s.powerLost.onPins fun q => { q with input := true, pwrgd := holds, straps := straps.val, modId := modId.val })

/-- PERST_N_ASSERT: a module reset with cause 1; stacks go to self-refresh and every switchable domain off (R377, R381, R465). -/
def execPerstNAssert (s : State) : Host.Outcome State Fault Refusal :=
  .next (if !s.pins.pwrgd || s.pins.perst then s
    else
      let s := (s.moduleReset 1).onPins fun q => { q with perst := true }
      (List.finRange 20).foldl (fun s k => s.wr (hbmBase k) F.HBM_STATUS_STATE 3) s)

/-- INPUT_UNDERVOLTAGE: the input falls below 46 V and PWRGD is pulled low (R465). -/
def execInputUndervoltage (mv : BitVec 16) (s : State) : Host.Outcome State Fault Refusal :=
  .next (if mv.toNat ≥ 46000 then s
    else (s.wr pwrBase F.PWR_INPUT_VIN_MV mv.toNat).onPins fun q => { q with pwrgd := false })

/-! ### Clocks (R458) -/

/-- LOCATION of a record of unit 0xE (R471). -/
def pwrLoc (kind index reading : Nat) : Nat := kind + index * 256 + reading * 65536

/-- REFERENCE_CLOCK_LOSS: the reference is lost, or a PLL of a die loses lock: fatal error 0x1A; bring-up waits at step 1 (R458). -/
def execReferenceClockLoss (pll : Option Die) (s : State) : Host.Outcome State Fault Refusal :=
  .next (if !s.pins.pwrgd then s
    else
      let s := s.onPins fun q => { q with noRef := true }
      match pll with
      | none => s.fatal 0xE 0 (pwrLoc 2 0 0) 0x1A 0
      | some d => s.fatal 0xE d.val (pwrLoc 1 0 0) 0x1A 0)

/-- REFERENCE_CLOCK_RESTORED: the reference is present and every root PLL locks; bring-up leaves step 1 where it waits there (R458). -/
def execReferenceClockRestored (t : BootTest) (s : State) : Host.Outcome State Fault Refusal :=
  .next (
    let s := s.onPins fun q => { q with noRef := false }
    if s.boot.step = 1 then s.leaveStep1 t else s)

/-! ### The governor (R459, R460) -/

/-- The duty and its source take effect: `PWR_DUTY`, and the value the network's periods take (R214). -/
def State.setDuty (s : State) (n src : Nat) : State :=
  let s := (s.wr pwrBase F.PWR_DUTY_DUTY n).wr pwrBase F.PWR_DUTY_SOURCE (if n = 0 then 0 else src)
  s.netAll F.NET_SUPPRESS_DUTY n

/-- The limit in force in watts (R459, R472). -/
def State.powerLimit (s : State) : Nat :=
  let l := s.rd pwrBase F.PWR_CLASS_LIMIT_W
  let c := s.rd pwrBase F.PWR_CAP_CAP
  if c = 0 ∨ c > l then l else max c 500

/-- The largest of the four demands, with the source that makes it (the first in the order power, peak, junction, HBM). -/
def largestDemand (d : Demands) : Nat × Nat :=
  let pick (best : Nat × Nat) (x : Nat × Nat) : Nat × Nat := if x.1 > best.1 then x else best
  [(d.power.val, 1), (d.peak.val, 2), (d.junction.val, 3), (d.hbm.val, 4)].foldl pick (0, 0)

/-- What the governor measures shows in the power registers and in the hottest stack's (R459, R461, R472). -/
def State.showReadings (s : State) (r : Readings) : State :=
  let s := s.wr pwrBase F.PWR_INPUT_PEAK_W (max r.peak (s.rd pwrBase F.PWR_INPUT_PEAK_W))
  let s := s.wr pwrBase F.PWR_INPUT_VIN_MV r.vin
  let s := (List.range 4).foldl (fun s d => s.wr pwrBase F.PWR_TEMP_TJ (r.tj.getD d 0) d) s
  let s := (s.wr pwrBase F.PWR_TEMP_HBM_MAX r.hbm).wr pwrBase F.PWR_TEMP_HBM_STACK r.stack
  let s := if h : r.stack < 20 then s.wr (hbmBase ⟨r.stack, h⟩) F.HBM_STATUS_TEMP r.hbm else s
  ((List.range 33).filter fun k => k = 32 || k % 8 ≠ 7).foldl (fun s k =>
    let x := r.rails.getD k (0, 0, 0)
    ((s.wr pwrBase F.PWR_RAIL_MV x.1 k).wr pwrBase F.PWR_RAIL_CURRENT x.2.1 k).wr pwrBase F.PWR_RAIL_STATE x.2.2 k) s

/-- GOVERNOR_INTERVAL: every 100 µs the duty becomes the largest of the four demands, or stays at 15 during a rail warning (R459, R460). -/
def execGovernorInterval (d : Demands) (r : Readings) (s : State) : Host.Outcome State Fault Refusal :=
  .next (if !s.booted then s
    else
      let n := largestDemand d
      let s := s.showReadings r
      let s := if s.gov.warnEnd.isSome then s else s.setDuty n.1 n.2
      let on := decide (s.rd pwrBase F.PWR_DUTY_DUTY > 0)
      let t := s.gov.tenths + if on then 1 else 0
      let s := { s with gov := { s.gov with
        full := s.gov.full && decide (s.rd pwrBase F.PWR_DUTY_DUTY = 15), tenths := if t = 10 then 0 else t, loop := n } }
      if t = 10 then s.count pwrBase F.PWR_EVENTS_THROTTLE_MS else s)

/-- GOVERNOR_WINDOW_END: a 10 ms window ends with its average; one over the limit through which the duty stood at 15 is counted and
reported (R459, R460). -/
def execGovernorWindowEnd (w : BitVec 16) (s : State) : Host.Outcome State Fault Refusal :=
  .next (if !s.booted then s
    else
      let isOver := s.gov.full && decide (w.toNat > s.powerLimit)
      let s := s.wr pwrBase F.PWR_INPUT_WINDOW_W w.toNat
      let s := { s with gov := { s.gov with full := decide (s.rd pwrBase F.PWR_DUTY_DUTY = 15) } }
      if isOver then (s.sat pwrBase F.PWR_EVENTS_OVER).msix 0 3 else s)

/-- RAIL_WARNING: a rail falls below 97 % of nominal: the duty is 15 for 20 µs (R460). -/
def execRailWarning (rail : Fin 33) (s : State) : Host.Outcome State Fault Refusal :=
  .next (if !s.booted then s
    else
      let s := (s.wr pwrBase F.PWR_RAIL_STATE 2 rail.val).sat pwrBase F.PWR_EVENTS_DROOP
      ({ s with gov := { s.gov with warnEnd := some (s.us + 20) } }).setDuty 15 2)

/-- RAIL_WARNING_END: after 20 µs the 100 µs loop resumes with its largest demand (R460, R470). -/
def execRailWarningEnd (s : State) : Host.Outcome State Fault Refusal :=
  .next (match s.gov.warnEnd with
    | some t =>
      if s.us < t then s else ({ s with gov := { s.gov with warnEnd := none } }).setDuty s.gov.loop.1 s.gov.loop.2
    | none => s)

/-- RAIL_FAULT: a rail outside its fault limits: fatal error 0x1B; PWRGD is pulled low (R460, R465, R471). -/
def execRailFault (rail : Fin 33) (mv : BitVec 16) (s : State) : Host.Outcome State Fault Refusal :=
  .next (if !s.pins.pwrgd then s
    else
      let s := s.onPins fun q => { q with pwrgd := false }
      let s := s.fatal 0xE (if rail.val = 32 then 0 else rail.val / 8) (pwrLoc 0 rail.val mv.toNat) 0x1B 0
      (s.wr pwrBase F.PWR_RAIL_MV mv.toNat rail.val).wr pwrBase F.PWR_RAIL_STATE 3 rail.val)

/-! ### Temperature (R461) -/

/-- THERMAL_TRIP: a junction (die and sensor) or a stack over its limit: THERM_N, fatal error 0x1C, and bring-up waits at step 1 (R461). -/
def execThermalTrip (stack : Bool) (die : Die) (i : Fin 32) (temp : BitVec 8) (s : State) : Host.Outcome State Fault Refusal :=
  .next (
    let t := temp.toNat
    let trips := if stack then decide (t ≥ 100) && decide (i.val < 20)
      else decide (t ≥ 110) || (decide (t > 105) && decide (s.rd pwrBase F.PWR_DUTY_DUTY = 15))
    if !s.pins.pwrgd || !trips then s
    else
      let s := s.onPins fun q => { q with therm := true, hot := true }
      if stack then s.fatal 0xE (i.val / 5) (pwrLoc 4 i.val t) 0x1C 0 else s.fatal 0xE die.val (pwrLoc 3 i.val t) 0x1C 0)

/-- JUNCTION_COOLED: every junction is below 90 °C and every stack below 85 °C; bring-up leaves step 1 where it waits there (R461). -/
def execJunctionCooled (t : BootTest) (s : State) : Host.Outcome State Fault Refusal :=
  .next (
    let s := s.onPins fun q => { q with hot := false }
    if s.boot.step = 1 then s.leaveStep1 t else s)

/-! ### The power class (R449 to R453) -/

/-- The low 6 bits of the module's I3C provisional ID are MOD_ID as sampled (R450). -/
def State.provisionalId (s : State) : Nat := Config.provisionalHigh * 64 + s.rd pwrBase F.PWR_CLASS_MOD_ID

/-- The class settles: class in force, class confirmed (3 none) and RESULT, with the class's limit and divisors; the steps after it run in that class:
the cable ends are read and their ports train (R421, R449, R452, R457). -/
def State.classSettle (s : State) (cls confirmed result : Nat) : State :=
  let s := ((s.wr pwrBase F.PWR_CLASS_INFORCE cls).wr pwrBase F.PWR_CLASS_CONFIRMED confirmed).wr pwrBase F.PWR_CLASS_RESULT result
  let s := s.wr pwrBase F.PWR_CLASS_LIMIT_W (if cls = 0 then 3200 else if cls = 1 then 2600 else 1500)
  let s := s.wr clkBase F.CLK_STATUS_CORE_DIV (8 + 2 * cls)
  let s := s.wr clkBase F.CLK_STATUS_NET_DIV (4 + cls)
  let s := (s.onPins fun q => { q with alert := false }).measureClass.linkSettle
  let s := s.wr brdmBase F.BRD_ACTIVE_LIMIT s.portLimit
  let s := match s.rd secBase F.SEC_STATUS_BOOTSTATE with
    | 1 => s.bootCables
    | 4 => s.writeReport
    | _ => s
  if result = 1 then s else s.msix 0 3

/-- The class in force and RESULT by the straps and the class named, for a message that is valid or not (R452). -/
def classDecide (straps cls : Nat) (valid permitted : Bool) : Nat × Nat :=
  if !valid then (2, 4)
  else if !permitted then (2, 3)
  else if straps = 3 then (2, if cls = 2 then 1 else 2)
  else if cls = straps then (straps, 1)
  else (2, 2)

/-- STRAP_CHANGE: a strap changes; it shows in STRAP_NOW, and in service by PF0 vector 3 (R453). -/
def execStrapChange (straps : Fin 4) (s : State) : Host.Outcome State Fault Refusal :=
  .next (if s.pins.straps = straps.val then s
    else
      let s := (s.onPins fun q => { q with straps := straps.val }).wr pwrBase F.PWR_CLASS_STRAP_NOW straps.val
      if s.rd pwrBase F.PWR_CLASS_RESULT = 0 then s else s.msix 0 3)

/-- CLASS_NONCE: the baseboard asks, and a fresh nonce of 32 bytes is returned (R451). -/
def execClassNonce (s : State) : Host.Outcome State Fault Refusal :=
  .next (if !s.booted then s
    else
      let v := Config.freeValue s.fresh.1 % 2 ^ 256
      let s := s.fresh.2
      ({ s with boot := { s.boot with nonce := some v } }).emit (.sideband true v))

/-- Whether the settlement's 220 ms have passed (R452). -/
def State.classLate (s : State) : Bool := decide (s.boot.released + 220000 ≤ s.us)

/-- CLASS_CONFIRM: the message is verified and settles the class; after settlement, or 220 ms, it is answered with an error (R451 to R453,
R470). -/
def execClassConfirm (m : ClassMsg) (s : State) : Host.Outcome State Fault Refusal :=
  .next (if !s.booted then s
    else if s.rd pwrBase F.PWR_CLASS_RESULT ≠ 0 ∨ s.classLate = true then s.emit (.sideband false 0)
    else
      let own := decide (s.boot.nonce = some m.nonce) && decide (m.serial = s.boot.serial) && decide (m.modId = s.pins.seenId)
      let valid := own && decide (m.cls < 3) && Config.confirmOk m.cls m.modId m.serial m.nonce m.chain m.sig
      let r := classDecide s.pins.seen m.cls valid (Config.chassisPermits m.chain m.cls)
      (s.classSettle r.1 m.cls r.2).emit (.sideband true r.2))

/-- CLASS_SETTLE_TIMEOUT: nothing was confirmed by 220 ms: Class A (R452). -/
def execClassSettleTimeout (s : State) : Host.Outcome State Fault Refusal :=
  .next (if !s.booted || decide (s.rd pwrBase F.PWR_CLASS_RESULT ≠ 0) || !s.classLate then s else s.classSettle 2 3 5)

/-! ### Cluster domains (R454, R455) -/

/-- The cores of a cluster that the yield map enables. -/
def State.clusterCores (s : State) (k : Nat) : List PCore := allCores.filter fun c => s.enabled c && decide ((clusterOf c).val = k)

/-- Whether a self-test is pending on a core (R387). -/
def State.testOn (s : State) (c : PCore) : Bool :=
  s.quar.any fun q => (q.unit = 0x1 || q.unit = 0x2 || q.unit = 0x4 || q.unit = 0x5) && decide (q.core = c)

/-- Whether a power-off of a cluster is refused (R455). -/
def State.offRefused (s : State) (k : Nat) : Bool :=
  let cs := s.clusterCores k
  cs.any (fun c => !(decide (s.seqState c = 0) || decide (s.seqState c = 3))) ||
    cs.any (fun c => s.resetting c || s.partInReset (s.partOf c) || (s.core c).fillEnd.isSome) ||
    (s.partCmd.any fun q => q.clusters.contains k) || cs.any s.testOn

/-- The contents of a core without power are lost; the spares in service and a disabled engine's state are not the core's to lose. -/
def State.coreLost (s : State) (c : PCore) : State :=
  let keep := [F.SPD_SPARE_BANK_A, F.SPD_SPARE_BANK_B, F.SPD_SPARE_USED].map (fun f => fkey (spdBase c) f 0) ++
    (List.finRange 4).flatMap fun e =>
      [F.OPE_STATUS_SPARES_USED, F.OPE_STATUS_SPARE_ROW_A, F.OPE_STATUS_SPARE_ROW_B].map fun f => fkey (opeBase c e) f 0
  let st := (List.finRange 4).map fun e => (e, s.rd (opeBase c e) F.OPE_STATUS_STATE)
  let s := ((s.orphan c).onCore c fun _ => CoreRec.reset).resetRange (coreBase c) (coreBase c + 0x100000) keep.contains
  let s := st.foldl (fun s x => if x.2 = 5 ∨ x.2 = 6 then s.wr (opeBase c x.1) F.OPE_STATUS_STATE x.2 else s) s
  { s with net := { s.net with src := s.net.src.filter fun x => x.core ≠ c.val } }

/-- A cluster's bit of `PWR_PDCTRL` is written to 1: its domain goes off, or the write is refused (R455). -/
def State.clusterOff (s : State) (k : Nat) : State :=
  if s.rdBit pwrBase F.PWR_PDCTRL_CLUSTER_OFF k then s
  else if s.offRefused k then s.setOn pwrBase F.PWR_PDSTAT_REJ
  else
    let s := (s.wrBit pwrBase F.PWR_PDCTRL_CLUSTER_OFF k true).wrBit pwrBase F.PWR_PDSTAT_ON k false
    let s := s.onPins fun q => { q with ramping := q.ramping.filter fun r => r ≠ k }
    (s.clusterCores k).foldl (fun s c => s.coreLost c) s

/-- A cluster's bit is written to 0: its domain goes on and its rails ramp (R455). -/
def State.clusterOn (s : State) (k : Nat) : State :=
  if !s.rdBit pwrBase F.PWR_PDCTRL_CLUSTER_OFF k then s
  else (s.wrBit pwrBase F.PWR_PDCTRL_CLUSTER_OFF k false).onPins fun q => { q with ramping := q.ramping ++ [k] }

/-- A write of `PWR_PDCTRL` (R472). -/
def State.pdCtrl (s : State) (v : Nat) : State :=
  (List.range 16).foldl (fun s k => if v.testBit k then s.clusterOff k else s.clusterOn k) s

/-- CLUSTER_POWER_OFF: the host switches a cluster domain off (R455). -/
def execClusterPowerOff (f : Func) (k : Cluster) (s : State) : Host.Outcome State Fault Refusal :=
  .next (s.asPF0 f pwrBase fun s => s.clusterOff k.val)
/-- CLUSTER_POWER_ON: the host switches a cluster domain on (R455). -/
def execClusterPowerOn (f : Func) (k : Cluster) (s : State) : Host.Outcome State Fault Refusal :=
  .next (s.asPF0 f pwrBase fun s => s.clusterOn k.val)

/-- DOMAIN_RAMP_COMPLETE: the rails of a cluster are up; each of its cores is reset and then zero-filled (R455). -/
def execDomainRampComplete (k : Cluster) (s : State) : Host.Outcome State Fault Refusal :=
  .next (if !s.pins.ramping.contains k.val then s
    else
      let s := s.onPins fun q => { q with ramping := q.ramping.filter fun r => r ≠ k.val }
      let s := s.wrBit pwrBase F.PWR_PDSTAT_ON k.val true
      let s := s.sat rstBase F.RST_COUNTS_CORE (s.clusterCores k.val).length
      (s.clusterCores k.val).foldl (fun s c => (s.onCore c fun r => { r with wantFill := true }).coreResetStart c) s)

/-! ### Link complex domains (R454, R456) -/

/-- The three ports of a link complex. -/
def complexPorts (x : Complex) : List Port := [⟨3 * x.val, by omega⟩, ⟨3 * x.val + 1, by omega⟩, ⟨3 * x.val + 2, by omega⟩]

/-- LINK_COMPLEX_DOMAIN_SWITCH: firmware switches a link complex off when its ports are all down or all disabled, and on when one is
enabled; its ports then train (R309, R433, R456). That of a fenced die stays off (R423). -/
def execLinkComplexDomainSwitch (x : Complex) (s : State) : Host.Outcome State Fault Refusal :=
  .next (if !s.booted then s
    else
      let ps := complexPorts x
      let d := 16 + x.val
      let enabled := ps.any fun p => s.on (brdBase p) F.BRD_CTRL_ENABLE
      let alive := ps.any fun p => decide (s.rd (brdBase p) F.BRD_STATUS_STATE = 1) || s.portUp p.val
      if s.rdBit pwrBase F.PWR_PDSTAT_ON d then
        if alive && enabled then s
        else
          let s := (s.wrBit pwrBase F.PWR_PDSTAT_ON d false).wrBit clkBase F.CLK_PHY_LINK x.val false
          s.portsDown ps 0
      else if !enabled || !s.rdBit clkBase F.CLK_STATUS_LOCK (x.val / 2) then s
      else
        let s := (s.wrBit pwrBase F.PWR_PDSTAT_ON d true).wrBit clkBase F.CLK_PHY_LINK x.val true
        ps.foldl (fun s p =>
          let n := receptOf p
          let s := if s.vcc3 n && decide (s.rd (cabBase n) F.CAB_STATUS_AUTH = 0) then s.cableRead n false else s
          s.trainStart p) s)

/-! ### Frame suppression (R47, R214, R215) -/

/-- FRAME_SUPPRESS: the frame at which the network stands is suppressed; every unit on the core side holds its state for its length
(R47, R214, R215). -/
def execFrameSuppress (s : State) : Host.Outcome State Fault Refusal :=
  .next (
    if s.netSlot = 0 ∧ s.net.frame ≠ 0 ∧ suppressed s.net.duty s.net.frame then
      let n := s.frameLen / 2
      let s := s.passTime (n * s.rd clkBase F.CLK_STATUS_CORE_DIV)
      let s := s.netAll F.NET_SUPPRESS_FRAMES (s.rd (netBase 0) F.NET_SUPPRESS_FRAMES + 1)
      let s := allCores.foldl (fun s c => (List.finRange 4).foldl (fun s e => s.count (opeBase c e) F.OPE_FROZEN_COUNT n) s) s
      s.onNet fun m => { m with frame := (m.frame + 1) % 16 }
    else s)

end Sys2Proof.Machine
end

