-- ==== Sys2Proof/Machine/HostRegs.lean ====
section
/-!
DEFINITION. Host writes (R7, R10, R341, R342): apertures, registers by address with the effects their tables give them, slot and route
tables, buffers, and the configuration of functions and page tables.
-/
namespace Sys2Proof.Machine

/-! ### Apertures (R98, R125, R184) -/

/-- IMEM_HOST_WRITE: a host write to instruction memory is applied whole or refused (R125, R127). -/
def execImemHostWrite (f : Func) (c : PCore) (off : BitVec 18) (data : List Byte) (s : State) : Host.Outcome State Fault Refusal :=
  .next (s.asCore f c .apWrite (0x900000000000 + c.val * 0x40000 + off.toNat) fun s =>
    if data.isEmpty then s else (s.imemWrite c off.toNat data 2).1)

/-- A host write to the scratchpad aperture: discarded beyond the scratchpad, and, with a count, in state 1; a zero-fill leaves nothing of one it
meets (R184, R196). -/
def State.spadHost (s : State) (c : PCore) (off : Nat) (data : List Byte) : State :=
  let bs := data.take (spadSize - off)
  if bs.isEmpty || (s.core c).fillEnd.isSome then s
  else if s.seqState c = 1 then s.sat (spdBase c) F.SPD_ECC_APERTURE_REJ
  else s.spadWrite c off bs

/-- SCRATCHPAD_APERTURE_WRITE (R184). -/
def execScratchpadApertureWrite (f : Func) (c : PCore) (off : BitVec 24) (data : List Byte) (s : State) : Host.Outcome State Fault Refusal :=
  .next (s.asCore f c .apWrite (0x800000000000 + c.val * 0x1000000 + off.toNat) fun s => s.spadHost c off.toNat data)

/-- ACC_APERTURE_WRITE: a host write to the accumulator debug aperture (R98). -/
def execAccApertureWrite (f : Func) (c : PCore) (off : BitVec 24) (data : List Byte) (s : State) : Host.Outcome State Fault Refusal :=
  .next (s.asCore f c .apWrite (0x800040000000 + c.val * 0x1000000 + off.toNat) fun s => s.accWrite c off.toNat data)

/-! ### Module-level registers with effects of their own -/

/-- A register page: where it begins, its size and its registers. -/
structure RegPage where
  base : Nat
  size : Nat
  regs : List RegDef

/-- The module-level register pages. -/
def modPages : List RegPage :=
  (List.finRange 4).map (fun d => ⟨netBase d, 0x100000, pageNet⟩) ++
  (List.finRange 20).map (fun k => ⟨hbmBase k, 0x100000, pageHbm⟩) ++
  (List.finRange 20).map (fun k => ⟨mseBase k, 0x100000, pageMse⟩) ++
  [⟨mmemBase, 0x100000, pageMmem⟩] ++
  (List.finRange 24).map (fun p => ⟨brdBase p, 0x100000, pageBrd⟩) ++
  [⟨brdmBase, 0x100000, pageBrdm⟩] ++
  (List.finRange 12).map (fun n => ⟨cabBase n, 0x1000, pageCab⟩) ++
  [⟨cabmBase, 0x10000, [R.CAB_POLICY]⟩, ⟨mcastBase, 0x100000, pageMcast⟩, ⟨cxlBase, 0x100000, pageCxl⟩, ⟨prtBase, 0x100000, pagePrt⟩,
    ⟨rstBase, 0x100000, pageRst⟩, ⟨errBase, 0x100000, pageErr⟩, ⟨mirBase, 0x100000, pageMir⟩, ⟨secBase, 0x100000, pageSec⟩,
    ⟨licBase, 0x100000, pageLic⟩, ⟨pwrBase, 0x100000, pagePwr⟩, ⟨clkBase, 0x100000, pageClk⟩]

/-- The module-level register at a local address: its page's base, the register and its instance. -/
def modReg (addr : Nat) : Option (Nat × RegDef × Nat) :=
  modPages.findSome? fun p =>
    if p.base ≤ addr ∧ addr < p.base + p.size then (regAt p.regs (addr - p.base)).map fun r => (p.base, r.1, r.2) else none

/-- A write of `MSE_NORMRANGE`: discarded where the range ends above 4,096 (R271). -/
def State.rangeWrite (s : State) (p v : Nat) : State :=
  if bits v 0 12 + bits v 12 13 > 4096 then s else s.writeReg mmemBase R.MSE_NORMRANGE p v

/-- A write of `MSE_NORMSEL`: CLEAR has the entry cleared by the next read (R271). -/
def State.normSel (s : State) (v : Nat) : State :=
  let s := s.writeReg mmemBase R.MSE_NORMSEL 0 v
  if v.testBit 12 then { s with mem := { s.mem with normClr := true } } else s

/-- A write of `MSE_OWNCMD` (R262). -/
def State.ownCmdWrite (s : State) (v : Nat) : State :=
  let s := s.writeReg mmemBase R.MSE_OWNCMD 0 v
  if v.testBit 46 then s.ownGo (bits v 0 20) (bits v 20 20) (bits v 40 5) (v.testBit 45) else s

/-- A write of a per-partition mirror register (R400, R418). -/
def State.mirWrite (s : State) (p : Part) (r : RegDef) (v : Nat) : State :=
  if r.off = 0 then
    let x := s.fresh
    x.2.mirCfg p v (Config.freeValue x.1)
  else if r.off = 8 ∨ r.off = 0x10 then (if s.on mirBase F.MIR_CFG_EN p.val then s else s.writeReg mirBase r p.val v)
  else if r.off = 0x38 then s.mirCmd p v
  else s.writeReg mirBase r p.val v

/-- The effect of a write of a module-level register: its own where its table gives one, else its fields under their access types. -/
def State.modPut (s : State) (base : Nat) (r : RegDef) (i v : Nat) : State :=
  let i16 : Fin 16 := ⟨i % 16, Nat.mod_lt _ (by omega)⟩
  if base = netBase 0 ∧ r.off = 0 then s.netFrame (bits v 0 9)
  else if base = netBase 0 ∧ r.off = 0x18 then s.netLoad ⟨bits v 0 4 % 16, Nat.mod_lt _ (by omega)⟩ (v.testBit 4)
  else if base = netBase 0 ∧ r.off = 0x28 then s.netAll F.NET_LOADID_ID v
  else if netBase 0 < base ∧ base ≤ netBase 3 ∧ (r.off = 0 ∨ r.off = 0x18 ∨ r.off = 0x28) then s
  else if base = mmemBase ∧ r.off = 0 then s.mapWrite (bits v 0 6)
  else if base = mmemBase ∧ r.off = 0x10 then s.ownCmdWrite v
  else if base = mmemBase ∧ r.off = 0x100 then s.rangeWrite i v
  else if base = mmemBase ∧ r.off = 0x200 then s.normSel v
  else if ((List.finRange 20).any fun k => decide (base = hbmBase k)) ∧ r.off = 0x18 ∧ (bits v 0 8 = 0 ∨ bits v 0 8 > 168) then s
  else if brdBase 0 ≤ base ∧ base ≤ brdBase 23 ∧ r.off = 0 then s.brdCtrl ⟨(base - brdBase 0) / 0x100000 % 24, Nat.mod_lt _ (by omega)⟩ v
  else if base = mcastBase ∧ r.off = 0 then s.txmapWrite i v
  else if base = mcastBase ∧ r.off = 0x4000 then s.barConfig ⟨i % 32, Nat.mod_lt _ (by omega)⟩ v
  else if base = prtBase ∧ r.off = 0 then s.prtCmd v
  else if base = prtBase ∧ r.off = 0x100 ∧ bits v 0 32 = 0 then s
  else if base = rstBase ∧ r.off = 0 then s.rstCmd v
  else if base = mirBase ∧ r.off < 0x1000 then s.mirWrite i16 r v
  else if base = mirBase ∧ r.off = 0x1000 then s.storeWrite i16 v
  else if base = mirBase ∧ r.off = 0x1008 then s.storeSource i16 v
  else if base = mirBase ∧ r.off = 0x2000 then s.fillCtrl v
  else if base = mirBase ∧ r.off = 0x2100 then s.fillArm i16 v
  else if base = mirBase ∧ r.off = 0x2800 then (s.writeReg base r i v).fillNext
  else if base = secBase ∧ r.off = 0x20 then s.fwCmd v false
  else if base = licBase ∧ r.off = 0x10 then s.licCmd v false
  else if base = pwrBase ∧ r.off = 0x38 then s.pdCtrl v
  else s.writeReg base r i v

/-- A write that is not to a register: a slot-table entry (R221), a route or multicast entry (R302, R304, R305), the staging buffer or the
licence buffer (R447, R448). -/
def State.tablePut (s : State) (addr n v : Nat) : State :=
  let within (lo size : Nat) : Bool := decide (lo ≤ addr) && decide (addr < lo + size)
  if within (netBase 0) 0x800000 && decide ((addr - netBase 0) / 0x100000 % 2 = 1) then
    if n = 4 ∧ addr % 4 = 0 then s.tableWrite ⟨(addr - netBase 0) / 0x200000 % 4, Nat.mod_lt _ (by omega)⟩ (addr % 0x100000) v else s
  else if within routeBase 0x3FFF8 then
    if n = 4 ∧ addr % 4 = 0 then { s with routes := SMap.set 0 s.routes ((addr - routeBase) / 4) (v % 2 ^ 23) } else s
  else if within (routeBase + 0x40000) 0x800 then
    if n = 8 ∧ addr % 8 = 0 then
      { s with routes := SMap.set 0 s.routes (65536 + (addr - routeBase - 0x40000) / 8) (v % 2 ^ 26) }
    else s
  else if within (secBase + 0x1000) 0x1000 then
    if n = 8 ∧ addr % 8 = 0 then
      { s with boot := { s.boot with stage := writeBytes s.boot.stage (addr - secBase - 0x1000) (leBytes 8 v) } }
    else s
  else if within (licBase + 0x400) 0x400 then
    if n = 8 ∧ addr % 8 = 0 then
      { s with boot := { s.boot with licBuf := writeBytes s.boot.licBuf (addr - licBase - 0x400) (leBytes 8 v) } }
    else s
  else s

/-! ### Writes by address -/

/-- A write of a partition's doorbell page (R341, R342, R361). -/
def State.doorPut (s : State) (f : Func) (p : Part) (addr n v : Nat) : State :=
  match regAt pageDb (addr - dbBase p) with
  | none => s
  | some (r, i) =>
    if !widthOk r addr n then s
    else if r.off = 0 then s.doorbell f p v
    else s.asDoor f p addr fun s =>
      if r.off = 0x10 then s.cqCfg p v else if r.off = 0x18 then s.cqHead p v else s.writeReg (dbBase p) r i v

/-- A write of a core's control slot (R10, R342). -/
def State.corePut (s : State) (f : Func) (c : PCore) (addr n v : Nat) : State :=
  s.asCore f c .register addr fun s =>
    match slotReg c (addr - coreBase c) with
    | none => s
    | some (_, r, _) => if widthOk r addr n then s.slotPut c (addr - coreBase c) v true else s

/-- A write of a module-level register or table; PF0 reaches the security, licence and error pages in recovery too (R10, R342, R430). -/
def State.modWrite (s : State) (f : Func) (addr n v : Nat) : State :=
  let go (s : State) : State := match modReg addr with
    | some (base, r, i) => if widthOk r addr n then s.modPut base r i v else s
    | none => s.tablePut addr n v
  if errBase ≤ addr ∧ addr < errBase + 0x100000 ∨ secBase ≤ addr ∧ addr < licBase + 0x100000 then
    s.asSec f addr fun s => if s.secReady then go s else s
  else s.asPF0 f addr go

/-- A host write of `n` bytes at a local address of the register space (R10, R341, R342). -/
def State.regWrite (s : State) (f : Func) (addr n v : Nat) : State :=
  if h : addr < coreBase 0 + 0x4000000 then
    if coreBase 0 ≤ addr then s.corePut f ⟨(addr - coreBase 0) / 0x100000, by unfold coreBase at *; simp at *; omega⟩ addr n v else s
  else if h : dbBase 0 ≤ addr ∧ addr < dbBase 0 + 0x100000 then
    s.doorPut f ⟨(addr - dbBase 0) / 0x10000, by omega⟩ addr n v
  else s.modWrite f addr n v

/-! ### BARs (R341) -/

/-- What an offset of a BAR leads to: a local address, an offset of a partition's doorbell page, or nothing. -/
inductive BarPlace where
  | addr (a : Nat)
  | door (p : Part) (off : Nat)
  | nothing
  deriving DecidableEq, Repr

/-- The BARs of PF0 and of the VFs (R341, R342). -/
def State.barPlace (s : State) (f : Func) (bar off : Nat) : BarPlace :=
  let pf := decide (f.val = 0)
  let page (n : Nat) : BarPlace := if off < 0x10000 then .door ⟨n % 16, Nat.mod_lt _ (by omega)⟩ off else .nothing
  match bar with
  | 0 => if !pf then page (f.val - 1) else if off < 0x20000000 then .addr (0xA00000000000 + off) else .nothing
  | 2 =>
    if off < 0x80000000 then .addr (0x800000000000 + off)
    else if off < 0x81000000 then .addr (0x900000000000 + (off - 0x80000000)) else .nothing
  | 4 => if pf then page (s.rd cxlBase F.CXL_PFPART_PART) else if off < 0x4000000 then .addr (0xA00000000000 + off) else .nothing
  | _ => .nothing

/-- A host write of some bytes at a local address: apertures, else the register space. -/
def State.localWrite (s : State) (f : Func) (addr n v : Nat) : State :=
  let slot (base size : Nat) : PCore := ⟨(addr - base) / size % 64, Nat.mod_lt _ (by omega)⟩
  let bs := leBytes n v
  let off := addr % 0x1000000
  if 0x800000000000 ≤ addr ∧ addr < 0x800040000000 then
    let c := slot 0x800000000000 0x1000000
    s.asCore f c .apWrite addr fun s => s.spadHost c off bs
  else if 0x800040000000 ≤ addr ∧ addr < 0x800080000000 then
    let c := slot 0x800040000000 0x1000000
    s.asCore f c .apWrite addr fun s => s.accWrite c off bs
  else if 0x900000000000 ≤ addr ∧ addr < 0x900001000000 then
    let c := slot 0x900000000000 0x40000
    s.asCore f c .apWrite addr fun s => (s.imemWrite c (addr % 0x40000) bs 2).1
  else s.regWrite f addr n v

/-- A host write through a BAR; one that leads to nothing is discarded (R341). -/
def State.barWrite (s : State) (f : Func) (bar off n v : Nat) : State :=
  match s.barPlace f bar off with
  | .addr a => s.localWrite f a n v
  | .door p o => s.doorPut f p (dbBase p + o) n v
  | .nothing => s

/-! ### Configuration of functions -/

/-- A pending vector of a function is sent once it is enabled and not masked (R355). -/
def State.msixFlush (s : State) (f : Func) : State :=
  let due := (s.funcs[f].pend.map Prod.fst).filter fun v =>
    s.funcs[f].msixEn && !s.funcs[f].fnMask && !SMap.get false s.funcs[f].vecMask v
  due.foldl (fun s v => ({ s with funcs := vupd s.funcs f fun r => { r with pend := SMap.set false r.pend v false } }).msix f v) s

/-- Configuration writes of a function (R344, R355). -/
def State.configure (s : State) (f : Func) (t : RegTarget) : State :=
  match t with
  | .reg _ _ => s
  | .bar _ _ _ => s
  | .msix enable mask => ({ s with funcs := vupd s.funcs f fun r => { r with msixEn := enable, fnMask := mask } }).msixFlush f
  | .vector n masked => ({ s with funcs := vupd s.funcs f fun r => { r with vecMask := SMap.set false r.vecMask n masked } }).msixFlush f
  | .vfEnable on => if f.val = 0 then { s with vfEnable := on } else s
  | .biEnable on => if f.val = 0 then s.wr cxlBase F.CXL_LINK_BI_EN (if on then 1 else 0) else s
  | .pages p es =>
    if f.val = 0 ∨ f.val = p.val + 1 then
      -- a translation begins, ends and leads to multiples of 4 KiB; the spec gives the pages no size (log entry 31)
      let whole := es.filter fun e => decide (e.1 % 4096 = 0) && decide (e.2.1 % 4096 = 0) && decide (e.2.2.1 % 4096 = 0)
      { s with pages := vupd s.pages p fun _ => whole.map fun e => ⟨e.1, e.2.1, e.2.2.1, e.2.2.2⟩ }
    else s

/-- REGISTER_WRITE: a host write to a register, through a BAR, or to configuration or page tables (R7, R10, R341, R344, R349, R355). -/
def execRegisterWrite (f : Func) (t : RegTarget) (v : Word64) (s : State) : Host.Outcome State Fault Refusal :=
  .next (match t with
    | .reg addr n => s.regWrite f addr n v.toNat
    | .bar b off n => s.barWrite f b off n v.toNat
    | t => if s.hostReady then s.configure f t else s)

/-! ### Commands of registers with effects -/

/-- BOB_CTRL_WRITE: the host writes a bobbin's RESERVE (R225). -/
def execBobCtrlWrite (f : Func) (c : PCore) (b : Bob) (v : Word64) (s : State) : Host.Outcome State Fault Refusal :=
  .next (s.asCore f c .register (bobBase c b) fun s => s.bobCtrl c b v.toNat)
/-- BOB_ALLOT_WRITE: the host writes an allotment entry (R225). -/
def execBobAllotWrite (f : Func) (c : PCore) (k : Fin 32) (v : Word64) (s : State) : Host.Outcome State Fault Refusal :=
  .next (s.asCore f c .register (bobcBase c + 0x900 + k.val * 8) fun s => s.bobAllot c k.val v.toNat)
/-- BOB_RING_CFG_WRITE: the host configures or disables a ring (R242). -/
def execBobRingCfgWrite (f : Func) (c : PCore) (r : Fin 16) (v : Word64) (s : State) : Host.Outcome State Fault Refusal :=
  .next (s.asCore f c .register (bobcBase c + 0x1000 + r.val * 16) fun s => s.bobRing c r.val v.toNat)
/-- BOB_REG_WRITE: the host sets a regulator (R239). -/
def execBobRegWrite (f : Func) (c : PCore) (b : Bob) (n : Fin 8) (v : Word64) (s : State) : Host.Outcome State Fault Refusal :=
  .next (s.asCore f c .register (bobBase c b + 0x80 + n.val * 8) fun s => s.bobReg c b n.val v.toNat)

/-- MSE_NORMDATA_READ: a host read of `MSE_NORMDATA0` asks the owning picot for the selected entry, and clears it if asked (R265, R271). -/
def execMseNormdataRead (f : Func) (s : State) : Host.Outcome State Fault Refusal :=
  .next (s.asPF0 f (mmemBase + 0x208) fun s =>
    let tag := s.rd mmemBase F.MSE_NORMSEL_TAG
    let clear := s.mem.normClr
    ({ s with mem := { s.mem with normClr := false } }).normSend ⟨.hostNorm, 0x10, .normFetch tag clear, 0⟩ tag)
/-- MSE_OWNCMD_GO: the host starts an owner change (R262). -/
def execMseOwncmdGo (f : Func) (v : Word64) (s : State) : Host.Outcome State Fault Refusal :=
  .next (s.asPF0 f (mmemBase + 0x10) fun s => s.ownCmdWrite v.toNat)
/-- HBM_MAP_WRITE: the host sets the die-local size (R248). -/
def execHbmMapWrite (f : Func) (n : BitVec 6) (s : State) : Host.Outcome State Fault Refusal :=
  .next (s.asPF0 f mmemBase fun s => s.mapWrite n.toNat)

end Sys2Proof.Machine
end

