-- ==== Sys2Proof/Machine/Vector.lean ====
section
/-!
DEFINITION. The vector unit (R166 to R168, R384): elementwise operations with one rounding in the compute precision, functions
whose value within their bound is stepping A0's (`Config.vectorFn`), conversion, reduction and random words. An instruction
acts whole when it begins at the head of VQ: it reads every source element before it writes the first result (log entry 28).
-/
namespace Sys2Proof.Machine

/-- VQ. -/
def vq : Queue := 6

/-- The operands of a vector instruction (R166): destination and source offsets, count, tile, formats, rounding, saturation,
FP64, reduction, stream. -/
structure VecF where
  op    : Nat
  xd    : Nat
  s1    : Nat
  s2    : Nat
  s3    : Nat
  n     : Nat
  tile  : Nat
  dfmt  : Nat
  sfmt  : Nat
  rnd   : Nat
  sat   : Nat
  f64   : Bool
  redop : Nat
  strm  : Nat
  scale : Nat
  deriving DecidableEq, Repr

/-- Read the operands of the instruction; registers are read when it begins. -/
def State.vecF (s : State) (c : PCore) (w : IWord) : VecF :=
  let x (lo : Nat) : Nat := (s.x c (fieldOf w lo 5)).toNat
  { op := opcodeOf w, xd := bits (x 107) 0 32, s1 := bits (x 102) 0 32, s2 := bits (x 97) 0 32, s3 := bits (x 92) 0 32,
    n := bits (x 87) 0 32, tile := bits (x 87) 32 32, dfmt := fieldOf w 83 4, sfmt := fieldOf w 79 4, rnd := fieldOf w 77 2,
    sat := fieldOf w 75 2, f64 := decide (fieldOf w 74 1 = 1), redop := fieldOf w 70 4, strm := fieldOf w 54 16,
    scale := bits (x 97) 0 8 }

/-- Whether an opcode uses its second and third source regions. -/
def VecF.uses2 (v : VecF) : Bool := decide (v.op ≤ 0x65)
def VecF.uses3 (v : VecF) : Bool := decide (v.op = 0x63)
/-- Whether an opcode uses F64 (R166). -/
def VecF.usesF64 (v : VecF) : Bool := decide (v.op ≤ 0x6B) || decide (v.op = 0x6D)

/-- The bytes of the destination. -/
def VecF.dstBytes (v : VecF) : Nat :=
  match v.op with
  | 0x6D => if v.redop ≥ 2 then 8 else 4
  | 0x6E => 4 * v.n
  | _ => ceilDiv (v.n * Fmt.width v.dfmt) 8

/-- The reason the vector unit skips an instruction, or 0 (R168, R174). -/
def State.vecCheck (s : State) (v : VecF) : Nat :=
  let badFmt : Bool :=
    match v.op with
    | 0x6C => decide (v.sfmt = 0xE) || decide (v.dfmt = 0xE)
    | 0x6E => decide (v.dfmt ≠ 0xD) && decide (v.dfmt ≠ 1)
    | 0x6D => decide (v.sfmt > 4) || (decide (v.sfmt = 0) && !v.f64)
    | _ => decide (v.sfmt > 4) || (decide (v.sfmt = 0) && !v.f64) || decide (v.dfmt > 0xD)
  let region (a len : Nat) : Bool := decide (a % 64 = 0) && decide (0 < len) && spadFits a len
  let srcLen := ceilDiv (v.n * Fmt.width v.sfmt) 8
  let srcOk := decide (v.op = 0x6E) || (region v.s1 srcLen && (!v.uses2 || region v.s2 srcLen) && (!v.uses3 || region v.s3 srcLen))
  if badFmt then 0x07
  else if v.usesF64 && v.f64 && !s.licensed 2 then 0x0E
  else if decide (v.n = 0) || !srcOk || !region v.xd v.dstBytes then 0x13
  else 0

/-- The compute precision's format code: FP64 with F64 set, FP32 otherwise. -/
def VecF.prec (v : VecF) : Nat := if v.f64 then 0 else 1

/-- A function of R168 with its special values by IEEE 754; of any other operand one of the values within 2 units in the last place of the
compute precision (log entry 23). -/
def vecFunction (op prec : Nat) (a : Num) : Num :=
  let near (x : Int) : Num := Elem.within (if prec = 0 then 53 else 24) (if prec = 0 then -1074 else -149) x
    (Config.vectorFn op prec (Fmt.rne 0 a))
  let x := Elem.ofNum a
  match op, a with
  | _, .nan => .nan
  | 0x68, .inf n => if n then .fin false 0 0 else .inf false
  | 0x68, .fin _ _ _ => if 2100 * Elem.one < x then .inf false else near (Elem.exp x)
  | 0x69, .inf n => if n then .nan else .inf false
  | 0x69, .fin sg m _ => if m = 0 then .inf true else if sg then .nan else near (Elem.ln x)
  | 0x6A, .inf n => .fin n 0 0
  | 0x6A, .fin sg m _ => if m = 0 then .inf sg else near (Elem.div Elem.one x)
  | _, .inf n => if n then .nan else .fin false 0 0
  | _, .fin sg m _ => if m = 0 then .inf sg else if sg then .nan else near (Elem.div Elem.one (Elem.sqrt x))

/-- The exact result of an elementwise opcode, before its one rounding (R167). -/
def vecExact (v : VecF) (a b d : Num) : Num :=
  match v.op with
  | 0x60 => a.add b
  | 0x61 => a.sub b
  | 0x62 => a.mul b
  | 0x63 => (a.mul b).add d
  | 0x64 => a.max b
  | 0x65 => a.min b
  | 0x66 => a.abs
  | 0x67 => a.neg
  | op => vecFunction op v.prec a

/-- Element `i` of the result, as a pattern of DFMT (R167, R168). -/
def State.vecElem (s : State) (c : PCore) (v : VecF) (i : Nat) : Nat :=
  let mem := (s.core c).spad
  let src (a : Nat) : Num := Fmt.decode v.sfmt (readElem mem a i (Fmt.width v.sfmt))
  let rng := s.coreRng c v.strm (s.rngStep c) (s.rngLayer c) v.tile i
  let u := if v.rnd = 2 then rng % 65536 else 0
  match v.op with
  | 0x6C => (Fmt.convert v.dfmt v.rnd v.sat u ((src v.s1).unscale v.scale)).1
  | 0x6E =>
    if v.dfmt = 0xD then rng else Fmt.rne 1 (.fin false (rng / 256) (-24))
  | _ =>
    let b : Num := if v.uses2 then src v.s2 else .fin false 0 0
    let d : Num := if v.uses3 then src v.s3 else .fin false 0 0
    (Fmt.convert v.dfmt v.rnd v.sat u ((vecExact v (src v.s1) b d).roundTo v.prec)).1

/-- The entry a VRED writes (R109, R110, R168). -/
def State.vecReduce (s : State) (c : PCore) (v : VecF) : List Byte :=
  let mem := (s.core c).spad
  let xs : List Num := (List.range v.n).map fun i => (Fmt.decode v.sfmt (readElem mem v.s1 i (Fmt.width v.sfmt))).af48
  let best (isMin : Bool) : List (AccWord × Nat) := xs.zipIdx.foldl (fun l (x, j) =>
    if x.isNan then l else topInsert 1 isMin (BitVec.ofNat 48 (Fmt.rne 2 x)) (j % 2 ^ 32) l) []
  let row (ents : List (AccWord × Nat)) (sum : Num) : RedRow := ⟨BitVec.ofNat 48 (Fmt.rne 2 sum), ents, false⟩
  match v.redop with
  | 0 => redBytes 1 1 (row [] (treeSum xs))
  | 1 => redBytes 2 1 (row [] (treeSum (xs.map fun x => (x.mul x).af48)))
  | 2 => redBytes 3 1 (row (best false) (.fin false 0 0))
  | _ => redBytes 4 1 (row (best true) (.fin false 0 0))

/-- Elements a core cycle (R167). -/
def VecF.rate (v : VecF) : Nat :=
  let slow := decide (0x68 ≤ v.op) && decide (v.op ≤ 0x6B)
  (if slow then 64 else 256) / (if v.usesF64 && v.f64 then 4 else 1)

/-- The scratchpad ranges a vector instruction reads. -/
def VecF.reads (v : VecF) : List (Nat × Nat) :=
  let n := ceilDiv (v.n * Fmt.width v.sfmt) 8
  if v.op = 0x6E then []
  else [(v.s1, n)] ++ (if v.uses2 then [(v.s2, n)] else []) ++ (if v.uses3 then [(v.s3, n)] else [])

/-- Perform a vector instruction that has passed its checks: the errors stored in its sources are met, and marked sources mark every output
line (R177, R384). -/
def State.vecRun (s : State) (c : PCore) (v : VecF) : State :=
  let s := v.reads.foldl (fun s g => s.spadMeet c g.1 g.2) s
  let bad := v.reads.any fun g => s.spadPoisoned c g.1 g.2
  if v.op = 0x6D then s.spadWrite c v.xd (s.vecReduce c v) bad
  else
    let w := if v.op = 0x6E then 32 else Fmt.width v.dfmt
    s.spadWriteElems c v.xd w ((List.range v.n).map fun i => s.vecElem c v i) bad

/-- Take the vector instruction at VQ's head when its opcode is `op`. -/
def State.execVec (s : State) (c : PCore) (op : Nat) : State :=
  match s.headInstr c vq with
  | some (w, ia) =>
    if opcodeOf w ≠ op then s
    else
      let v := s.vecF c w
      let reason := s.vecCheck v
      if reason ≠ 0 then s.skipHead c vq w ia reason
      else
        let s := (s.popQ c vq).vecRun c v
        s.onCore c fun r => { r with headAt := vupd r.headAt vq fun _ => s.cycle + max 1 (ceilDiv v.n v.rate) }
  | none => s

/-- VADD. -/
def execVadd (c : PCore) (s : State) : Host.Outcome State Fault Refusal := .next (s.execVec c 0x60)
/-- VSUB. -/
def execVsub (c : PCore) (s : State) : Host.Outcome State Fault Refusal := .next (s.execVec c 0x61)
/-- VMUL. -/
def execVmul (c : PCore) (s : State) : Host.Outcome State Fault Refusal := .next (s.execVec c 0x62)
/-- VFMA: one rounding. -/
def execVfma (c : PCore) (s : State) : Host.Outcome State Fault Refusal := .next (s.execVec c 0x63)
/-- VMAX. -/
def execVmax (c : PCore) (s : State) : Host.Outcome State Fault Refusal := .next (s.execVec c 0x64)
/-- VMIN. -/
def execVmin (c : PCore) (s : State) : Host.Outcome State Fault Refusal := .next (s.execVec c 0x65)
/-- VABS. -/
def execVabs (c : PCore) (s : State) : Host.Outcome State Fault Refusal := .next (s.execVec c 0x66)
/-- VNEG. -/
def execVneg (c : PCore) (s : State) : Host.Outcome State Fault Refusal := .next (s.execVec c 0x67)
/-- VEXP. -/
def execVexp (c : PCore) (s : State) : Host.Outcome State Fault Refusal := .next (s.execVec c 0x68)
/-- VLN. -/
def execVln (c : PCore) (s : State) : Host.Outcome State Fault Refusal := .next (s.execVec c 0x69)
/-- VRCP. -/
def execVrcp (c : PCore) (s : State) : Host.Outcome State Fault Refusal := .next (s.execVec c 0x6A)
/-- VRSQ. -/
def execVrsq (c : PCore) (s : State) : Host.Outcome State Fault Refusal := .next (s.execVec c 0x6B)
/-- VCVT. -/
def execVcvt (c : PCore) (s : State) : Host.Outcome State Fault Refusal := .next (s.execVec c 0x6C)
/-- VRED. -/
def execVred (c : PCore) (s : State) : Host.Outcome State Fault Refusal := .next (s.execVec c 0x6D)
/-- VRNG. -/
def execVrng (c : PCore) (s : State) : Host.Outcome State Fault Refusal := .next (s.execVec c 0x6E)

end Sys2Proof.Machine
end

