-- ==== Sys2Proof/Machine/Dispatch.lean ====
section
/-!
DEFINITION. What each command does: one arm per row of the table, one meaning per arm.
-/
namespace Sys2Proof.Machine
open Sys2Proof

/-- The effect of a command on everything but the queue. -/
def exec (i : Instr) (s : State) : Host.Outcome State Fault Refusal :=
  match i with
  | .nop c => Sys2Proof.Machine.execNop c s
  | .add c => Sys2Proof.Machine.execAdd c s
  | .sub c => Sys2Proof.Machine.execSub c s
  | .and c => Sys2Proof.Machine.execAnd c s
  | .or c => Sys2Proof.Machine.execOr c s
  | .xor c => Sys2Proof.Machine.execXor c s
  | .shl c => Sys2Proof.Machine.execShl c s
  | .shr c => Sys2Proof.Machine.execShr c s
  | .sra c => Sys2Proof.Machine.execSra c s
  | .mul c => Sys2Proof.Machine.execMul c s
  | .addi c => Sys2Proof.Machine.execAddi c s
  | .li c => Sys2Proof.Machine.execLi c s
  | .cmp c => Sys2Proof.Machine.execCmp c s
  | .cmpi c => Sys2Proof.Machine.execCmpi c s
  | .br c => Sys2Proof.Machine.execBr c s
  | .jal c => Sys2Proof.Machine.execJal c s
  | .jr c => Sys2Proof.Machine.execJr c s
  | .ld c => Sys2Proof.Machine.execLd c s
  | .st c => Sys2Proof.Machine.execSt c s
  | .rdsys c => Sys2Proof.Machine.execRdsys c s
  | .rdflag c => Sys2Proof.Machine.execRdflag c s
  | .qwait c => Sys2Proof.Machine.execQwait c s
  | .qwaitSatisfied c => Sys2Proof.Machine.execQwaitSatisfied c s
  | .swapi c => Sys2Proof.Machine.execSwapi c s
  | .swapiSwap c => Sys2Proof.Machine.execSwapiSwap c s
  | .endTask c => Sys2Proof.Machine.execEndTask c s
  | .endComplete c => Sys2Proof.Machine.execEndComplete c s
  | .fetchPastBankEnd c => Sys2Proof.Machine.execFetchPastBankEnd c s
  | .wait c who => Sys2Proof.Machine.execWait c who s
  | .waitc c who => Sys2Proof.Machine.execWaitc c who s
  | .waitSatisfied c who => Sys2Proof.Machine.execWaitSatisfied c who s
  | .waitTimeout c who => Sys2Proof.Machine.execWaitTimeout c who s
  | .signal c who => Sys2Proof.Machine.execSignal c who s
  | .remoteSignalArrival j => Sys2Proof.Machine.execRemoteSignalArrival j s
  | .release c who => Sys2Proof.Machine.execRelease c who s
  | .cut c => Sys2Proof.Machine.execCut c s
  | .cutComplete p => Sys2Proof.Machine.execCutComplete p s
  | .cutTimeout c q => Sys2Proof.Machine.execCutTimeout c q s
  | .deadlockDeclare p => Sys2Proof.Machine.execDeadlockDeclare p s
  | .taskAbort p host => Sys2Proof.Machine.execTaskAbort p host s
  | .pass c e => Sys2Proof.Machine.execPass c e s
  | .passFold c e err => Sys2Proof.Machine.execPassFold c e err s
  | .passFault c e n k row col => Sys2Proof.Machine.execPassFault c e n k row col s
  | .loadw c e => Sys2Proof.Machine.execLoadw c e s
  | .loadwFrontStart c e => Sys2Proof.Machine.execLoadwFrontStart c e s
  | .close c e => Sys2Proof.Machine.execClose c e s
  | .drain c e => Sys2Proof.Machine.execDrain c e s
  | .opePreempt f c e => Sys2Proof.Machine.execOpePreempt f c e s
  | .enginePreemptBoundary c e => Sys2Proof.Machine.execEnginePreemptBoundary c e s
  | .opeResume f c e => Sys2Proof.Machine.execOpeResume f c e s
  | .engineIdleQuarantine c e => Sys2Proof.Machine.execEngineIdleQuarantine c e s
  | .knownAnswerPass c e ev => Sys2Proof.Machine.execKnownAnswerPass c e ev s
  | .drainRequestBegin c e => Sys2Proof.Machine.execDrainRequestBegin c e s
  | .scaleRecordReadReturn c e k => Sys2Proof.Machine.execScaleRecordReadReturn c e k s
  | .drainRowRead c e => Sys2Proof.Machine.execDrainRowRead c e s
  | .drainRequestEnd c e => Sys2Proof.Machine.execDrainRequestEnd c e s
  | .drainProfileWrite f c e n k v => Sys2Proof.Machine.execDrainProfileWrite f c e n k v s
  | .vadd c => Sys2Proof.Machine.execVadd c s
  | .vsub c => Sys2Proof.Machine.execVsub c s
  | .vmul c => Sys2Proof.Machine.execVmul c s
  | .vfma c => Sys2Proof.Machine.execVfma c s
  | .vmax c => Sys2Proof.Machine.execVmax c s
  | .vmin c => Sys2Proof.Machine.execVmin c s
  | .vabs c => Sys2Proof.Machine.execVabs c s
  | .vneg c => Sys2Proof.Machine.execVneg c s
  | .vexp c => Sys2Proof.Machine.execVexp c s
  | .vln c => Sys2Proof.Machine.execVln c s
  | .vrcp c => Sys2Proof.Machine.execVrcp c s
  | .vrsq c => Sys2Proof.Machine.execVrsq c s
  | .vcvt c => Sys2Proof.Machine.execVcvt c s
  | .vred c => Sys2Proof.Machine.execVred c s
  | .vrng c => Sys2Proof.Machine.execVrng c s
  | .bxfer c b => Sys2Proof.Machine.execBxfer c b s
  | .bxferDispatch c b => Sys2Proof.Machine.execBxferDispatch c b s
  | .bcopy c b => Sys2Proof.Machine.execBcopy c b s
  | .ringSlotReserve c b => Sys2Proof.Machine.execRingSlotReserve c b s
  | .bobbinRequestIssue c b => Sys2Proof.Machine.execBobbinRequestIssue c b s
  | .bobbinRequestComplete c b tag host poison => Sys2Proof.Machine.execBobbinRequestComplete c b tag host poison s
  | .transferComplete c b n => Sys2Proof.Machine.execTransferComplete c b n s
  | .mopRegionAdd c b => Sys2Proof.Machine.execMopRegionAdd c b s
  | .mopRegionMax c b => Sys2Proof.Machine.execMopRegionMax c b s
  | .mopRegionMin c b => Sys2Proof.Machine.execMopRegionMin c b s
  | .mopOptimiserStep c b => Sys2Proof.Machine.execMopOptimiserStep c b s
  | .mopNormAccumulation c b => Sys2Proof.Machine.execMopNormAccumulation c b s
  | .mopZeroFill c b => Sys2Proof.Machine.execMopZeroFill c b s
  | .mopNormFetch c b => Sys2Proof.Machine.execMopNormFetch c b s
  | .scommit c b => Sys2Proof.Machine.execScommit c b s
  | .matom c b => Sys2Proof.Machine.execMatom c b s
  | .nsend c => Sys2Proof.Machine.execNsend c s
  | .nput c => Sys2Proof.Machine.execNput c s
  | .nputVerdictReturn c => Sys2Proof.Machine.execNputVerdictReturn c s
  | .ncredit c => Sys2Proof.Machine.execNcredit c s
  | .wopen c => Sys2Proof.Machine.execWopen c s
  | .wclose c => Sys2Proof.Machine.execWclose c s
  | .windowDrainEnd c w => Sys2Proof.Machine.execWindowDrainEnd c w s
  | .windowWriteRequest j => Sys2Proof.Machine.execWindowWriteRequest j s
  | .creditRequestArrival j => Sys2Proof.Machine.execCreditRequestArrival j s
  | .sinkDelivery c => Sys2Proof.Machine.execSinkDelivery c s
  | .remoteScratchpadRead c b tag => Sys2Proof.Machine.execRemoteScratchpadRead c b tag s
  | .seqGo f c => Sys2Proof.Machine.execSeqGo f c s
  | .seqStop f c => Sys2Proof.Machine.execSeqStop f c s
  | .seqResume f c => Sys2Proof.Machine.execSeqResume f c s
  | .seqFlagsig f c v => Sys2Proof.Machine.execSeqFlagsig f c v s
  | .imemHostWrite f c off data => Sys2Proof.Machine.execImemHostWrite f c off data s
  | .scratchpadApertureWrite f c off data => Sys2Proof.Machine.execScratchpadApertureWrite f c off data s
  | .accApertureWrite f c off data => Sys2Proof.Machine.execAccApertureWrite f c off data s
  | .registerWrite f t v => Sys2Proof.Machine.execRegisterWrite f t v s
  | .bobCtrlWrite f c b v => Sys2Proof.Machine.execBobCtrlWrite f c b v s
  | .bobAllotWrite f c k v => Sys2Proof.Machine.execBobAllotWrite f c k v s
  | .bobRingCfgWrite f c r v => Sys2Proof.Machine.execBobRingCfgWrite f c r v s
  | .bobRegWrite f c b n v => Sys2Proof.Machine.execBobRegWrite f c b n v s
  | .prickingCommit f p commit => Sys2Proof.Machine.execPrickingCommit f p commit s
  | .prickingSwitch => Sys2Proof.Machine.execPrickingSwitch s
  | .netFrameWrite f len => Sys2Proof.Machine.execNetFrameWrite f len s
  | .frameLengthChange => Sys2Proof.Machine.execFrameLengthChange s
  | .networkSlot parity => Sys2Proof.Machine.execNetworkSlot parity s
  | .frameSuppress => Sys2Proof.Machine.execFrameSuppress s
  | .bridgeFlitResend j lost => Sys2Proof.Machine.execBridgeFlitResend j lost s
  | .stackResponseSlot k j => Sys2Proof.Machine.execStackResponseSlot k j s
  | .picotRequestApply k ecc => Sys2Proof.Machine.execPicotRequestApply k ecc s
  | .atomicApply q => Sys2Proof.Machine.execAtomicApply q s
  | .regionPartApply q => Sys2Proof.Machine.execRegionPartApply q s
  | .scaleRecordUpdate q => Sys2Proof.Machine.execScaleRecordUpdate q s
  | .scaleCommitApply q => Sys2Proof.Machine.execScaleCommitApply q s
  | .normUpdate k => Sys2Proof.Machine.execNormUpdate k s
  | .mseNormdataRead f => Sys2Proof.Machine.execMseNormdataRead f s
  | .mseOwncmdGo f v => Sys2Proof.Machine.execMseOwncmdGo f v s
  | .ownerPageComplete => Sys2Proof.Machine.execOwnerPageComplete s
  | .hbmMapWrite f n => Sys2Proof.Machine.execHbmMapWrite f n s
  | .hbmPatrolRead k ecc => Sys2Proof.Machine.execHbmPatrolRead k ecc s
  | .hbmRefresh k temp => Sys2Proof.Machine.execHbmRefresh k temp s
  | .pageRetirementStart k page => Sys2Proof.Machine.execPageRetirementStart k page s
  | .retirementLineCopy q => Sys2Proof.Machine.execRetirementLineCopy q s
  | .brideFlitReceive p f errors crcOk => Sys2Proof.Machine.execBrideFlitReceive p f errors crcOk s
  | .nakReceive p first count => Sys2Proof.Machine.execNakReceive p first count s
  | .nakResendTimer p j => Sys2Proof.Machine.execNakResendTimer p j s
  | .linkMgmtFlitTimer p => Sys2Proof.Machine.execLinkMgmtFlitTimer p s
  | .laneBerWindow p bers overBer => Sys2Proof.Machine.execLaneBerWindow p bers overBer s
  | .portEnableWrite f p en => Sys2Proof.Machine.execPortEnableWrite f p en s
  | .hostRetrain f p => Sys2Proof.Machine.execHostRetrain f p s
  | .trainingWindowEnd p pass qOk => Sys2Proof.Machine.execTrainingWindowEnd p pass qOk s
  | .brdModidLock f id => Sys2Proof.Machine.execBrdModidLock f id s
  | .packetForward p c => Sys2Proof.Machine.execPacketForward p c s
  | .writePacket p => Sys2Proof.Machine.execWritePacket p s
  | .readRequestPacket p => Sys2Proof.Machine.execReadRequestPacket p s
  | .atomicPacket p => Sys2Proof.Machine.execAtomicPacket p s
  | .windowWritePacket p seq => Sys2Proof.Machine.execWindowWritePacket p seq s
  | .readResponsePacket p => Sys2Proof.Machine.execReadResponsePacket p s
  | .completionPacket p => Sys2Proof.Machine.execCompletionPacket p s
  | .remoteResponseTimeout c b tag => Sys2Proof.Machine.execRemoteResponseTimeout c b tag s
  | .creditRequestPacket p core w bytes flag inc => Sys2Proof.Machine.execCreditRequestPacket p core w bytes flag inc s
  | .creditGrantPacket p flag inc => Sys2Proof.Machine.execCreditGrantPacket p flag inc s
  | .multicastPacket p => Sys2Proof.Machine.execMulticastPacket p s
  | .multicastPacketForm x => Sys2Proof.Machine.execMulticastPacketForm x s
  | .brdTxmapWrite f x k v => Sys2Proof.Machine.execBrdTxmapWrite f x k v s
  | .multicastExpel g b => Sys2Proof.Machine.execMulticastExpel g b s
  | .detachedNotice p => Sys2Proof.Machine.execDetachedNotice p s
  | .detachedApply g => Sys2Proof.Machine.execDetachedApply g s
  | .expelledClear f g v => Sys2Proof.Machine.execExpelledClear f g v s
  | .barrierConfigWrite f b v => Sys2Proof.Machine.execBarrierConfigWrite f b v s
  | .barrierArrive f c b => Sys2Proof.Machine.execBarrierArrive f c b s
  | .barrierArrivePacket p => Sys2Proof.Machine.execBarrierArrivePacket p s
  | .barrierReleasePacket p => Sys2Proof.Machine.execBarrierReleasePacket p s
  | .cableInsertion n e => Sys2Proof.Machine.execCableInsertion n e s
  | .cableRemoval n => Sys2Proof.Machine.execCableRemoval n s
  | .cableHour n => Sys2Proof.Machine.execCableHour n s
  | .cxlMemRead tag line grant => Sys2Proof.Machine.execCxlMemRead tag line grant s
  | .cxlMemWrite tag addr data poison => Sys2Proof.Machine.execCxlMemWrite tag addr data poison s
  | .biSnoopResponse line data => Sys2Proof.Machine.execBiSnoopResponse line data s
  | .biSnoopTimeout line => Sys2Proof.Machine.execBiSnoopTimeout line s
  | .hostSnoop line inv => Sys2Proof.Machine.execHostSnoop line inv s
  | .cxlResponseTimeout c b tag => Sys2Proof.Machine.execCxlResponseTimeout c b tag s
  | .hdmDecoderCommit d => Sys2Proof.Machine.execHdmDecoderCommit d s
  | .ideIntegrityFailure io => Sys2Proof.Machine.execIdeIntegrityFailure io s
  | .doorbellCount f p v => Sys2Proof.Machine.execDoorbellCount f p v s
  | .doorbellGo f p v => Sys2Proof.Machine.execDoorbellGo f p v s
  | .cqCfgWrite f p v => Sys2Proof.Machine.execCqCfgWrite f p v s
  | .cqHeadWrite f p v => Sys2Proof.Machine.execCqHeadWrite f p v s
  | .cxlPost c v => Sys2Proof.Machine.execCxlPost c v s
  | .flrVf p => Sys2Proof.Machine.execFlrVf p s
  | .flrPf0 => Sys2Proof.Machine.execFlrPf0 s
  | .cxlReset => Sys2Proof.Machine.execCxlReset s
  | .cxlLinkDown => Sys2Proof.Machine.execCxlLinkDown s
  | .partitionForm f p clusters => Sys2Proof.Machine.execPartitionForm f p clusters s
  | .partitionMove f p clusters => Sys2Proof.Machine.execPartitionMove f p clusters s
  | .partitionDissolve f p => Sys2Proof.Machine.execPartitionDissolve f p s
  | .resetCore f c => Sys2Proof.Machine.execResetCore f c s
  | .resetCluster f k => Sys2Proof.Machine.execResetCluster f k s
  | .resetPartition f p => Sys2Proof.Machine.execResetPartition f p s
  | .resetModule f => Sys2Proof.Machine.execResetModule f s
  | .coreResetComplete c => Sys2Proof.Machine.execCoreResetComplete c s
  | .partitionResetComplete p => Sys2Proof.Machine.execPartitionResetComplete p s
  | .selfTestStart j => Sys2Proof.Machine.execSelfTestStart j s
  | .selfTestEnd j r => Sys2Proof.Machine.execSelfTestEnd j r s
  | .spareTake j => Sys2Proof.Machine.execSpareTake j s
  | .scratchpadPatrol words rows => Sys2Proof.Machine.execScratchpadPatrol words rows s
  | .laneMarginCheck p lane code => Sys2Proof.Machine.execLaneMarginCheck p lane code s
  | .errorHourRollover => Sys2Proof.Machine.execErrorHourRollover s
  | .mirrorEnable f p v store => Sys2Proof.Machine.execMirrorEnable f p v store s
  | .mirrorDisable f p => Sys2Proof.Machine.execMirrorDisable f p s
  | .mirrorStoreWrite f n v => Sys2Proof.Machine.execMirrorStoreWrite f n v s
  | .granuleSend p q => Sys2Proof.Machine.execGranuleSend p q s
  | .manifestSend p => Sys2Proof.Machine.execManifestSend p s
  | .mirrorPageData q => Sys2Proof.Machine.execMirrorPageData q s
  | .mirrorPageDigest q => Sys2Proof.Machine.execMirrorPageDigest q s
  | .mirrorManifestChunk q => Sys2Proof.Machine.execMirrorManifestChunk q s
  | .mirrorEpochStatus port => Sys2Proof.Machine.execMirrorEpochStatus port s
  | .mirrorAckTimeout p => Sys2Proof.Machine.execMirrorAckTimeout p s
  | .mirrorRelease f p => Sys2Proof.Machine.execMirrorRelease f p s
  | .mirrorReleasePacket port => Sys2Proof.Machine.execMirrorReleasePacket port s
  | .mirrorRestore f p epoch rnorms rngchk => Sys2Proof.Machine.execMirrorRestore f p epoch rnorms rngchk s
  | .restoreRequestPacket q => Sys2Proof.Machine.execRestoreRequestPacket q s
  | .fillArm f p src arm => Sys2Proof.Machine.execFillArm f p src arm s
  | .fillGo f store target => Sys2Proof.Machine.execFillGo f store target s
  | .fillStop f => Sys2Proof.Machine.execFillStop f s
  | .fillPageConfirm port => Sys2Proof.Machine.execFillPageConfirm port s
  | .fillComplete p => Sys2Proof.Machine.execFillComplete p s
  | .fillRouteTimeout spare j => Sys2Proof.Machine.execFillRouteTimeout spare j s
  | .bringUpStart t => Sys2Proof.Machine.execBringUpStart t s
  | .aliasKeyReady => Sys2Proof.Machine.execAliasKeyReady s
  | .spdmRequest doe r => Sys2Proof.Machine.execSpdmRequest doe r s
  | .fwWrite f chunk fails => Sys2Proof.Machine.execFwWrite f chunk fails s
  | .fwVerify f fails => Sys2Proof.Machine.execFwVerify f fails s
  | .fwActivate f => Sys2Proof.Machine.execFwActivate f s
  | .commitSvn f => Sys2Proof.Machine.execCommitSvn f s
  | .fwPrefer f fails => Sys2Proof.Machine.execFwPrefer f fails s
  | .clearRepair f fails => Sys2Proof.Machine.execClearRepair f fails s
  | .licenceInstall f fails => Sys2Proof.Machine.execLicenceInstall f fails s
  | .licenceRemove f j fails => Sys2Proof.Machine.execLicenceRemove f j fails s
  | .powerInputApply straps modId holds => Sys2Proof.Machine.execPowerInputApply straps modId holds s
  | .perstNAssert => Sys2Proof.Machine.execPerstNAssert s
  | .inputUndervoltage mv => Sys2Proof.Machine.execInputUndervoltage mv s
  | .referenceClockLoss pll => Sys2Proof.Machine.execReferenceClockLoss pll s
  | .railWarning rail => Sys2Proof.Machine.execRailWarning rail s
  | .railWarningEnd => Sys2Proof.Machine.execRailWarningEnd s
  | .railFault rail mv => Sys2Proof.Machine.execRailFault rail mv s
  | .governorInterval d r => Sys2Proof.Machine.execGovernorInterval d r s
  | .governorWindowEnd w => Sys2Proof.Machine.execGovernorWindowEnd w s
  | .thermalTrip stack die j temp => Sys2Proof.Machine.execThermalTrip stack die j temp s
  | .strapChange straps => Sys2Proof.Machine.execStrapChange straps s
  | .classNonce => Sys2Proof.Machine.execClassNonce s
  | .classConfirm m => Sys2Proof.Machine.execClassConfirm m s
  | .classSettleTimeout => Sys2Proof.Machine.execClassSettleTimeout s
  | .clusterPowerOff f k => Sys2Proof.Machine.execClusterPowerOff f k s
  | .clusterPowerOn f k => Sys2Proof.Machine.execClusterPowerOn f k s
  | .domainRampComplete k => Sys2Proof.Machine.execDomainRampComplete k s
  | .linkComplexDomainSwitch x => Sys2Proof.Machine.execLinkComplexDomainSwitch x s
  | .mirrorIncompleteTimeout n => Sys2Proof.Machine.execMirrorIncompleteTimeout n s
  | .restoreAnswerTimeout p => Sys2Proof.Machine.execRestoreAnswerTimeout p s
  | .fillPageSend q => Sys2Proof.Machine.execFillPageSend q s
  | .fillCompleteAnswer port => Sys2Proof.Machine.execFillCompleteAnswer port s
  | .zeroFillComplete => Sys2Proof.Machine.execZeroFillComplete s
  | .bringUpReady => Sys2Proof.Machine.execBringUpReady s
  | .referenceClockRestored t => Sys2Proof.Machine.execReferenceClockRestored t s
  | .junctionCooled t => Sys2Proof.Machine.execJunctionCooled t s
  | .stackLost k => Sys2Proof.Machine.execStackLost k s
  | .controlProcessorFault d => Sys2Proof.Machine.execControlProcessorFault d s

end Sys2Proof.Machine
end

