-- ==== Sys2Proof/Machine/Tick.lean ====
section
/-!
DEFINITION. A core cycle in which no command waits (log entry 3): what happens in it without a command of the table. The sequencers
dispatch (R130 to R132), landing buffers empty (R180), counters of waiting run, the quiet cycles of R140 are counted, the
record of an abort is written once its units have stopped (R357), and time passes (R457).
-/
namespace Sys2Proof.Machine

/-- The sequencer's cycle (R130 to R132): an illegal word is skipped and logged, one whose predicate fails is passed over, one of a queue
class is appended to its queue or stalls on a full one. A class-0 instruction is a command of its own; a register hold is counted. -/
def State.seqTick (s : State) (c : PCore) : State :=
  if !s.seqReady c then s
  else
    let w := s.fetch c
    let reason := fetchCheck w
    if reason ≠ 0 then ((s.countFetch c).advance c 1).skip c 0 w (s.iaddr c) reason
    else if !s.predOk c w then (s.countFetch c).advance c 1
    else if classOf w = 0 then
      if writesRd (opcodeOf w) && regHeld (s.core c) (rdOf w) then
        (s.wr (coreBase c) F.SEQ_STATUS_BLOCK 5).count (coreBase c) F.SEQ_STALL_REG_COUNT
      else if s.rd (coreBase c) F.SEQ_STATUS_BLOCK = 3 ∧ (s.core c).queues.toList.any (fun q => decide (q.length ≥ 64)) then
        s.count (coreBase c) F.SEQ_STALL_FULL_COUNT
      else s
    else
      let q : Queue := ⟨(classOf w - 1) % 8, Nat.mod_lt _ (by omega)⟩
      if (s.queue c q).length ≥ 64 then (s.wr (coreBase c) F.SEQ_STATUS_BLOCK 3).count (coreBase c) F.SEQ_STALL_FULL_COUNT
      else ((s.countFetch c).pushQ c q (.instr w (s.iaddr c))).advance c 1

/-- Take the first line of each bank out of a landing buffer. -/
def drainLanding : List Nat → List (Nat × Nat) → List (Nat × Nat)
  | _, [] => []
  | taken, x :: xs => if taken.contains x.2 then x :: drainLanding taken xs else drainLanding (x.2 :: taken) xs

/-- The landing buffer gives each bank a line (R180). -/
def State.landTick (s : State) (c : PCore) : State :=
  if (s.core c).landing.isEmpty then s else s.onCore c fun r => { r with landing := drainLanding [] r.landing }

/-- A drain unit's cycle: the rows and results due are written; `DRN_WAIT` counts a cycle in which the next request waits for pending folds, up to
the one that writes the last of them, or in which a request waits between its begin and its first row for the scale record (R86, R100, R103, R121).
While a request runs, the one behind it is not counted: it does not wait for folds alone (log entry 104). -/
def State.drainTick (s : State) (c : PCore) (e : Eng) : State :=
  let d := s.drn c e
  let waits := match d.run with
    | some r => r.scale.isNone || (decide ((drnF r.prof).scaleSrc = 2) && decide (r.row = 0) && decide (s.cycle < r.nextAt))
    | none => match d.queue with
      | q :: _ => decide (s.pendingOf c e q.tile q.half ≠ 0) ||
        decide (s.cycle < SMap.get 0 (s.eng c e).halfFold (q.tile * 2 + q.half))
      | [] => false
  let s := (s.rowsDue c e s.cycle).emitDue c e s.cycle
  if waits then s.count (drnBase c e) F.DRN_WAIT_COUNT else s

/-- What holds the PASS at the head of an engine queue, which could otherwise stream, in this cycle (R36, R40, R41, R101): the fold path or a
front (a bubble), or a drain of its half in place. -/
def State.passWaits (s : State) (c : PCore) (e : Eng) : Bool × Bool :=
  match s.headInstr c (eqOf e) with
  | some (w, _) =>
    if opcodeOf w ≠ 0x40 ∨ !s.engIssues c e ∨ s.engState c e = 5 ∨ s.engState c e = 6 ∨ s.passCheck c e w ≠ 0 then (false, false)
    else
      let t := (passF w).tile
      let bound := s.halfBound c e t (s.liveHalf c e t)
      let hold := s.passHold c e t
      let could := s.passCould c e w
      let behind := !(s.eng c e).loads.isEmpty
      (!bound && decide (hold ≤ s.cycle) && decide (s.passBase c e w ≤ s.cycle) && (behind || decide (s.cycle < could)),
       !behind && decide (could ≤ s.cycle) && (bound || decide (s.cycle < hold)))
  | none => (false, false)

/-- An engine's cycle: stream steps are accepted, bubbles and holds are counted, a pass bound to fault is declared faulted, the fold rows due
are written, and a pre-emption settles (R34, R36, R37, R48, R62, R101). -/
def State.engTick (s : State) (c : PCore) (e : Eng) : State :=
  let n := (s.eng c e).issued.foldl (fun n q => n + (q.accepted (s.cycle + 1) - q.accepted s.cycle)) 0
  let w := s.passWaits c e
  let s := if n = 0 then s else s.count (opeBase c e) F.OPE_STREAM_COUNT n
  let s := if w.1 then s.count (opeBase c e) F.OPE_BUBBLES_COUNT else s
  let s := if w.2 then s.count (accBase c e) F.ACC_HOLD_COUNT else s
  ((s.boundFault c e).foldDue c e s.cycle).settle c e

/-- `BOB_REGHOLD` and `BOB_TAGHOLD` count a cycle in which a bobbin's next request is held (R225, R239, R243). -/
def State.bobTick (s : State) (c : PCore) (b : Bob) : State :=
  match (s.bob c b).hold with
  | 1 => s.count (bobBase c b) F.BOB_REGHOLD_COUNT
  | 2 => s.count (bobBase c b) F.BOB_TAGHOLD_COUNT
  | _ => s

/-- A core's cycle. -/
def State.coreTick (s : State) (c : PCore) : State :=
  let s := ((s.resetTick c).seqTick c).landTick c
  let s := (List.finRange 4).foldl (fun s e => (s.engTick c e).drainTick c e) s
  (List.finRange 2).foldl (fun s b => s.bobTick c b) s

/-- The consecutive quiescent cycles of a partition's task; the cycle after 4,096 of them declares DEADLOCK, whatever comes in it (R140,
R141). -/
def State.quietTick (s : State) (p : Part) : State :=
  let n := if s.deadlockCond p.val then s.parts[p].quiet + 1 else 0
  let decl := if (s.taskCores p.val).isEmpty then none
    else s.parts[p].declared.orElse fun _ => if n ≥ 4096 then some (s.cycle + 1) else none
  if n = s.parts[p].quiet ∧ decl = s.parts[p].declared then s
  else { s with parts := vupd s.parts p fun r => { r with quiet := n, declared := decl } }

/-- A core cycle of the module, with a fuse of a running COMMIT_SVN and the seconds of up-time that pass in it (R311, R428, R457). -/
def State.tick (s : State) : State :=
  let s := allCores.foldl (fun s c => s.coreTick c) s
  let s := (List.finRange 16).foldl (fun s p => (s.quietTick p).abortReport p.val) s
  ({ s.fuseTick with cycle := s.cycle + 1 }).passTime (s.rd clkBase F.CLK_STATUS_CORE_DIV)

end Sys2Proof.Machine
end

