-- ==== Sys2Proof/Safety.lean ====
section
/-!
DEFINITION. What the statements say of a state: the invariant of the model, a sequencer about to run an instruction, an instruction at a
queue's head, and who may reach a register.
-/
namespace Sys2Proof.Machine
open Sys2Proof

/-- The register file is in canonical form (Machine/Store.lean). -/
abbrev State.RegsCanonical (s : State) : Prop := SMap.wf 0 s.regs = true

/-- The sequencer of `c` is about to execute word `w` of class 0 and opcode `op`: it may take an instruction, `w` stands at its program
counter, passes the checks at fetch, its predicate holds, and no queued instruction uses the register it writes (R129 to R131, R147). -/
abbrev State.Executes (s : State) (c : PCore) (op : Nat) (w : IWord) : Prop :=
  s.seqReady c = true ∧ s.fetch c = w ∧ opcodeOf w = op ∧ classOf w = 0 ∧ fetchCheck w = 0 ∧ s.predOk c w = true ∧
    (writesRd op && regHeld (s.core c) (rdOf w)) = false

/-- The canonical form of a memory: addresses strictly rising, and no byte that reads as an unlisted one does (zero). -/
abbrev Memory.wf (m : List Host.Cell) : Prop := SMap.wf (0 : Byte) m = true

/-- The model's invariant: the register file, HBM and every scratchpad are in canonical form, so that equal contents are equal states. -/
abbrev State.Inv (s : State) : Prop := s.RegsCanonical ∧ Memory.wf s.mem.bytes ∧ ∀ c : PCore, Memory.wf (s.core c).spad

/-- Instruction `w` with address `ia` and opcode `op` is at the head of queue `q` of a running core (R128, R133). -/
abbrev State.AtHead (s : State) (c : PCore) (q : Queue) (op : Nat) (w : IWord) (ia : Nat) : Prop :=
  s.headInstr c q = some (w, ia) ∧ opcodeOf w = op

/-- Function `f` reaches the registers of core `c`: the host port answers, the function carries the core's partition, and the core
answers (R184, R342, R435, R455). -/
abbrev State.Reaches (s : State) (f : Func) (c : PCore) : Prop :=
  s.hostReady = true ∧ s.authority f = some (s.partOf c) ∧ s.answers c = true

/-- PF0's accesses to module-level blocks are answered (R342, R435). -/
abbrev State.PF0Reaches (s : State) (f : Func) : Prop := s.hostReady = true ∧ f.val = 0

/-- No epoch closes: no write is captured (R405). -/
abbrev State.NoCapture (s : State) : Prop := s.mem.closing = []

/-- Local HBM addresses [a, a + n) all lie in mapped stacks, and `HBM_MAP`.DIELOCAL holds a value of its six bits (R247, R248). -/
abbrev State.Mapped (s : State) (a n : Nat) : Prop :=
  s.rd mmemBase F.HBM_MAP_DIELOCAL < 64 ∧ ∀ i < n, (s.hbmKey (a + i)).isSome = true

/-- A request that reaches stack `k` goes behind all others: no channel is stopped, the replay queue has room, and nothing else has arrived in this picot
cycle (R253, R254). -/
abbrev State.Accepts (s : State) (k : Stack) (r : MemReq) : Prop :=
  s.arrivals[k].waiting = [] ∧ s.queueFull k r = false ∧ s.inCycle k = []

/-- The oldest request of stack `k` is `r`, no host's; no channel is stopped; it did not arrive before the GO of a running owner change, its pages belong to its
partition, and the host caches nothing that it must give up first (R253, R255, R262, R346). -/
abbrev State.Ready (s : State) (k : Stack) (r : MemReq) : Prop :=
  s.front k = some r ∧ s.arrivals[k].waiting = [] ∧ (∀ t l g, r.src ≠ .host t l g) ∧ s.isEarly k 0 = false ∧ s.reqOwned r = true ∧
    (s.snoopGateL (s.reqLines r) r.span.2).2 = true

/-- A read of `n` bytes of core `c`'s scratchpad from `off` on meets no marked line and no double-bit error (R177, R384). -/
abbrev State.Clean (s : State) (c : PCore) (off n : Nat) : Prop :=
  (∀ l ∈ linesOf off n, SMap.get false (s.core c).spadPois l = false) ∧
    ∀ b ∈ (s.core c).spadBad, b.2 = true → overlaps off n (b.1 * 8, 8) = false

/-- Adding `n` to flag `f` of core `c` does not end its task: it fits, or strict mode is off (R137, R143). -/
abbrev State.FlagFits (s : State) (c : PCore) (f n : Nat) : Prop :=
  s.flag c f + n ≤ 65535 ∨ s.on (coreBase c) F.SEQ_CTRL_STRICT = false

/-- Core `c` applies increments from outside its own program: it has power, is in no core reset, and is in a state from 0 to 3 (R137). -/
abbrev State.TakesFlags (s : State) (c : PCore) : Prop := s.inReset c = false ∧ s.seqState c < 4

end Sys2Proof.Machine
end

