-- ==== Sys2Proof/Certificates/Slice0/Obligations.lean ====
section
/-!
DEFINITION. The statements for the provers, family by family of the table.
-/
open Sys2Proof Sys2Proof.Machine

/-! ### The step -/

/-- A step runs the command at the front of the queue on the state with the queue's rest. -/
def Obligations.StepRunsFront : Prop :=
  ∀ (c : Instr) (rest : List Instr) (s : State), step { s with pending := c :: rest } = exec c { s with pending := rest }

/-! ### The sequencer (R122 to R154) -/

/-- R150: the scalar instructions that write RD from RS1, RS2 and IMM, with their opcodes and what they compute. -/
def scalarOps (c : PCore) : List (Instr × Nat × (Word64 → Word64 → Word64 → Word64)) :=
  [(.add c, 0x01, fun a b _ => a + b), (.sub c, 0x02, fun a b _ => a - b), (.and c, 0x03, fun a b _ => a &&& b),
   (.or c, 0x04, fun a b _ => a ||| b), (.xor c, 0x05, fun a b _ => a ^^^ b), (.shl c, 0x06, fun a b _ => a <<< (b.toNat % 64)),
   (.shr c, 0x07, fun a b _ => a >>> (b.toNat % 64)), (.sra c, 0x08, fun a b _ => a.sshiftRight (b.toNat % 64)),
   (.mul c, 0x09, fun a b _ => a * b), (.addi c, 0x0A, fun a _ i => a + i), (.li c, 0x0B, fun _ _ i => i)]

/-- R150: a scalar instruction that executes completes; RD takes its result (x0 still reads as zero), the program counter goes to the
next index, and every other scalar register stays. -/
def Obligations.ScalarResults : Prop :=
  ∀ (c : PCore) (s : State) (w : IWord), ∀ e ∈ scalarOps c, s.Executes c e.2.1 w →
    ∃ t, exec e.1 s = .next t ∧
      t.x c (rdOf w) = (if rdOf w = 0 then 0 else e.2.2 (s.x c (rs1Of w)) (s.x c (rs2Of w)) (immOf w)) ∧
      (s.pc c < 8191 → t.pc c = s.pc c + 1) ∧ ∀ r < 32, r ≠ rdOf w → t.x c r = s.x c r

/-- R150 to R153: NOP; RDSYS and RDFLAG; LD of an aligned doubleword that no error stops; JAL: each completes with RD as the rule gives it.
CMP and CMPI set Z, S and U from a comparison. BR and JR go to their target. -/
def Obligations.ScalarReads : Prop :=
  (∀ (c : PCore) (s : State) (w : IWord), s.Executes c 0x00 w →
    ∃ t, exec (.nop c) s = .next t ∧ (s.pc c < 8191 → t.pc c = s.pc c + 1) ∧ ∀ r < 32, t.x c r = s.x c r) ∧
  (∀ (c : PCore) (s : State) (w : IWord), s.Executes c 0x13 w →
    ∃ t, exec (.rdsys c) s = .next t ∧ (s.pc c < 8191 → t.pc c = s.pc c + 1) ∧ t.x c 0 = 0 ∧ (rdOf w ≠ 0 →
      (immOf w = 0 → t.x c (rdOf w) = BitVec.ofNat 64 ((s.logicalOf c).getD 0)) ∧
      (immOf w = 1 → t.x c (rdOf w) = BitVec.ofNat 64 c.val) ∧
      (immOf w = 2 → t.x c (rdOf w) = BitVec.ofNat 64 (s.partOf c)) ∧
      (immOf w = 3 → t.x c (rdOf w) = BitVec.ofNat 64 (s.rd brdmBase F.BRD_MODID_ID)) ∧
      (immOf w = 4 → t.x c (rdOf w) = BitVec.ofNat 64 (s.cycle - (s.core c).goCycle)) ∧
      (immOf w = 5 → t.x c (rdOf w) =
        BitVec.ofNat 64 ((List.finRange 8).foldl (fun v q => v + (s.queue c q).length * 2 ^ (8 * q.val)) 0)) ∧
      (immOf w = 6 → t.x c (rdOf w) = BitVec.ofNat 64 s.powerClass) ∧
      (immOf w = 7 → t.x c (rdOf w) = 0xA0))) ∧
  (∀ (c : PCore) (s : State) (w : IWord), s.Executes c 0x14 w → (immOf w).toNat ≤ 63 →
    ∃ t, exec (.rdflag c) s = .next t ∧ (s.pc c < 8191 → t.pc c = s.pc c + 1) ∧
      t.x c (rdOf w) = (if rdOf w = 0 then 0 else BitVec.ofNat 64 (s.flag c (immOf w).toNat)) ∧ ∀ f < 64, t.flag c f = s.flag c f) ∧
  (∀ (c : PCore) (s : State) (w : IWord), s.Executes c 0x11 w →
    dwordOk (s.x c (rs1Of w) + immOf w).toNat = true → s.Clean c (s.x c (rs1Of w) + immOf w).toNat 8 →
    ∃ t, exec (.ld c) s = .next t ∧ (s.pc c < 8191 → t.pc c = s.pc c + 1) ∧
      t.x c (rdOf w) = (if rdOf w = 0 then 0 else BitVec.ofNat 64 (s.spadLE c (s.x c (rs1Of w) + immOf w).toNat 8)) ∧
      (t.core c).spad = (s.core c).spad) ∧
  (∀ (c : PCore) (s : State) (w : IWord), s.Executes c 0x0F w →
    ∃ t, exec (.jal c) s = .next t ∧ t.x c (rdOf w) = (if rdOf w = 0 then 0 else BitVec.ofNat 64 (s.pc c + 1)) ∧
      t.pc c = (immOf w).toNat) ∧
  (∀ (c : PCore) (s : State) (w : IWord), s.Executes c 0x0C w →
    ∃ t, exec (.cmp c) s = .next t ∧ (t.core c).condZ = (s.x c (rs1Of w) == s.x c (rs2Of w)) ∧
      (t.core c).condS = (s.x c (rs1Of w)).slt (s.x c (rs2Of w)) ∧ (t.core c).condU = (s.x c (rs1Of w)).ult (s.x c (rs2Of w))) ∧
  (∀ (c : PCore) (s : State) (w : IWord), s.Executes c 0x0D w →
    ∃ t, exec (.cmpi c) s = .next t ∧ (t.core c).condZ = (s.x c (rs1Of w) == immOf w) ∧
      (t.core c).condS = (s.x c (rs1Of w)).slt (immOf w) ∧ (t.core c).condU = (s.x c (rs1Of w)).ult (immOf w)) ∧
  (∀ (c : PCore) (s : State) (w : IWord), s.Executes c 0x0E w →
    ∃ t, exec (.br c) s = .next t ∧ t.pc c = (immOf w).toNat ∧ t.bank c = s.bank c) ∧
  (∀ (c : PCore) (s : State) (w : IWord), s.Executes c 0x10 w → (s.x c (rs1Of w)).toNat ≤ 8191 →
    ∃ t, exec (.jr c) s = .next t ∧ t.pc c = (s.x c (rs1Of w)).toNat ∧ t.bank c = s.bank c)

/-- R152: ST writes 8 B of RS2 at an aligned offset, and no other byte of any scratchpad. -/
def Obligations.StoreWrites : Prop :=
  ∀ (c : PCore) (s : State) (w : IWord), s.Executes c 0x12 w → dwordOk (s.x c (rs1Of w) + immOf w).toNat = true →
    ∃ t, exec (.st c) s = .next t ∧ (s.pc c < 8191 → t.pc c = s.pc c + 1) ∧
      (∀ a, SMap.get 0 (t.core c).spad a =
        if (s.x c (rs1Of w) + immOf w).toNat ≤ a ∧ a < (s.x c (rs1Of w) + immOf w).toNat + 8
        then BitVec.ofNat 8 ((s.x c (rs2Of w)).toNat >>> (8 * (a - (s.x c (rs1Of w) + immOf w).toNat)))
        else SMap.get 0 (s.core c).spad a) ∧
      (∀ d, d ≠ c → (t.core d).spad = (s.core d).spad) ∧ t.mem = s.mem

/-- R147, R150, R174: what a scalar instruction that executes leaves: every other core, its own queues, flags, scratchpad, engines and
accumulators, HBM, and the condition state. -/
def Obligations.ScalarFrame : Prop :=
  ∀ (c : PCore) (s t : State) (w : IWord), ∀ e ∈ (.nop c, 0x00, fun a _ _ => a) :: scalarOps c, s.Executes c e.2.1 w →
    exec e.1 s = .next t →
    (∀ d, d ≠ c → t.core d = s.core d) ∧ (t.core c).queues = (s.core c).queues ∧ (t.core c).spad = (s.core c).spad ∧
    (t.core c).engines = (s.core c).engines ∧ (t.core c).acc = (s.core c).acc ∧ (∀ f < 64, t.flag c f = s.flag c f) ∧
    (t.core c).condZ = (s.core c).condZ ∧ (t.core c).condS = (s.core c).condS ∧ (t.core c).condU = (s.core c).condU ∧
    t.mem = s.mem ∧ t.net = s.net ∧ t.ports = s.ports ∧ t.out = s.out

/-- R126, R134, R154: QWAIT passes where the queue holds n or fewer entries and blocks otherwise, and a blocked one passes once it does;
SWAPI and END hold the sequencer; SWAPI_SWAP inverts the bank and END_COMPLETE enters state 3. -/
def Obligations.SequencerWaits : Prop :=
  (∀ (c : PCore) (s : State) (w : IWord), s.Executes c 0x15 w → s.qlen c (rdOf w) ≤ (immOf w).toNat → s.pc c < 8191 →
    ∃ t, exec (.qwait c) s = .next t ∧ t.pc c = s.pc c + 1) ∧
  (∀ (c : PCore) (s : State) (w : IWord), s.Executes c 0x15 w → (immOf w).toNat < s.qlen c (rdOf w) →
    ∃ t, exec (.qwait c) s = .next t ∧ t.pc c = s.pc c ∧ t.rd (coreBase c) F.SEQ_STATUS_BLOCK = 2) ∧
  (∀ (c : PCore) (s : State), s.seqState c = 1 → s.rd (coreBase c) F.SEQ_STATUS_BLOCK = 2 →
    s.qlen c (rdOf (s.fetch c)) ≤ (immOf (s.fetch c)).toNat → s.pc c < 8191 →
    ∃ t, exec (.qwaitSatisfied c) s = .next t ∧ t.pc c = s.pc c + 1 ∧ t.rd (coreBase c) F.SEQ_STATUS_BLOCK = 0) ∧
  (∀ (c : PCore) (s : State) (w : IWord), s.Executes c 0x16 w →
    ∃ t, exec (.swapi c) s = .next t ∧ t.rd (coreBase c) F.SEQ_STATUS_BLOCK = 4 ∧ t.pc c = s.pc c ∧ t.bank c = s.bank c) ∧
  (∀ (c : PCore) (s : State), s.seqState c = 1 → s.rd (coreBase c) F.SEQ_STATUS_BLOCK = 4 → s.queuesEmpty c = true →
    ∃ t, exec (.swapiSwap c) s = .next t ∧ t.bank c = (s.bank c + 1) % 2 ∧ t.pc c = (immOf (s.fetch c)).toNat % 8192 ∧
      t.rd (coreBase c) F.SEQ_STATUS_BLOCK = 0) ∧
  (∀ (c : PCore) (s : State) (w : IWord), s.Executes c 0x17 w →
    ∃ t, exec (.endTask c) s = .next t ∧ t.rd (coreBase c) F.SEQ_STATUS_BLOCK = 6 ∧ t.seqState c = 1) ∧
  (∀ (c : PCore) (s : State), s.seqState c = 1 → s.rd (coreBase c) F.SEQ_STATUS_BLOCK = 6 → s.queuesEmpty c = true →
    s.coreIdle c = true → ∃ t, exec (.endComplete c) s = .next t ∧ t.seqState c = 3)

/-- What R144 says of a task that aborts with `cause`: while one of its cores runs or is halted, each of them is in state 4, records the cause, and
has empty queues. -/
abbrev TaskAborted (s t : State) (p cause : Nat) : Prop :=
  ∀ k ∈ s.taskCores p, (s.seqState k = 1 ∨ s.seqState k = 2) → ∀ c ∈ s.taskCores p, t.seqState c = 4 ∧ t.rd (coreBase c) F.SEQ_ABORT_CAUSE = cause ∧ t.queuesEmpty c = true

/-- The commands of the S family, with their opcodes (R150). -/
def seqOps (c : PCore) : List (Instr × Nat) :=
  (.nop c, 0x00) :: (scalarOps c).map (fun e => (e.1, e.2.1)) ++
    [(.cmp c, 0x0C), (.cmpi c, 0x0D), (.br c, 0x0E), (.jal c, 0x0F), (.jr c, 0x10), (.ld c, 0x11), (.st c, 0x12), (.rdsys c, 0x13),
     (.rdflag c, 0x14), (.qwait c, 0x15), (.swapi c, 0x16), (.endTask c, 0x17)]

/-- What R142, R145 and R175 say of an instruction that the sequencer of `c` skips: the next index, an entry of `SEQ_ILLOG`, the count and the error
bit; no register, flag, queue, scratchpad, accumulator, engine, other core or byte of HBM changes. -/
abbrev Skipped (s t : State) (c : PCore) (w : IWord) (reason : Nat) : Prop :=
  t.pc c = (if s.pc c = 8191 then 8191 else s.pc c + 1) ∧
  t.rd (coreBase c) F.SEQ_ILLCNT_COUNT = satAdd 32 (s.rd (coreBase c) F.SEQ_ILLCNT_COUNT) 1 ∧
  t.rd (coreBase c) F.SEQ_ILLPTR_NEXT = (s.rd (coreBase c) F.SEQ_ILLPTR_NEXT + 1) % 32 ∧
  t.rd (coreBase c) F.SEQ_ILLOG_WORD_LO (s.rd (coreBase c) F.SEQ_ILLPTR_NEXT) = fieldOf w 0 64 ∧
  t.rd (coreBase c) F.SEQ_ILLOG_WORD_HI (s.rd (coreBase c) F.SEQ_ILLPTR_NEXT) = fieldOf w 64 64 ∧
  t.rd (coreBase c) F.SEQ_ILLOG_IADDR (s.rd (coreBase c) F.SEQ_ILLPTR_NEXT) = s.iaddr c % 2 ^ 14 ∧
  t.rd (coreBase c) F.SEQ_ILLOG_REASON (s.rd (coreBase c) F.SEQ_ILLPTR_NEXT) = reason ∧
  t.rd (coreBase c) F.SEQ_ILLOG_UNIT (s.rd (coreBase c) F.SEQ_ILLPTR_NEXT) = 0 ∧
  t.rd (coreBase c) F.SEQ_ILLOG_SEQNO (s.rd (coreBase c) F.SEQ_ILLPTR_NEXT) = t.rd (coreBase c) F.SEQ_ILLCNT_COUNT ∧
  t.rd (coreBase c) F.SEQ_ERR_ILLEGAL = 1 ∧
  (∀ r < 32, t.x c r = s.x c r) ∧ (∀ f < 64, t.flag c f = s.flag c f) ∧ (∀ d, d ≠ c → t.core d = s.core d) ∧
  (t.core c).queues = (s.core c).queues ∧ (t.core c).spad = (s.core c).spad ∧ (t.core c).acc = (s.core c).acc ∧
  (t.core c).engines = (s.core c).engines ∧ t.mem = s.mem ∧ t.net = s.net

/-- R132: a branch or SWAPI target above 8,191 is illegal; the instruction is skipped and logged, and the sequencer continues at the next one; a fetch
past index 8,191 aborts the task in either mode. So is every S-family instruction skipped that fails a check at fetch, and a misaligned LD or ST;
with STRICT set the task aborts with cause 3 instead. -/
def Obligations.IllegalIsSkipped : Prop :=
  (∀ w : IWord, opcodeOf w = 0x0E ∨ opcodeOf w = 0x0F ∨ opcodeOf w = 0x16 → 8191 < (immOf w).toNat → fetchCheck w ≠ 0) ∧
  (∀ (c : PCore) (s : State) (w : IWord), ∀ e ∈ seqOps c, s.seqReady c = true → s.fetch c = w → opcodeOf w = e.2 → classOf w = 0 →
    fetchCheck w ≠ 0 → s.on (coreBase c) F.SEQ_CTRL_STRICT = false → s.pc c < 8192 → s.rd (coreBase c) F.SEQ_ILLPTR_NEXT < 32 →
    ∃ t, exec e.1 s = .next t ∧ Skipped s t c w (fetchCheck w)) ∧
  (∀ (c : PCore) (s : State) (w : IWord), s.Executes c 0x10 w → 8191 < (s.x c (rs1Of w)).toNat →
    s.on (coreBase c) F.SEQ_CTRL_STRICT = false → s.pc c < 8192 → s.rd (coreBase c) F.SEQ_ILLPTR_NEXT < 32 →
    ∃ t, exec (.jr c) s = .next t ∧ Skipped s t c w 0x0F) ∧
  (∀ (c : PCore) (s : State), s.seqState c = 1 → (s.core c).pastEnd = true → (s.core c).readyAt ≤ s.cycle →
    ∃ t, exec (.fetchPastBankEnd c) s = .next t ∧ TaskAborted s t (s.partOf c) 6) ∧
  (∀ (c : PCore) (s : State) (w : IWord), ∀ e ∈ [(Instr.ld c, 0x11), (.st c, 0x12)], s.Executes c e.2 w →
    dwordOk (s.x c (rs1Of w) + immOf w).toNat = false → s.on (coreBase c) F.SEQ_CTRL_STRICT = false → s.pc c < 8192 →
    s.rd (coreBase c) F.SEQ_ILLPTR_NEXT < 32 → ∃ t, exec e.1 s = .next t ∧ Skipped s t c w 0x13) ∧
  (∀ (c : PCore) (s : State) (w : IWord), ∀ e ∈ seqOps c, s.seqReady c = true → s.fetch c = w → opcodeOf w = e.2 → classOf w = 0 →
    fetchCheck w ≠ 0 → s.on (coreBase c) F.SEQ_CTRL_STRICT = true → s.rd (coreBase c) F.SEQ_ILLPTR_NEXT < 32 →
    ∃ t, exec e.1 s = .next t ∧ TaskAborted s t (s.partOf c) 3)

/-- R132, R138, R140, R141, R144, R160, R241: an abort of the host or of a contained error, a fetch past the bank's end, a declared deadlock, and the
time of a wait, of a ring wait and of a cut marker that is over abort the partition's task with their causes; the three last run on while the core is
halted, and give cause 2 where a deadlock has been declared. -/
def Obligations.AbortsTask : Prop :=
  (∀ (p : Part) (host : Bool) (s : State), ∃ t, exec (.taskAbort p host) s = .next t ∧ TaskAborted s t p.val (if host then 7 else 6)) ∧
  (∀ (c : PCore) (s : State), s.seqState c = 1 → (s.core c).pastEnd = true → (s.core c).readyAt ≤ s.cycle →
    ∃ t, exec (.fetchPastBankEnd c) s = .next t ∧ TaskAborted s t (s.partOf c) 6) ∧
  (∀ (p : Part) (n : Nat) (s : State), s.parts[p].declared = some n → n ≤ s.cycle →
    ∃ t, exec (.deadlockDeclare p) s = .next t ∧ TaskAborted s t p.val 2) ∧
  (∀ (c : PCore) (who : Fin 9) (s : State) (w : Waiter), (s.seqState c = 1 ∨ s.seqState c = 2) →
    s.waiterAt c who = some w → w.since + w.limit ≤ s.cycle →
    ∃ t, exec (.waitTimeout c who) s = .next t ∧ TaskAborted s t (s.partOf c) (if s.deadlocked (s.partOf c) then 2 else 1)) ∧
  (∀ (c : PCore) (b : Bob) (r : Nat) (s : State), (s.seqState c = 1 ∨ s.seqState c = 2) →
    s.waiterAt c ⟨5 + b.val, by omega⟩ = none → (s.bob c b).ringWait = some r →
    (s.core c).headAt[bobQueue b] + s.waitLimit c 0 ≤ s.cycle →
    ∃ t, exec (.waitTimeout c ⟨5 + b.val, by omega⟩) s = .next t ∧
      TaskAborted s t (s.partOf c) (if s.deadlocked (s.partOf c) then 2 else 1)) ∧
  (∀ (c : PCore) (q : Queue) (s : State) (ep ia : Nat) (l : List QItem), s.queue c q = .marker ep ia :: l →
    (s.seqState c = 1 ∨ s.seqState c = 2) → (s.core c).headAt[q] + s.waitLimit c 0 ≤ s.cycle →
    ∃ t, exec (.cutTimeout c q) s = .next t ∧ TaskAborted s t (s.partOf c) (if s.deadlocked (s.partOf c) then 2 else 1))

/-! ### Synchronisation (R135 to R160) -/

/-- Unit `who` of a core (0 the sequencer, 1 to 8 the queues) takes the Y-family word `w` of opcode `op`, which reached its head in
cycle `h`: the sequencer executes it, or it stands at a queue's head and does not wait yet. -/
abbrev TakesSync (s : State) (c : PCore) (who : Fin 9) (op : Nat) (w : IWord) (ia h : Nat) : Prop :=
  (who.val = 0 ∧ s.Executes c op w ∧ ia = s.iaddr c ∧ h = s.cycle) ∨
  (∃ q : Queue, who.val = q.val + 1 ∧ s.AtHead c q op w ia ∧ ((s.core c).waiters.any fun v => v.unit = who.val) = false ∧
    h = (s.core c).headAt[q])

/-- R135, R156: a WAIT whose flag holds at least N, and no other wait of the core asks for that flag, within its time subtracts N; one whose flag holds
less joins the waits and changes no flag; a WAITC on an open window's counter acts alike. -/
def Obligations.WaitTakes : Prop :=
  (∀ (c : PCore) (who : Fin 9) (s : State) (w : IWord) (ia h : Nat), TakesSync s c who 0x20 w ia h →
    (∀ v ∈ (s.core c).waiters, ¬ (v.ctr = false ∧ v.num = fieldOf w 106 6)) → fieldOf w 90 16 ≤ s.flag c (fieldOf w 106 6) →
    s.cycle < h + s.waitLimit c (fieldOf w 70 20) →
    ∃ t, exec (.wait c who) s = .next t ∧ t.flag c (fieldOf w 106 6) = (s.flag c (fieldOf w 106 6) - fieldOf w 90 16) % 65536 ∧
      t.mem = s.mem ∧ (t.core c).spad = (s.core c).spad) ∧
  (∀ (c : PCore) (who : Fin 9) (s : State) (w : IWord) (ia h : Nat), TakesSync s c who 0x20 w ia h →
    s.flag c (fieldOf w 106 6) < fieldOf w 90 16 →
    ∃ t, exec (.wait c who) s = .next t ∧ (∀ f < 64, t.flag c f = s.flag c f) ∧
      (∃ v ∈ (t.core c).waiters, v.unit = who.val ∧ v.ctr = false ∧ v.num = fieldOf w 106 6 ∧ v.need = fieldOf w 90 16 ∧ v.ia = ia)) ∧
  (∀ (c : PCore) (who : Fin 9) (s : State) (w : IWord) (ia h k : Nat), TakesSync s c who 0x21 w ia h →
    s.counterWindow c (fieldOf w 107 5) = some k → s.winOpen c k = true → s.on (spdBase c) F.SPD_WIN_A_CREDIT k = false →
    (∀ v ∈ (s.core c).waiters, ¬ (v.ctr = true ∧ v.num = fieldOf w 107 5)) → fieldOf w 91 16 ≤ s.arrive c (fieldOf w 107 5) →
    s.cycle < h + s.waitLimit c (fieldOf w 71 20) →
    ∃ t, exec (.waitc c who) s = .next t ∧
      t.arrive c (fieldOf w 107 5) = (s.arrive c (fieldOf w 107 5) - fieldOf w 91 16) % 2 ^ 32) ∧
  (∀ (c : PCore) (who : Fin 9) (s : State) (w : Waiter), s.waiterAt c who = some w → s.seqState c = 1 → s.grantable c w = true →
    s.cycle < w.since + w.limit → w.ctr = false → w.num < 64 →
    ∃ t, exec (.waitSatisfied c who) s = .next t ∧ t.flag c w.num = (s.flag c w.num - w.need) % 65536 ∧
      ∀ v ∈ (t.core c).waiters, v.unit ≠ who.val)

/-- R136, R137, R155: a SIGNAL whose queue's writes are visible raises a flag of its core, or is sent to another core of the partition;
it arrives by raising that core's flag, or is absorbed in states 4 and 5 and in a core reset; a flag saturates at 65,535. R157: RELEASE advances a
ring's head. R158: CUT appends a marker to every queue. R159, R403: when every marker of a cut is at its head and the writes before it are visible,
the markers leave and the epoch number rises; under mirroring with no epoch in transit the partition's dirty pages become the closing set of an epoch
with that number. -/
def Obligations.SignalReleaseCut : Prop :=
  (∀ (c : PCore) (who : Fin 9) (s : State) (w : IWord) (ia h : Nat), TakesSync s c who 0x22 w ia h → s.queueSettled c who = true →
    (fieldOf w 89 1 = 0 ∨ s.physOf (fieldOf w 83 6) = some c) → s.FlagFits c (fieldOf w 106 6) (fieldOf w 90 16) →
    ∃ t, exec (.signal c who) s = .next t ∧ t.flag c (fieldOf w 106 6) = satAdd 16 (s.flag c (fieldOf w 106 6)) (fieldOf w 90 16) ∧
      t.sigs = s.sigs) ∧
  (∀ (c d : PCore) (who : Fin 9) (s : State) (w : IWord) (ia h : Nat), TakesSync s c who 0x22 w ia h → s.queueSettled c who = true →
    fieldOf w 89 1 = 1 → s.physOf (fieldOf w 83 6) = some d → s.partOf d = s.partOf c → d ≠ c →
    ∃ t, exec (.signal c who) s = .next t ∧ t.sigs = s.sigs ++ [⟨c, d, fieldOf w 106 6, fieldOf w 90 16, s.partOf c⟩] ∧
      ∀ f < 64, t.flag c f = s.flag c f ∧ t.flag d f = s.flag d f) ∧
  (∀ (i : Nat) (s : State) (m : SigMsg), s.sigs[i]? = some m → s.sigFlows m = true → s.TakesFlags m.core → m.flag < 64 → s.FlagFits m.core m.flag m.inc →
    ∃ t, exec (.remoteSignalArrival i) s = .next t ∧ t.flag m.core m.flag = satAdd 16 (s.flag m.core m.flag) m.inc ∧
      t.sigs = s.sigs.eraseIdx i) ∧
  (∀ (i : Nat) (s : State) (m : SigMsg), s.sigs[i]? = some m → s.sigFlows m = true → (4 ≤ s.seqState m.core ∨ s.inReset m.core = true) →
    ∃ t, exec (.remoteSignalArrival i) s = .next t ∧ (∀ f < 64, t.flag m.core f = s.flag m.core f) ∧ t.sigs = s.sigs.eraseIdx i ∧
      t.rd (coreBase m.core) F.SEQ_SIGDROP_COUNT = satAdd F.SEQ_SIGDROP_COUNT.w (s.rd (coreBase m.core) F.SEQ_SIGDROP_COUNT) 1) ∧
  (∀ (c : PCore) (who : Fin 9) (s : State) (w : IWord) (ia h : Nat), TakesSync s c who 0x23 w ia h → s.readsDone c who = true →
    s.on (bobcBase c) F.BOB_RING_CFG_ENABLE (fieldOf w 108 4) = true →
    fieldOf w 103 5 ≤ (s.rd (bobcBase c) F.BOB_RING_PTR_TAIL (fieldOf w 108 4) + 65536 -
      s.rd (bobcBase c) F.BOB_RING_PTR_HEAD (fieldOf w 108 4)) % 65536 →
    ∃ t, exec (.release c who) s = .next t ∧ t.rd (bobcBase c) F.BOB_RING_PTR_HEAD (fieldOf w 108 4) =
      (s.rd (bobcBase c) F.BOB_RING_PTR_HEAD (fieldOf w 108 4) + fieldOf w 103 5) % 65536) ∧
  (∀ (c : PCore) (s : State) (w : IWord), s.Executes c 0x24 w →
    fieldOf w 96 16 = s.rd mirBase F.MIR_EPOCH_NEXT (s.partOf c) % 65536 →
    ((s.core c).queues.toList.any fun q => decide (q.length ≥ 64)) = false →
    ∃ t, exec (.cut c) s = .next t ∧ (∀ q, t.queue c q = s.queue c q ++ [.marker (fieldOf w 96 16) (s.iaddr c)]) ∧
      (t.core c).lastCut = s.iaddr c) ∧
  (∀ (p : Part) (s : State), s.cutReady p.val = true → s.on mirBase F.MIR_CFG_EN p.val = false →
    ∃ t, exec (.cutComplete p) s = .next t ∧ t.rd mirBase F.MIR_EPOCH_NEXT p.val = (s.rd mirBase F.MIR_EPOCH_NEXT p.val + 1) % 2 ^ 48 ∧
      (∀ c ∈ s.taskCores p.val, s.seqState c = 1 → ∀ q, t.queue c q = (s.queue c q).tail) ∧ t.mem = s.mem) ∧
  (∀ (p : Part) (s : State), s.cutReady p.val = true → s.on mirBase F.MIR_CFG_EN p.val = true →
    s.rd mirBase F.MIR_STATE_STATE p.val ≠ 5 → s.mir[p].epoch = none →
    ∃ t e, exec (.cutComplete p) s = .next t ∧ t.mir[p].epoch = some e ∧ e.num = s.rd mirBase F.MIR_EPOCH_NEXT p.val ∧
      e.pages = pagesIn s.mem.dirty p.val ∧ pagesIn t.mem.dirty p.val = [] ∧ t.mem.bytes = s.mem.bytes ∧
      t.rd mirBase F.MIR_STATE_STATE p.val = 2)

/-- R123, R137, R342, R476: GO, STOP, RESUME and FLAGSIG of a function that reaches the core; GO in any state but 0, 2 and 3 is discarded. R25: a GO
waits while a self-test of the core runs. -/
def Obligations.HostControlsSequencer : Prop :=
  (∀ (f : Func) (c : PCore) (s : State), s.Reaches f c → s.inReset c = false → (s.core c).fillEnd = none → s.underTest c = false →
    (s.seqState c = 0 ∨ s.seqState c = 2 ∨ s.seqState c = 3) →
    ∃ t, exec (.seqGo f c) s = .next t ∧ t.seqState c = 1 ∧ t.pc c = s.rd (coreBase c) F.SEQ_START_PC % 8192 ∧
      t.bank c = s.rd (coreBase c) F.SEQ_START_BANK % 2 ∧ (t.core c).goCycle = s.cycle) ∧
  (∀ (f : Func) (c : PCore) (s : State), s.Reaches f c → s.underTest c = true →
    ∃ t, exec (.seqGo f c) s = .next t ∧ t.core = s.core ∧ t.seqState c = s.seqState c ∧ .go c ∈ t.held) ∧
  (∀ (f : Func) (c : PCore) (s : State), s.Reaches f c → s.seqState c = 1 →
    ∃ t, exec (.seqStop f c) s = .next t ∧ t.seqState c = 2 ∧ t.pc c = s.pc c ∧ t.queue c = s.queue c) ∧
  (∀ (f : Func) (c : PCore) (s : State), s.Reaches f c → s.seqState c = 2 → s.inReset c = false →
    ∃ t, exec (.seqResume f c) s = .next t ∧ t.seqState c = 1 ∧ t.pc c = s.pc c) ∧
  (∀ (f : Func) (c : PCore) (v : BitVec 32) (s : State), s.Reaches f c → s.TakesFlags c → bits v.toNat 16 16 ≠ 0 →
    s.FlagFits c (bits v.toNat 0 6) (bits v.toNat 16 16) →
    ∃ t, exec (.seqFlagsig f c v) s = .next t ∧
      t.flag c (bits v.toNat 0 6) = satAdd 16 (s.flag c (bits v.toNat 0 6)) (bits v.toNat 16 16)) ∧
  (∀ (f : Func) (c : PCore) (s : State), s.Reaches f c → s.underTest c = false → (s.seqState c = 1 ∨ 4 ≤ s.seqState c) →
    exec (.seqGo f c) s = .next s)

/-! ### Engines and drains (R27 to R121) -/

/-- R162: an operand's base and pitch are multiples of 64 and its region lies in the scratchpad. -/
abbrev OpndLegal (o : Opnd) : Prop := 64 ∣ o.base ∧ 64 ∣ o.pitch ∧ o.region.1 + o.region.2 ≤ spadSize

/-- What R30, R33, R55, R58, R59 and R161 to R163 ask of the PASS `w` at engine `e`: formats of one class and kind, a mode that takes them, K, M
and N in range, the weights loaded in WS mode, the licence, and operands that lie as they must. -/
abbrev PassLegal (s : State) (c : PCore) (e : Eng) (w : IWord) : Prop :=
  (passF w).mode ≤ 6 ∧
  (∃ r, rateClass (passF w).fa = some r ∧ rateClass (passF w).fb = some r ∧ (r = .split → (passF w).mode = 0) ∧
    if (passF w).mode = 1 then 1 ≤ (passF w).k ∧ (passF w).k ≤ r.wsK ∧ (passF w).k ≤ (s.eng c e).wKW ∧ (passF w).fb = (s.eng c e).wFmt
    else 16 ≤ (passF w).k ∧ 16 ∣ (passF w).k ∧ (passF w).k ≤ if r = .split then 1360 else 4096) ∧
  Fmt.isFloat (passF w).fa = Fmt.isFloat (passF w).fb ∧ ((passF w).mode = 6 → Fmt.isInt (passF w).fa = true) ∧
  ((passF w).mx = true → 32 ∣ (passF w).k) ∧
  1 ≤ (passF w).m ∧ (passF w).m ≤ 128 ∧ 1 ≤ (passF w).n ∧ (passF w).n ≤ 128 ∧
  (2 ≤ (passF w).mode → s.licensed 1 = true) ∧ ((passF w).ta = true → (passF w).fa ≠ 1) ∧ ((passF w).tb = true → (passF w).fb ≠ 1) ∧
  OpndLegal (s.passA c w) ∧ ((passF w).mode ≠ 1 → OpndLegal (s.passB c w)) ∧ ∀ g ∈ s.passScales c w, g.1 + g.2 ≤ spadSize

/-- When the PASS `w` at the head of engine `e`'s queue may start: no LOADW waits (R41), no request stands before its tile's live half (R101), the
stream and the fold path are free (R36), the weights it uses have begun to move in (R40), its transposed operands are staged in buffers that are free
(R182), and no pre-emption or RESUME holds it (R48, R49). -/
abbrev PassMayStart (s : State) (c : PCore) (e : Eng) (w : IWord) : Prop :=
  (s.engState c e = 0 ∨ s.engState c e = 7) ∧ (s.eng c e).loads = [] ∧ (s.eng c e).floor ≤ s.cycle ∧
  s.halfBound c e (passF w).tile (s.liveHalf c e (passF w).tile) = false ∧ s.passHold c e (passF w).tile ≤ s.cycle ∧
  (∀ l, (s.eng c e).lastE = some l → l + 1 + ((s.eng c e).lastF - (passF w).stream) ≤ s.cycle) ∧
  ((passF w).mode = 1 → ∀ f, (s.eng c e).front = some f → f ≤ s.cycle) ∧
  ((passF w).ta = true → max (s.core c).headAt[eqOf e] (s.eng c e).bufA + stagingOf (passF w).fa ≤ s.cycle) ∧
  ((passF w).tb = true → (passF w).mode ≠ 1 → max (s.core c).headAt[eqOf e] (s.eng c e).bufB + stagingOf (passF w).fa ≤ s.cycle)

/-- What R30, R163 and R181 ask of the LOADW `w`: a format of a class that has weights, KW a multiple of 16 within the class's, N from 1 to 128, and a
region in the scratchpad, with base and pitch multiples of 64 where it is read transposed. -/
abbrev LoadLegal (s : State) (c : PCore) (w : IWord) : Prop :=
  (∃ r, rateClass (loadFmt w) = some r ∧ r ≠ .split ∧ loadKW w ≤ r.wsK) ∧ 16 ≤ loadKW w ∧ 16 ∣ loadKW w ∧ 1 ≤ loadN w ∧ loadN w ≤ 128 ∧
  (s.loadOpnd c w).region.1 + (s.loadOpnd c w).region.2 ≤ spadSize ∧
  (loadTW w = true → 64 ∣ (s.loadOpnd c w).base ∧ 64 ∣ (s.loadOpnd c w).pitch)

/-- R29, R36, R39, R101: a legal PASS that may start leaves its queue, is issued on its tile's live half and counts as pending there; its result
is that of the operands as they stand (log entry 83). R40, R41: a legal LOADW leaves its queue and waits for its front; the front, once 128 cycles lie
between it and the one before, moves the weights in as they stand, where no write raced with the LOADW. R39, R94, R99: CLOSE inverts the live half and
DRAIN does not, and each binds a request to the half that was live. -/
def Obligations.EngineQueue : Prop :=
  (∀ (c : PCore) (e : Eng) (s : State) (w : IWord) (ia : Nat), s.AtHead c (eqOf e) 0x40 w ia → PassLegal s c e w → PassMayStart s c e w →
    ∃ t q, exec (.pass c e) s = .next t ∧ t.queue c (eqOf e) = (s.queue c (eqOf e)).tail ∧
      t.pendingOf c e (passF w).tile (s.liveHalf c e (passF w).tile) =
        (s.pendingOf c e (passF w).tile (s.liveHalf c e (passF w).tile) + 1) % 2 ^ F.ACC_PENDING_COUNT.w ∧
      (t.eng c e).issued = (s.eng c e).issued ++ [q] ∧ q.word = w ∧ q.ia = ia ∧ q.half = s.liveHalf c e (passF w).tile ∧
      q.first ≤ s.cycle ∧ q.rows = 0 ∧ ((s.core c).spadBad = [] → q.res = s.passResult c e w) ∧ (t.core c).acc = (s.core c).acc) ∧
  (∀ (c : PCore) (e : Eng) (s : State) (w : IWord) (ia : Nat), s.AtHead c (eqOf e) 0x41 w ia →
    (s.engState c e = 0 ∨ s.engState c e = 7) → LoadLegal s c w →
    ∃ t l, exec (.loadw c e) s = .next t ∧ t.queue c (eqOf e) = (s.queue c (eqOf e)).tail ∧
      (t.eng c e).loads = (s.eng c e).loads ++ [l] ∧ l.word = w ∧ l.opnd = s.loadOpnd c w ∧ (t.eng c e).wData = (s.eng c e).wData) ∧
  (∀ (c : PCore) (e : Eng) (s : State) (l : PendingLoad) (ls : List PendingLoad), (s.eng c e).loads = l :: ls →
    (s.engState c e = 0 ∨ s.engState c e = 7) → l.earliest ≤ s.cycle → (s.eng c e).floor ≤ s.cycle →
    (∀ f, (s.eng c e).front = some f → f + 128 ≤ s.cycle) →
    (∀ v < l.opnd.vecs, ∀ k ∈ vectorLines l.opnd.base l.opnd.pitch l.opnd.w l.opnd.tr v l.opnd.elems,
      SMap.get false (s.core c).spadPois k = false ∧ ∀ b ∈ (s.core c).spadBad, b.2 = true → b.1 / 8 ≠ k) →
    (loadTW l.word = true → l.arrived < (s.eng c e).bufW → (s.eng c e).bufW + stagingOf (loadFmt l.word) ≤ s.cycle) →
    ∃ t, exec (.loadwFrontStart c e) s = .next t ∧ (t.eng c e).loads = ls ∧ (t.eng c e).wKW = loadKW l.word ∧
      (t.eng c e).wN = loadN l.word ∧ (t.eng c e).wFmt = loadFmt l.word ∧ (t.core c).acc = (s.core c).acc ∧
      ((s.eng c e).raced = [] → ∀ k < l.opnd.vecs, ∀ j < l.opnd.elems, (t.eng c e).wData.getD (k * l.opnd.elems + j) 0 =
        operandElem (s.core c).spad l.opnd.base l.opnd.pitch l.opnd.w l.opnd.tr k j)) ∧
  (∀ (c : PCore) (e : Eng) (s : State) (w : IWord) (ia : Nat), s.AtHead c (eqOf e) 0x42 w ia → s.engState c e ≠ 5 → s.engState c e ≠ 6 →
    s.rdBit (accBase c e) F.ACC_SHADOW_BUSY_BUSY (drainTile w) = false → s.drainFull c e = false →
    ∃ t, exec (.close c e) s = .next t ∧ t.queue c (eqOf e) = (s.queue c (eqOf e)).tail ∧
      t.liveHalf c e (drainTile w) = 1 - s.liveHalf c e (drainTile w) ∧ t.rdBit (accBase c e) F.ACC_SHADOW_BUSY_BUSY (drainTile w) = true ∧
      (t.drn c e).queue = (s.drn c e).queue ++ [⟨w, ia, drainTile w, s.liveHalf c e (drainTile w)⟩] ∧
      (t.core c).acc = (s.core c).acc) ∧
  (∀ (c : PCore) (e : Eng) (s : State) (w : IWord) (ia : Nat), s.AtHead c (eqOf e) 0x43 w ia → s.engState c e ≠ 5 → s.engState c e ≠ 6 →
    s.drainFull c e = false →
    ∃ t, exec (.drain c e) s = .next t ∧ t.queue c (eqOf e) = (s.queue c (eqOf e)).tail ∧
      t.rd (accBase c e) F.ACC_LIVE_LIVE = s.rd (accBase c e) F.ACC_LIVE_LIVE ∧
      (t.drn c e).queue = (s.drn c e).queue ++ [⟨w, ia, drainTile w, s.liveHalf c e (drainTile w)⟩])

/-- R29, R32 to R34, R38: when the last row of the oldest pass's fold is due, while no later pass folds yet (R36), the rows that remain of it are
combined with the pass, and every other word of the engine's accumulators stays; a parity error on the fold path poisons the half. -/
def Obligations.FoldWrites : Prop :=
  ∀ (c : PCore) (e : Eng) (err : Option (Fin 128 × Fin 128)) (s : State) (q : Issued) (l : List Issued), (s.eng c e).issued = q :: l →
    q.injected = false → q.poisonAt = none → q.last + 48 + q.foldLen - 1 ≤ s.cycle → (∀ p ∈ l, s.cycle < p.last + 48) →
    (passF q.word).m ≤ 128 → (passF q.word).n ≤ 128 →
    ∃ t, exec (.passFold c e err) s = .next t ∧ (t.eng c e).issued = l ∧
      (∀ r col, q.rows ≤ r → r < q.foldLen → r < (passF q.word).m → col < (passF q.word).n →
        SMap.get 0 (t.core c).acc[e] (accIndex (passF q.word).tile q.half r col) =
          foldWord (passF q.word) (SMap.get 0 (s.core c).acc[e] (accIndex (passF q.word).tile q.half r col))
            (q.res.getD (r * (passF q.word).n + col) 0)) ∧
      (∀ k, (∀ r col, q.rows ≤ r → r < q.foldLen → r < (passF q.word).m → col < (passF q.word).n →
          k ≠ accIndex (passF q.word).tile q.half r col) →
        SMap.get 0 (t.core c).acc[e] k = SMap.get 0 (s.core c).acc[e] k) ∧
      (err.isSome = true → 2 * q.tile + q.half < 32 → t.rdBit (accBase c e) F.ACC_POISON_POISON (2 * q.tile + q.half) = true)

/-- R22, R54: PASS, LOADW, CLOSE or DRAIN at the head of a disabled engine's queue aborts the task with cause 4. R37, R50, R51: a pass declared faulted
in its window leaves every accumulator word; without replay, or where it is a second fault or cannot replay, its engine is quarantined and the task
aborts with cause 4; under REPLAY it and the later ones stream again. R384: one that consumed marked data aborts the task with cause 6. -/
def Obligations.EngineFaults : Prop :=
  (∀ (c : PCore) (e : Eng) (s : State) (w : IWord) (ia : Nat),
    ∀ i ∈ [(Instr.pass c e, 0x40), (.loadw c e, 0x41), (.close c e, 0x42), (.drain c e, 0x43)],
      s.AtHead c (eqOf e) i.2 w ia → s.engState c e = 6 →
      ∃ t, exec i.1 s = .next t ∧ TaskAborted s t (s.partOf c) 4 ∧ (t.core c).acc = (s.core c).acc) ∧
  (∀ (c : PCore) (e : Eng) (s : State) (n : Nat) (k : PassErr) (row col : Fin 128) (q : Issued), (s.eng c e).issued[n]? = some q →
    q.last + 29 ≤ s.cycle → s.cycle ≤ q.last + 32 → q.poisonAt = none →
    (s.on (opeBase c e) F.OPE_CTRL_REPLAY = false ∨ q.replayed = true ∨ q.unguard = true) →
    ∃ t, exec (.passFault c e n k row col) s = .next t ∧ (t.core c).acc = (s.core c).acc ∧ t.engState c e = 5 ∧
      TaskAborted s t (s.partOf c) 4) ∧
  (∀ (c : PCore) (e : Eng) (s : State) (n : Nat) (k : PassErr) (row col : Fin 128) (q : Issued), (s.eng c e).issued[n]? = some q →
    q.last + 29 ≤ s.cycle → s.cycle ≤ q.last + 32 → q.poisonAt = none →
    s.on (opeBase c e) F.OPE_CTRL_REPLAY = true → q.replayed = false → q.unguard = false →
    ∃ t, exec (.passFault c e n k row col) s = .next t ∧ (t.core c).acc = (s.core c).acc ∧
      (t.eng c e).issued.length = (s.eng c e).issued.length ∧ (∀ p ∈ (t.eng c e).issued.drop n, p.replayed = true) ∧
      ∀ d, t.seqState d = s.seqState d) ∧
  (∀ (c : PCore) (e : Eng) (s : State) (n : Nat) (k : PassErr) (row col : Fin 128) (q : Issued) (a : Nat), (s.eng c e).issued[n]? = some q →
    q.last + 29 ≤ s.cycle → s.cycle ≤ q.last + 32 → q.poisonAt = some a →
    ∃ t, exec (.passFault c e n k row col) s = .next t ∧ (t.core c).acc = (s.core c).acc ∧ TaskAborted s t (s.partOf c) 6)

/-- R22, R25, R48, R49, R51, R61: a pre-emption request, its boundary, after which the engine is PREEMPTED once nothing folds and no front moves,
RESUME, the quarantine after a replay, and an in-service test pass (R398: one that failed as a program's pass came quarantines later) change the engine's STATE as the rules say; on an engine under self-test a
pre-emption waits. -/
def Obligations.EngineStates : Prop :=
  (∀ (f : Func) (c : PCore) (e : Eng) (s : State), s.Reaches f c → (s.engState c e = 0 ∨ s.engState c e = 7) →
    ∃ t, exec (.opePreempt f c e) s = .next t ∧ t.engState c e = 3 ∧ (t.eng c e).issued = (s.eng c e).issued ∧
      (t.eng c e).preemptAt = some s.cycle ∧ (t.core c).acc = (s.core c).acc ∧ t.queue c = s.queue c) ∧
  (∀ (f : Func) (c : PCore) (e : Eng) (s : State), s.Reaches f c → s.engState c e = 5 →
    ∃ t, exec (.opePreempt f c e) s = .next t ∧ t.engState c e = 5 ∧ (t.eng c e).askedStop = true) ∧
  (∀ (c : PCore) (e : Eng) (s : State) (q : Nat), (s.eng c e).preemptAt = some q → s.engState c e = 3 → q ≤ s.cycle →
    (∀ l, (s.eng c e).lastE = some l → l + 1 ≤ s.cycle) →
    (s.on (opeBase c e) F.OPE_CTRL_REPLAY = true → ∀ p ∈ (s.eng c e).issued, p.last + 32 < s.cycle) →
    ∃ t, exec (.enginePreemptBoundary c e) s = .next t ∧ (t.eng c e).preemptAt = none ∧ (t.core c).acc = (s.core c).acc ∧
      t.rd (opeBase c e) F.OPE_PREEMPT_WAIT_CYCLES =
        (match (s.eng c e).lastE with
          | some l => l + 1 - q
          | none => 0) % 2 ^ F.OPE_PREEMPT_WAIT_CYCLES.w ∧
      ((s.eng c e).issued = [] → (∀ f, (s.eng c e).front = some f → f + 128 ≤ s.cycle) → t.engState c e = 4) ∧
      ((s.eng c e).issued ≠ [] → t.engState c e = 3)) ∧
  (∀ (f : Func) (c : PCore) (e : Eng) (s : State), s.Reaches f c → (s.engState c e = 3 ∨ s.engState c e = 4) →
    ∃ t, exec (.opeResume f c e) s = .next t ∧ t.engState c e = 0 ∧ (t.eng c e).wData = (s.eng c e).wData ∧
      (t.eng c e).floor = s.cycle ∧ t.queue c = s.queue c) ∧
  (∀ (c : PCore) (e : Eng) (s : State) (d : DeferredTest), (s.eng c e).deferTest = some d → (s.eng c e).issued = [] → s.engState c e ≠ 6 →
    (s.engIdle2048 c e = true ∨ s.taskEnded c = true) →
    ∃ t, exec (.engineIdleQuarantine c e) s = .next t ∧ t.engState c e = 5 ∧ (t.eng c e).deferTest = none) ∧
  (∀ (c : PCore) (e : Eng) (s : State), s.engState c e = 6 → exec (.engineIdleQuarantine c e) s = .next s) ∧
  (∀ (c : PCore) (e : Eng) (s : State), s.on errBase F.ERR_CTRL_IST_EN = true → s.engState c e = 0 → s.engIdle2048 c e = true →
    ∃ t, exec (.knownAnswerPass c e .start) s = .next t ∧ t.engState c e = 7 ∧ (t.core c).acc = (s.core c).acc) ∧
  (∀ (c : PCore) (e : Eng) (s : State), s.engState c e = 7 →
    ∃ t, exec (.knownAnswerPass c e .clean) s = .next t ∧ t.engState c e = 0) ∧
  (∀ (c : PCore) (e : Eng) (s : State) (row col : Fin 128), s.engState c e = 7 →
    ∃ t, exec (.knownAnswerPass c e (.fail row col)) s = .next t ∧ t.engState c e = 5) ∧
  (∀ (c : PCore) (e : Eng) (s : State) (row col : Fin 128), s.engState c e ≠ 7 → (s.eng c e).leftTest = true →
    ∃ t, exec (.knownAnswerPass c e (.fail row col)) s = .next t ∧ t.engState c e = s.engState c e ∧ (t.eng c e).leftTest = false ∧
      (t.eng c e).deferTest.isSome = true ∧ (t.eng c e).issued = (s.eng c e).issued)

/-- What R100, R103, R115 and R165 ask of the request `r`, which begins with the operands and settings of `d`: the regions it uses lie in the
scratchpad, a stream destination is bound to the unit, a picot's is aligned, and a scale record lies in HBM of this module. -/
abbrev DrainLegal (s : State) (c : PCore) (e : Eng) (r : DrainReq) (d : DrainRun) : Prop :=
  ((drnF d.prof).dest = 1 → 64 ∣ bits d.xd 0 32 ∧
    bits d.xd 0 32 + ((r.rows - 1) * (drnF d.prof).pitch + (drnF d.prof).rowBytes) ≤ spadSize ∧
    ((drnF d.prof).scaleSrc = 3 → bits d.xd 0 32 + (drnF d.prof).scaleOff + 4 * r.rows ≤ spadSize)) ∧
  ((drnF d.prof).dest = 2 → s.streamBound c (bits d.xd 0 12) 1 e.val = true) ∧ ((drnF d.prof).dest = 3 → 64 ∣ d.xd) ∧
  (((drnF d.prof).resOp ≠ 0 ∨ (drnF d.prof).op0 = 6 ∨ (drnF d.prof).op1 = 6) → bits d.xa0 0 32 +
    ((r.rows - 1) * (drnF d.prof).auxPitch + ceilDiv ((drnF d.prof).cols * Fmt.width (drnF d.prof).aux0) 8) ≤ spadSize) ∧
  (((drnF d.prof).deriv = true ∨ (drnF d.prof).op0 = 7 ∨ (drnF d.prof).op1 = 7) → bits d.xa1 0 32 +
    ((r.rows - 1) * (drnF d.prof).auxPitch + ceilDiv ((drnF d.prof).cols * Fmt.width (drnF d.prof).aux1) 8) ≤ spadSize) ∧
  ((drnF d.prof).biasMode ≠ 0 → bits d.xv 0 32 +
    ceilDiv ((if (drnF d.prof).biasMode = 1 then (drnF d.prof).cols else r.rows) * Fmt.width (drnF d.prof).vecFmt) 8 ≤ spadSize) ∧
  ((drnF d.prof).scaleMode = 2 → bits d.xv 0 32 + 512 + 4 * (drnF d.prof).cols ≤ spadSize) ∧
  (r.emit = true →
    ((drnF d.prof).op0 ≠ 0 → bits d.xr 0 32 + r.rows * redEntry (drnF d.prof).op0 (drnF d.prof).k0 ≤ spadSize) ∧
    ((drnF d.prof).op1 ≠ 0 → bits d.xr 0 32 + 8192 + r.rows * redEntry (drnF d.prof).op1 (drnF d.prof).k1 ≤ spadSize)) ∧
  ((drnF d.prof).scaleSrc = 2 → ∃ pa, s.translate (s.partOf c) (drnF d.prof).record = some (false, pa) ∧ s.mapped pa = true)

/-- R86, R99, R100, R111, R117, R165: the course of a drain request. A legal one begins when R100 lets it, and with a scale record its read is sent;
the record's SCALE arrives; the unit reads one row after the other, the accumulators and the scratchpad staying as they are; R103: when its last row
has left S7 the request ends: rows due for the scratchpad stand there, and its norm and record updates are sent if asked and no poison was met. R116: a legal write of a word of a drain profile changes that profile to what
the word says and no other; an illegal one is discarded whole and recorded. -/
def Obligations.DrainUnit : Prop :=
  (∀ (c : PCore) (e : Eng) (s : State) (r : DrainReq) (l : List DrainReq), (s.drn c e).queue = r :: l → (s.drn c e).run = none →
    s.pendingOf c e r.tile r.half = 0 → SMap.get 0 (s.eng c e).halfFold (r.tile * 2 + r.half) ≤ s.cycle →
    ((s.drn c e).lastRead = 0 ∨ (s.drn c e).lastRead < s.cycle) →
    (r.fence = true → (s.drn c e).ended = [] ∧ (s.drn c e).emits = [] ∧ (s.drn c e).outs = [] ∧ (s.drn c e).allOut < s.cycle) →
    DrainLegal s c e r (s.drainStart c e r) →
    ∃ t, exec (.drainRequestBegin c e) s = .next t ∧ (t.drn c e).run = some (s.drainStart c e r) ∧ (t.drn c e).queue = l ∧
      (t.core c).acc = (s.core c).acc ∧ (t.core c).spad = (s.core c).spad ∧
      ∀ (pa : Nat) (k : Stack), (drnF (s.profWords c e r.prof)).scaleSrc = 2 →
        s.translate (s.partOf c) (drnF (s.profWords c e r.prof)).record = some (false, pa) → s.stackOf pa = some k →
        s.Accepts k ⟨.drain c.val e.val, s.partOf c, .recRead, pa⟩ →
        t.memReqs[k] = s.memReqs[k] ++ [⟨.drain c.val e.val, s.partOf c, .recRead, pa⟩]) ∧
  (∀ (c : PCore) (e : Eng) (k : Stack) (s : State) (p : MemResp) (d : DrainRun),
    (s.memResps[k].find? fun r => r.dst = .drain c.val e.val) = some p → (s.drn c e).run = some d → p.status = 0 →
    ∃ t d', exec (.scaleRecordReadReturn c e k) s = .next t ∧ (t.drn c e).run = some d' ∧
      d'.scale = some (leNat ((p.data.drop 32).take 1)) ∧ d'.nextAt = s.cycle + 1 ∧ t.memResps[k] = s.memResps[k].erase p) ∧
  (∀ (c : PCore) (e : Eng) (s : State) (d : DrainRun), (s.drn c e).run = some d → d.scale.isSome = true → d.nextAt ≤ s.cycle →
    d.row + 1 ≠ d.req.rows →
    ∃ t d', exec (.drainRowRead c e) s = .next t ∧ (t.drn c e).run = some d' ∧ d'.req = d.req ∧ d'.row = d.row + 1 ∧
      (t.drn c e).lastRead = s.cycle ∧ (t.core c).acc = (s.core c).acc ∧
      t.rd (drnBase c e) F.DRN_ROWS_COUNT = (s.rd (drnBase c e) F.DRN_ROWS_COUNT + 1) % 2 ^ F.DRN_ROWS_COUNT.w ∧
      (d.poison = false → d'.poison = true → t.on (drnBase c e) F.DRN_ERR_POISON = true) ∧ (t.core c).spad = (s.core c).spad) ∧
  (∀ (c : PCore) (e : Eng) (s : State) (d : DrainRun), (s.drn c e).run = some d → d.scale.isSome = true → d.nextAt ≤ s.cycle →
    d.row + 1 = d.req.rows →
    ∃ t d', exec (.drainRowRead c e) s = .next t ∧ (t.drn c e).run = none ∧ (t.drn c e).ended = (s.drn c e).ended ++ [d'] ∧ d'.req = d.req ∧
      d'.row = d.req.rows ∧ d'.outAt = s.cycle + (if d.req.emit then 28 else 24) ∧ (t.core c).acc = (s.core c).acc ∧
      (t.core c).spad = (s.core c).spad) ∧
  (∀ (c : PCore) (e : Eng) (s : State) (d : DrainRun) (l : List DrainRun), (s.drn c e).ended = d :: l → d.outAt ≤ s.cycle →
    (∀ x ∈ (s.drn c e).outs, s.cycle < x.due) → (d.poison = false → s.updatesFlow c d = true) →
    ∃ t, exec (.drainRequestEnd c e) s = .next t ∧ (t.drn c e).ended = l ∧ (t.core c).acc = (s.core c).acc ∧ t.mem = s.mem ∧
      (d.poison = true → t.memReqs = s.memReqs ∧
        ((drnF d.prof).normEn = true ∨ (drnF d.prof).scaleSrc = 2 → t.on (drnBase c e) F.DRN_ERR_UPD_DROP = true)) ∧
      (d.poison = false → (drnF d.prof).normEn = false → (drnF d.prof).scaleSrc ≠ 2 → t.memReqs = s.memReqs) ∧
      (∀ (a : Nat) (k : Stack), d.poison = false → (drnF d.prof).normEn = false → (drnF d.prof).scaleSrc = 2 →
        s.localOf (s.partOf c) (drnF d.prof).record = some a → s.stackOf a = some k →
        s.Accepts k ⟨.drain c.val e.val, s.partOf c, .recUpdate d.recAmax d.recOvf d.recNan, a⟩ →
        t.memReqs[k] = s.memReqs[k] ++ [⟨.drain c.val e.val, s.partOf c, .recUpdate d.recAmax d.recOvf d.recNan, a⟩]) ∧
      (d.poison = false → (drnF d.prof).normEn = true → (drnF d.prof).scaleSrc ≠ 2 →
        s.Accepts (⟨(drnF d.prof).normTag % 20, Nat.mod_lt _ (by omega)⟩ : Stack)
          ⟨.drain c.val e.val, s.partOf c, .norm (drnF d.prof).normTag d.sumSq.toNat d.finite d.nonfin d.amax, 0⟩ →
        t.memReqs[(⟨(drnF d.prof).normTag % 20, Nat.mod_lt _ (by omega)⟩ : Stack)] =
          s.memReqs[(⟨(drnF d.prof).normTag % 20, Nat.mod_lt _ (by omega)⟩ : Stack)] ++
            [⟨.drain c.val e.val, s.partOf c, .norm (drnF d.prof).normTag d.sumSq.toNat d.finite d.nonfin d.amax, 0⟩])) ∧
  (∀ (c : PCore) (e : Eng) (s : State) (d : DrainRun) (l : List DrainRun) (x : RowOut), (s.drn c e).ended = d :: l → d.outAt ≤ s.cycle →
    d.poison = true → (s.drn c e).emits = [] → (s.drn c e).outs = [x] → x.due ≤ s.cycle → (drnF x.run.prof).dest = 1 →
    (drnF x.run.prof).scaleSrc ≠ 3 → 8 ∣ x.codes.length * (drnF x.run.prof).outBits →
    ∃ t, exec (.drainRequestEnd c e) s = .next t ∧ (t.drn c e).ended = l ∧ (t.drn c e).outs = [] ∧
      (t.core c).spad = writeBytes (s.core c).spad (bits x.run.xd 0 32 + x.row * (drnF x.run.prof).pitch)
        (packBytes (drnF x.run.prof).outBits x.codes)) ∧
  (∀ (f : Func) (c : PCore) (e : Eng) (n : Fin 8) (k : Fin 5) (v : Word64) (s : State), s.Reaches f c →
    (drnF ((s.profWords c e n.val).set k.val v.toNat)).legal = true →
    ∃ t, exec (.drainProfileWrite f c e n k v) s = .next t ∧
      drnF (t.profWords c e n.val) = drnF ((s.profWords c e n.val).set k.val v.toNat) ∧
      ∀ m < 8, m ≠ n.val → t.profWords c e m = s.profWords c e m) ∧
  (∀ (f : Func) (c : PCore) (e : Eng) (n : Fin 8) (k : Fin 5) (v : Word64) (s : State), s.Reaches f c →
    (drnF ((s.profWords c e n.val).set k.val v.toNat)).legal = false →
    ∃ t, exec (.drainProfileWrite f c e n k v) s = .next t ∧ t.on (drnBase c e) F.DRN_ERR_PROF_REJ = true ∧
      ∀ m < 8, t.profWords c e m = s.profWords c e m)

/-! ### The vector unit (R166 to R168) -/

/-- The elementwise and converting vector instructions and VRNG, with their opcodes. -/
def vectorOps (c : PCore) : List (Instr × Nat) :=
  [(.vadd c, 0x60), (.vsub c, 0x61), (.vmul c, 0x62), (.vfma c, 0x63), (.vmax c, 0x64), (.vmin c, 0x65), (.vabs c, 0x66),
   (.vneg c, 0x67), (.vexp c, 0x68), (.vln c, 0x69), (.vrcp c, 0x6A), (.vrsq c, 0x6B), (.vcvt c, 0x6C), (.vrng c, 0x6E)]

/-- What R166 and R168 ask of a vector instruction: formats its opcode takes, the licence for FP64, a count, and every region it uses on a 64 B
boundary and in the scratchpad. -/
abbrev VecLegal (s : State) (v : VecF) : Prop :=
  (if v.op = 0x6C then v.sfmt ≤ 0xD ∧ v.dfmt ≤ 0xD
   else if v.op = 0x6E then v.dfmt = 0xD ∨ v.dfmt = 1
   else v.sfmt ≤ 4 ∧ (v.sfmt = 0 → v.f64 = true) ∧ (v.op ≠ 0x6D → v.dfmt ≤ 0xD)) ∧
  (v.usesF64 = true → v.f64 = true → s.licensed 2 = true) ∧ 1 ≤ v.n ∧ 64 ∣ v.xd ∧ v.xd + v.dstBytes ≤ spadSize ∧
  ∀ g ∈ v.reads, 64 ∣ g.1 ∧ g.1 + g.2 ≤ spadSize

/-- R166 to R168: a legal vector instruction at its queue's head leaves the queue; each element of its destination is its opcode's function of the
sources as they stood, and every byte outside the destination stays. VRED writes its entry. -/
def Obligations.VectorResults : Prop :=
  (∀ (c : PCore) (s : State) (w : IWord) (ia : Nat), ∀ i ∈ vectorOps c, s.AtHead c 6 i.2 w ia → VecLegal s (s.vecF c w) →
    ∃ t, exec i.1 s = .next t ∧ t.queue c 6 = (s.queue c 6).tail ∧
      (∀ k < (s.vecF c w).n, readElem (t.core c).spad (s.vecF c w).xd k (if i.2 = 0x6E then 32 else Fmt.width (s.vecF c w).dfmt) =
        s.vecElem c (s.vecF c w) k % 2 ^ (if i.2 = 0x6E then 32 else Fmt.width (s.vecF c w).dfmt)) ∧
      (∀ a, ¬ ((s.vecF c w).xd ≤ a ∧ a < (s.vecF c w).xd + (s.vecF c w).dstBytes) →
        SMap.get 0 (t.core c).spad a = SMap.get 0 (s.core c).spad a)) ∧
  (∀ (c : PCore) (s : State) (w : IWord) (ia : Nat), s.AtHead c 6 0x6D w ia → VecLegal s (s.vecF c w) →
    ∃ t, exec (.vred c) s = .next t ∧ t.queue c 6 = (s.queue c 6).tail ∧
      readBytes (t.core c).spad (s.vecF c w).xd (s.vecF c w).dstBytes = s.vecReduce c (s.vecF c w) ∧
      (∀ a, ¬ ((s.vecF c w).xd ≤ a ∧ a < (s.vecF c w).xd + (s.vecF c w).dstBytes) →
        SMap.get 0 (t.core c).spad a = SMap.get 0 (s.core c).spad a))

/-! ### Windows and the network port (R173, R183 to R192, R207) -/

/-- R173, R185, R190: WOPEN of a free region, window and counter opens the window with its counter at zero; WCLOSE closes an open
window and raises its generation; a drained window's counter is unbound. -/
def Obligations.WindowsOpenAndClose : Prop :=
  (∀ (c : PCore) (s : State) (w : IWord) (ia : Nat), s.AtHead c 7 0xA3 w ia → s.sendWaits c = false →
    64 ∣ bits (s.x c (fieldOf w 103 5)).toNat 0 32 → bits (s.x c (fieldOf w 103 5)).toNat 32 32 ≠ 0 →
    64 ∣ bits (s.x c (fieldOf w 103 5)).toNat 32 32 →
    spadFits (bits (s.x c (fieldOf w 103 5)).toNat 0 32) (bits (s.x c (fieldOf w 103 5)).toNat 32 32) = true →
    s.winOpen c (fieldOf w 108 4) = false → s.winDraining c (fieldOf w 108 4) = false → s.counterWindow c (fieldOf w 98 5) = none →
    s.overlapsOpen c (bits (s.x c (fieldOf w 103 5)).toNat 0 32) (bits (s.x c (fieldOf w 103 5)).toNat 32 32) = false →
    ∃ t, exec (.wopen c) s = .next t ∧ t.queue c 7 = (s.queue c 7).tail ∧ t.winOpen c (fieldOf w 108 4) = true ∧
      t.arrive c (fieldOf w 98 5) = 0 ∧ t.rd (spdBase c) F.SPD_WIN_A_COUNTER (fieldOf w 108 4) = fieldOf w 98 5 ∧
      t.rd (spdBase c) F.SPD_WIN_A_LEN (fieldOf w 108 4) = bits (s.x c (fieldOf w 103 5)).toNat 32 32 % 2 ^ F.SPD_WIN_A_LEN.w ∧
      t.rd (spdBase c) F.SPD_WIN_A_EXT (fieldOf w 108 4) = fieldOf w 96 1 ∧ t.creditTable c (fieldOf w 108 4) = [] ∧
      (t.core c).spad = (s.core c).spad) ∧
  (∀ (c : PCore) (s : State) (w : IWord) (ia : Nat), s.AtHead c 7 0xA4 w ia → s.sendWaits c = false → s.winOpen c (fieldOf w 108 4) = true →
    ∃ t, exec (.wclose c) s = .next t ∧ t.queue c 7 = (s.queue c 7).tail ∧ t.winOpen c (fieldOf w 108 4) = false ∧
      t.rd (spdBase c) F.SPD_WIN_B_GEN (fieldOf w 108 4) = (s.rd (spdBase c) F.SPD_WIN_B_GEN (fieldOf w 108 4) + 1) % 65536 ∧
      (t.core c).spad = (s.core c).spad) ∧
  (∀ (c : PCore) (w : Fin 16) (s : State), s.winDraining c w.val = true → ((s.core c).landing.any fun l => l.1 = w.val) = false →
    ∃ t, exec (.windowDrainEnd c w) s = .next t ∧ t.winDraining c w.val = false ∧ t.core = s.core)

/-- What R186 to R189 ask of a window write of core `c`'s window `w` from `srcM`, `srcC`, whose transfer has number `seq` there, that is accepted: no
reset, no refusal of its transfer before, an open window of its generation, EXT for another module, whole lines within the window, credit where the
window asks for it and no credit request waiting, room in the landing buffer, and a counter that does not saturate in strict mode. -/
abbrev WinAccepts (s : State) (c : PCore) (w gen off srcM srcC seq : Nat) (bs : List Byte) : Prop :=
  s.inReset c = false ∧ s.partInReset (s.partOf c) = false ∧ w < 16 ∧
  (∀ r ∈ (s.core c).refused, ¬ (r.1 = srcM * 64 + srcC ∧ r.2.1 = seq * 16 + w)) ∧ s.winOpen c w = true ∧
  gen % 65536 = s.rd (spdBase c) F.SPD_WIN_B_GEN w ∧ (srcM ≠ 0xFFFF → s.on (spdBase c) F.SPD_WIN_A_EXT w = true) ∧
  64 ∣ off ∧ 64 ∣ bs.length ∧ off + bs.length ≤ s.rd (spdBase c) F.SPD_WIN_A_LEN w ∧
  (s.on (spdBase c) F.SPD_WIN_A_CREDIT w = true → (s.core c).creditQ = [] ∧ bs.length ≤ creditOf (s.creditTable c w) srcM srcC) ∧
  (s.core c).landing.length + bs.length / 64 ≤ 64 ∧ s.rd (spdBase c) F.SPD_WIN_A_COUNTER w < 32 ∧
  (s.arrive c (s.rd (spdBase c) F.SPD_WIN_A_COUNTER w) + bs.length / 64 < 2 ^ 32 ∨ s.on (coreBase c) F.SEQ_CTRL_STRICT = false)

/-- What R187 and R188 say of an accepted write: its bytes stand in the window at its offset, every other byte of every scratchpad and HBM stay, and the
window's counter has risen by its lines. -/
abbrev WinTaken (s t : State) (c : PCore) (w off : Nat) (bs : List Byte) : Prop :=
  (t.core c).spad = writeBytes (s.core c).spad (s.rd (spdBase c) F.SPD_WIN_A_BASE w + off) bs ∧
  (∀ d, d ≠ c → (t.core d).spad = (s.core d).spad) ∧ t.mem = s.mem ∧
  (0 < bs.length → t.arrive c (s.rd (spdBase c) F.SPD_WIN_A_COUNTER w) =
    satAdd 32 (s.arrive c (s.rd (spdBase c) F.SPD_WIN_A_COUNTER w)) (bs.length / 64))

/-- What R189 asks of a credit request that is granted on arrival at core `d`: an open window in credit mode, a length in whole lines within the
window, EXT for another module, no request waiting for the window, room in its pool and table, and a flag that does not overflow in strict mode. -/
abbrev CreditGoes (s : State) (d : PCore) (q : CreditReq) : Prop :=
  q.win < 16 ∧ s.winOpen d q.win = true ∧ s.on (spdBase d) F.SPD_WIN_A_CREDIT q.win = true ∧ 64 ∣ q.bytes ∧ 64 ≤ q.bytes ∧
  q.bytes ≤ s.rd (spdBase d) F.SPD_WIN_A_LEN q.win ∧ (q.srcM ≠ 0xFFFF → s.on (spdBase d) F.SPD_WIN_A_EXT q.win = true) ∧
  (∀ e ∈ (s.core d).creditQ, e.win ≠ q.win) ∧ s.creditFits d q = true ∧
  (q.srcM = 0xFFFF → ∀ r, s.physOf q.srcC = some r → q.flag < 64 ∧ s.FlagFits r q.flag q.inc)

/-- What R189 says of a grant: the pool falls and the source's entry rises by the bytes. -/
abbrev CreditGiven (s t : State) (d : PCore) (q : CreditReq) : Prop :=
  t.rd (spdBase d) F.SPD_WIN_B_POOL q.win = (s.rd (spdBase d) F.SPD_WIN_B_POOL q.win - q.bytes) % 2 ^ F.SPD_WIN_B_POOL.w ∧
  creditOf (t.creditTable d q.win) q.srcM q.srcC = creditOf (s.creditTable d q.win) q.srcM q.srcC + q.bytes

/-- R173, R183, R186 to R189, R192, R207: what the network port's instructions send, and what arrives at a core. NSEND joins the port's operations;
NPUT does too and its first request of at most 512 B goes out at once where no earlier NPUT still forms one; a finished NPUT writes its record and
signals its pair. A credit request is granted or refused; a window write is accepted, its lines landing and counted, or refused, a generation behind
as late; a sink stream's flit lands as two lines; a read of another core's scratchpad is served line by line. -/
def Obligations.NetworkPort : Prop :=
  (∀ (c : PCore) (s : State) (w : IWord) (ia : Nat), s.AtHead c 7 0xA0 w ia → s.sendWaits c = false →
    s.txCredit (fieldOf w 100 12) = true → s.x32 c w 90 ≠ 0 → 128 ∣ s.x32 c w 90 →
    spadFits (s.x32 c w 95) (s.x32 c w 90) = true → s.streamBound c (fieldOf w 100 12) 2 0 = true →
    ∃ t, exec (.nsend c) s = .next t ∧ t.queue c 7 = (s.queue c 7).tail ∧ (t.core c).spad = (s.core c).spad ∧
      (t.core c).netOps.take (s.core c).netOps.length = (s.core c).netOps ∧
      ∃ o ∈ (t.core c).netOps.drop (s.core c).netOps.length, o.word = w ∧ o.isPut = false ∧ o.formed = 0 ∧ o.src = s.x32 c w 95 ∧
        o.total = s.x32 c w 90 ∧ o.stream = fieldOf w 100 12) ∧
  (∀ (c d : PCore) (s : State) (w : IWord) (ia : Nat), s.AtHead c 7 0xA1 w ia → s.sendWaits c = false → s.physOf (fieldOf w 96 6) = some d →
    s.partOf d = s.partOf c → s.x32 c w 102 ≠ 0 → 64 ∣ s.x32 c w 102 → spadFits (s.x32 c w 107) (s.x32 c w 102) = true →
    (fieldOf w 64 1 = 1 → 16 ∣ s.x32 c w 59 ∧ spadFits (s.x32 c w 59) 16 = true) →
    ∃ t, exec (.nput c) s = .next t ∧ t.queue c 7 = (s.queue c 7).tail ∧ (t.core c).spad = (s.core c).spad ∧
      (∃ o ∈ (t.core c).netOps, o.id = (s.core c).netNext ∧ o.word = w ∧ o.isPut = true ∧ o.total = s.x32 c w 102 ∧
        o.recOff = (if fieldOf w 64 1 = 1 then some (s.x32 c w 59) else none)) ∧
      ((∀ o ∈ (s.core c).netOps, o.puts = false) → s.rdBit (netBase 0) F.NET_PARTHOLD_HOLD (s.partOf c) = false →
        t.winReqs.take s.winReqs.length = s.winReqs ∧
        ∃ q ∈ t.winReqs.drop s.winReqs.length, q.target = d ∧ q.win = fieldOf w 92 4 ∧ q.gen = bits (s.x c (fieldOf w 87 5)).toNat 32 16 ∧
          q.off = bits (s.x c (fieldOf w 87 5)).toNat 0 32 ∧ q.data = s.spadRead c (s.x32 c w 107) (min 512 (s.x32 c w 102)))) ∧
  (∀ (c : PCore) (s : State) (o : NetOp), ((s.core c).netOps.find? fun o => o.isPut && decide (o.done = o.total)) = some o →
    ∃ t, exec (.nputVerdictReturn c) s = .next t ∧ (∀ p ∈ (t.core c).netOps, p.id ≠ o.id) ∧
      (o.recOff = none → (t.core c).spad = (s.core c).spad) ∧ (∀ a, o.recOff = some a → readBytes (t.core c).spad a 16 = o.bytes) ∧
      (o.inc ≠ 0 → o.flag < 64 → s.FlagFits c o.flag o.inc → t.flag c o.flag = satAdd 16 (s.flag c o.flag) o.inc)) ∧
  (∀ (c d : PCore) (s : State) (w : IWord) (ia : Nat), s.AtHead c 7 0xA2 w ia → s.sendWaits c = false → s.physOf (fieldOf w 106 6) = some d →
    s.partOf d = s.partOf c →
    ∃ t, exec (.ncredit c) s = .next t ∧ t.queue c 7 = (s.queue c 7).tail ∧
      t.creditMs = s.creditMs ++ [(d, ⟨fieldOf w 102 4, s.x32 c w 97, 0xFFFF, (s.logicalOf c).getD 0x3F, fieldOf w 91 6, fieldOf w 75 16⟩)]) ∧
  (∀ (i : Nat) (s : State) (d : PCore) (q : CreditReq), s.creditMs[i]? = some (d, q) →
    s.reachesCore (if q.srcM = 0xFFFF then ((s.physOf q.srcC).getD d).val else d.val) d = true → CreditGoes s d q →
    ∃ t, exec (.creditRequestArrival i) s = .next t ∧ t.creditMs = s.creditMs.eraseIdx i ∧ CreditGiven s t d q) ∧
  (∀ (i : Nat) (s : State) (d : PCore) (q : CreditReq), s.creditMs[i]? = some (d, q) →
    s.reachesCore (if q.srcM = 0xFFFF then ((s.physOf q.srcC).getD d).val else d.val) d = true → s.winOpen d q.win = false →
    ∃ t, exec (.creditRequestArrival i) s = .next t ∧ t.creditMs = s.creditMs.eraseIdx i ∧ t.core = s.core ∧
      t.rd (spdBase d) F.SPD_CREDIT_REFUSED = satAdd F.SPD_CREDIT_REFUSED.w (s.rd (spdBase d) F.SPD_CREDIT_REFUSED) 1) ∧
  (∀ (i : Nat) (s : State) (q : WinReq), s.winReqs[i]? = some q → ((s.winReqs.take i).any (q.sameUnit ·)) = false →
    s.reachesCore q.from_ q.target = true →
    WinAccepts s q.target q.win q.gen q.off q.srcM q.srcC q.seq q.data →
    ∃ t, exec (.windowWriteRequest i) s = .next t ∧ t.winReqs = s.winReqs.eraseIdx i ∧ WinTaken s t q.target q.win q.off q.data) ∧
  (∀ (i : Nat) (s : State) (q : WinReq), s.winReqs[i]? = some q → ((s.winReqs.take i).any (q.sameUnit ·)) = false →
    s.reachesCore q.from_ q.target = true →
    s.inReset q.target = false → s.partInReset (s.partOf q.target) = false →
    (∀ r ∈ (s.core q.target).refused, ¬ (r.1 = q.srcM * 64 + q.srcC ∧ r.2.1 = q.seq * 16 + q.win)) →
    1 ≤ (s.rd (spdBase q.target) F.SPD_WIN_B_GEN q.win + 65536 - q.gen % 65536) % 65536 →
    (s.rd (spdBase q.target) F.SPD_WIN_B_GEN q.win + 65536 - q.gen % 65536) % 65536 ≤ 32768 →
    ∃ t, exec (.windowWriteRequest i) s = .next t ∧ t.winReqs = s.winReqs.eraseIdx i ∧ (∀ d, (t.core d).spad = (s.core d).spad) ∧
      t.rd (spdBase q.target) F.SPD_LASTREF_VERDICT = 1 ∧ t.rd (spdBase q.target) F.SPD_LATEDROP_COUNT =
        satAdd F.SPD_LATEDROP_COUNT.w (s.rd (spdBase q.target) F.SPD_LATEDROP_COUNT) 1) ∧
  (∀ (c : PCore) (s : State) (i w k : Nat) (x : DstFlit), s.portFlit c = some i → s.net.dst[i]? = some x →
    s.sinkWindow c x.stream = some w → w < 16 → s.inReset c = false → s.partInReset (s.partOf c) = false → s.winOpen c w = true →
    64 ≤ s.rd (spdBase c) F.SPD_WIN_A_LEN w → (s.core c).landing.length + 2 ≤ 64 → s.rd (spdBase c) F.SPD_WIN_A_COUNTER w = k → k < 32 →
    (s.arrive c k + 2 < 2 ^ 32 ∨ s.on (coreBase c) F.SEQ_CTRL_STRICT = false) →
    ∃ t, exec (.sinkDelivery c) s = .next t ∧
      (t.core c).spad = writeBytes (writeBytes (s.core c).spad
          (s.rd (spdBase c) F.SPD_WIN_A_BASE w + SMap.get 0 (s.core c).sinkOff (w * 4096 + x.stream)) (x.flit.data.take 64))
        (s.rd (spdBase c) F.SPD_WIN_A_BASE w +
          (SMap.get 0 (s.core c).sinkOff (w * 4096 + x.stream) + 64) % s.rd (spdBase c) F.SPD_WIN_A_LEN w) (x.flit.data.drop 64) ∧
      ((∀ d, (s.core d).netOps = []) → t.net.dst = s.net.dst.eraseIdx i ∧ t.arrive c k = satAdd 32 (s.arrive c k) 2)) ∧
  (∀ (c : PCore) (s : State) (k : Nat) (x : DstFlit), s.portFlit c = some k → s.net.dst[k]? = some x → s.sinkWindow c x.stream = none →
    ∃ t, exec (.sinkDelivery c) s = .next t ∧ (∀ d, (t.core d).spad = (s.core d).spad) ∧
      ((∀ d, (s.core d).netOps = []) → t.net.dst = s.net.dst.eraseIdx k ∧ t.core = s.core)) ∧
  (∀ (c d : PCore) (b : Bob) (s : State) (tag off len a n : Nat) (l : List (Place × Nat)) (q : BobReq),
    (((s.core c).bobs[b]).reqs.find? fun q => q.tag = tag) = some q → q.done = false → q.unread = (.remSpad d.val off, len) :: l →
    a = off + q.into → n = min (64 - a % 64) (len - q.into) →
    ∃ t, exec (.remoteScratchpadRead c b tag) s = .next t ∧ (∀ k, (t.core k).spad = (s.core k).spad) ∧
      (q.into + n ≠ len → ∃ q' ∈ ((t.core c).bobs[b]).reqs, q'.tag = tag ∧ q'.got = q.got ++ s.spadRead d a n ∧ q'.data = q.data) ∧
      (q.into + n = len → q.pieces.length = 1 → q.into = q.got.length → 0 < len → ∃ q' ∈ ((t.core c).bobs[b]).reqs, q'.tag = tag ∧
        q'.sent = true ∧ q'.data = some (q.got ++ s.spadRead d a n)))

/-! ### Bobbins (R223 to R243, R258 to R261, R306, R350) -/

/-- What R223 says of an instruction that enters context `n` of a bobbin: it leaves the queue, a transfer of its word is appended to those
that run, and neither the scratchpad nor HBM changes. -/
abbrev Entered (s t : State) (c : PCore) (b : Bob) (w : IWord) (n : Nat) (kind : XferKind) (ring : Option (Nat × Nat × Nat)) : Prop :=
  t.queue c (bobQueue b) = (s.queue c (bobQueue b)).tail ∧
  (∃ x, (t.bob c b).ctxs = (s.bob c b).ctxs ++ [x] ∧ x.ctxNo = n ∧ x.word = w ∧ x.kind = kind ∧ x.ring = ring ∧ x.allSent = false) ∧
  (t.core c).spad = (s.core c).spad ∧ t.mem = s.mem ∧ ∀ d, d ≠ c → t.core d = s.core d

/-- What R148, R170, R227 and R230 ask of a transfer descriptor `d` with fields `f`, and R384 of the entries that its walk reads: no reserved value,
counts that are not zero, the alignment and the forms of its kind, a core of the same partition behind a window of this module, a ring of the
bobbin, a stream that is bound and allotted, and no marked line and no double-bit error there. -/
abbrev XferLegal (s : State) (c : PCore) (b : Bob) (d : List Nat) (f : DescF) : Prop :=
  xferReserved d = true ∧ f.kind ≤ 3 ∧ 1 ≤ f.ndim ∧ f.ndim ≤ 5 ∧ f.srcSp ≤ 1 ∧ f.dstSp ≤ 3 ∧ 0 < f.len0 ∧
  (∀ i < f.ndim - 1, 0 < bits (d.getD 4 0) (16 * i) 16) ∧
  (f.dstSp = 2 → 64 ∣ f.len0 ∧ (f.kind ≠ 3 → 64 ∣ f.dst % 2 ^ 24) ∧ ∀ x ∈ f.ds, 64 ∣ x) ∧
  (f.kind = 3 → f.ndim = 2 ∧ f.srcSp = 0 ∧ f.dstSp = 2 ∧ 1 ≤ f.k ∧ f.k ≤ 8 ∧ 0 < f.nexp ∧ 16 ∣ f.table ∧ 4 ∣ f.place ∧ 4 ∣ f.counts) ∧
  (f.kind = 1 ∨ f.kind = 2 → 2 ≤ f.ndim) ∧ (1 ≤ f.kind → 8 ∣ f.idx) ∧ (f.wantRec = true → 32 ∣ f.recOff ∧ spadFits f.recOff 32 = true) ∧
  (f.dstSp = 2 → f.kind ≠ 3 → f.modul = 0xFFFF ∨ f.modul = s.modId →
    ∃ k, s.physOf (bits f.dst 44 6) = some k ∧ s.partOf k = s.partOf c) ∧
  (f.dstSp = 3 → s.on (bobcBase c) F.BOB_RING_CFG_ENABLE f.ring = true ∧ s.rd (bobcBase c) F.BOB_RING_CFG_PRODUCER f.ring = b.val) ∧
  s.reqStream c b f.stream = true ∧
  (f.kind = 1 ∨ f.kind = 2 → s.Clean c f.idx (4 * f.cnt.getD 0 1)) ∧
  (f.kind = 3 → s.Clean c f.idx (8 * f.cnt.getD 0 1 * f.k) ∧ ∀ i < f.cnt.getD 0 1 * f.k,
    s.spadLE c (f.idx + 8 * i + 4) 4 < f.nexp → s.Clean c (f.table + s.spadLE c (f.idx + 8 * i + 4) 4 * 16) 16)

/-- R223, R228, R230, R240, R241: a BXFER, of a dispatch too, whose descriptor passes the checks enters the lowest free context; a ring transfer takes
the next slot in order, without a free one it waits at the head, and RING_SLOT_RESERVE takes the slot once there is one, within the wait's time. -/
def Obligations.TransfersEnter : Prop :=
  (∀ (c : PCore) (b : Bob) (s : State) (w : IWord) (ia n : Nat), s.AtHead c (bobQueue b) 0x80 w ia → s.freeCtx c b = some n →
    (s.bob c b).ringWait = none → descFits (s.x32 c w 107) = true → s.Clean c (s.x32 c w 107) 128 →
    XferLegal s c b (s.descWords c (s.x32 c w 107)) (descF (s.descWords c (s.x32 c w 107))) →
    (descF (s.descWords c (s.x32 c w 107))).dstSp ≠ 3 →
    ∃ t, exec (if (descF (s.descWords c (s.x32 c w 107))).kind = 3 then .bxferDispatch c b else .bxfer c b) s = .next t ∧
      Entered s t c b w n .desc none) ∧
  (∀ (c : PCore) (b : Bob) (s : State) (w : IWord) (ia n r : Nat), s.AtHead c (bobQueue b) 0x80 w ia → s.freeCtx c b = some n →
    (s.bob c b).ringWait = none → descFits (s.x32 c w 107) = true → s.Clean c (s.x32 c w 107) 128 →
    XferLegal s c b (s.descWords c (s.x32 c w 107)) (descF (s.descWords c (s.x32 c w 107))) →
    (descF (s.descWords c (s.x32 c w 107))).dstSp = 3 → (descF (s.descWords c (s.x32 c w 107))).ring = r → s.ringRoom c r = false →
    ∃ t, exec (.bxfer c b) s = .next t ∧ t.queue c (bobQueue b) = s.queue c (bobQueue b) ∧ (t.bob c b).ringWait = some r ∧
      (t.bob c b).ctxs = (s.bob c b).ctxs) ∧
  (∀ (c : PCore) (b : Bob) (s : State) (w : IWord) (ia n r m : Nat), s.AtHead c (bobQueue b) 0x80 w ia → s.freeCtx c b = some n →
    s.ringWaitOver c b = false → descFits (s.x32 c w 107) = true → s.Clean c (s.x32 c w 107) 128 →
    XferLegal s c b (s.descWords c (s.x32 c w 107)) (descF (s.descWords c (s.x32 c w 107))) →
    (descF (s.descWords c (s.x32 c w 107))).dstSp = 3 → (descF (s.descWords c (s.x32 c w 107))).ring = r → s.ringRoom c r = true →
    (s.rd (bobcBase c) F.BOB_RING_PTR_TAIL r + s.rd (bobcBase c) F.BOB_RING_PTR_RSV r) % 65536 = m →
    ∃ t, exec (if (s.bob c b).ringWait = none then .bxfer c b else .ringSlotReserve c b) s = .next t ∧
      Entered s t c b w n .desc (some (r, m, s.rd (bobcBase c) F.BOB_RING_CFG_BASE r +
        m % s.rd (bobcBase c) F.BOB_RING_CFG_NSLOTS r * s.rd (bobcBase c) F.BOB_RING_CFG_SLOT_SIZE r)) ∧
      (t.bob c b).ringWait = none)

/-- R171, R260, R261, R265: the opcodes MOP stands for, with the OP of its descriptor. -/
def mopOps (c : PCore) (b : Bob) : List (Instr × Nat) :=
  [(.mopRegionAdd c b, 0), (.mopRegionMax c b, 1), (.mopRegionMin c b, 2), (.mopOptimiserStep c b, 3), (.mopNormAccumulation c b, 4),
   (.mopZeroFill c b, 5), (.mopNormFetch c b, 6)]

/-- What R148, R258 to R261 and R331 ask of a memory-side descriptor `d` with fields `f` of a program of partition `p`. -/
abbrev MopLegal (s : State) (p : Nat) (d : List Nat) (f : MopF) : Prop :=
  mopReserved d = true ∧ f.op ≤ 6 ∧ mopFmtOk f.op f.fmt = true ∧ f.alg ≠ 3 ∧ f.wrnd ≠ 1 ∧ f.wrnd ≠ 3 ∧
  64 ∣ f.dst ∧ 64 ∣ f.src ∧ 64 ∣ f.mom1 ∧ 64 ∣ f.mom2 ∧ 64 ∣ f.work ∧ 0 < f.len ∧
  (f.op = 6 → 32 ∣ f.len) ∧ (f.op ≠ 6 → 64 ∣ f.len ∧ f.width ∣ f.len) ∧
  (f.op ≤ 2 → f.space = 0 → spadFits f.src f.len = true) ∧ (f.op = 6 → f.space = 0 → spadFits f.dst f.len = true) ∧
  (3 ≤ f.op → f.op ≤ 5 ∨ f.space = 1 → s.isHere f.dst = true) ∧
  (f.op = 3 → f.space ≠ 0 ∧ (f.alg = 2 → f.step ≠ 0) ∧ (∀ a ∈ f.arrays, s.isHere a = true) ∧ s.mopPlaced p f = true)

/-- R170, R171, R223, R258, R259: BCOPY of a length, with a place for its record where it writes one, a MOP whose descriptor passes its checks,
SCOMMIT, and MATOM with a valid format, an aligned address and a mapped line each enter the lowest free context. -/
def Obligations.OperationsEnter : Prop :=
  (∀ (c : PCore) (b : Bob) (s : State) (w : IWord) (ia n : Nat), s.AtHead c (bobQueue b) 0x81 w ia → s.freeCtx c b = some n →
    s.x32 c w 97 ≠ 0 → (s.on (bobBase c b) F.BOB_COPYREC_EN = true → 32 ∣ s.rd (bobBase c b) F.BOB_COPYREC_OFFSET ∧
      spadFits (s.rd (bobBase c b) F.BOB_COPYREC_OFFSET) 32 = true) →
    ∃ t, exec (.bcopy c b) s = .next t ∧ Entered s t c b w n .copy none) ∧
  (∀ (c : PCore) (b : Bob) (s : State) (w : IWord) (ia n : Nat), ∀ i ∈ mopOps c b, s.AtHead c (bobQueue b) 0x90 w ia →
    s.freeCtx c b = some n → descFits (s.x32 c w 107) = true → (mopF (s.descWords c (s.x32 c w 107))).op = i.2 →
    s.Clean c (s.x32 c w 107) 128 →
    MopLegal s (s.partOf c) (s.descWords c (s.x32 c w 107)) (mopF (s.descWords c (s.x32 c w 107))) →
    s.reqStream c b (mopF (s.descWords c (s.x32 c w 107))).stream = true →
    ∃ t, exec i.1 s = .next t ∧ Entered s t c b w n .mop none) ∧
  (∀ (c : PCore) (b : Bob) (s : State) (w : IWord) (ia n : Nat), s.AtHead c (bobQueue b) 0x91 w ia → s.freeCtx c b = some n →
    ∃ t, exec (.scommit c b) s = .next t ∧ Entered s t c b w n .scommit none) ∧
  (∀ (c : PCore) (b : Bob) (s : State) (w : IWord) (ia n pa : Nat), s.AtHead c (bobQueue b) 0x92 w ia → s.freeCtx c b = some n →
    mopFmtOk (fieldOf w 110 2) (fieldOf w 106 4) = true →
    matomAligned (fieldOf w 110 2) (fieldOf w 106 4) (s.x c (fieldOf w 101 5)).toNat = true →
    (s.isHere (s.x c (fieldOf w 101 5)).toNat = false ∨
      s.resolve c (s.x c (fieldOf w 101 5)).toNat (atomicWidth (fieldOf w 110 2) (fieldOf w 106 4)) true = .at (.hbm pa)) →
    ∃ t, exec (.matom c b) s = .next t ∧ Entered s t c b w n .matom none)

/-- Bobbin `b` may issue the request `q` of transfer `x` in this cycle: no request it has shares a line with `q` (R224), its partition's network is
not held, and bridges that are up lead to its places, where `q` leaves the core (R18, R219), a tag is free and the other bobbin does not take it (R225), its stream's allotment has room (R225),
and its regulator has the bytes (R239). -/
abbrev MayIssue (s : State) (c : PCore) (b : Bob) (x : Xfer) (q : BobReq) : Prop :=
  ((s.bob c b).ctxs.find? fun x => !x.allSent) = some x ∧ (s.bob c b).issuedAt ≠ some s.cycle ∧ s.bobOrders c b q = false ∧
  (q.leaves = true → s.placesFlow c q = true) ∧ s.tagFree c b = true ∧ s.tagYields c b = false ∧
  (∀ r ∈ (s.bob c b).reqs, r.tag ≠ s.newTag c) ∧ s.allotted c q = true ∧ s.regShort c b (s.regOf c b x) q.len = false

/-- R223 to R226, R228, R239: a copy's next request that nothing holds takes a free tag (the lowest, log entry 33), and where its source begins in a
stack its read is sent there; one that shares a line with an outstanding request, finds no tag or leaves it to the other bobbin waits. A SCOMMIT's
request is sent to its record's stack. No bobbin issues twice in a cycle. -/
def Obligations.RequestIssue : Prop :=
  (∀ (c : PCore) (b : Bob) (s : State) (x x1 : Xfer) (a d n : Nat) (pd : Place) (co : List Nat) (q : BobReq), x.kind = .copy →
    planCopy x = .req (.addr a) (.addr d) n co x1 → srcFault (s.findSrc c (.addr a) n) = none → s.resolve c d n true = .at pd →
    q = s.newReq c x (.addr a) (.addr d) (srcPlaces (s.findSrc c (.addr a) n)) pd n co → MayIssue s c b x q →
    ∃ t, exec (.bobbinRequestIssue c b) s = .next t ∧ (t.bob c b).issuedAt = some s.cycle ∧
      (∃ r ∈ (t.bob c b).reqs, r.tag = s.newTag c ∧ r.xfer = x.id ∧ r.num = x.num ∧ r.len = n ∧ r.pieces = q.pieces ∧ r.done = false) ∧
      (∀ (pa m : Nat) (k : Stack), q.pieces.head? = some (.hbm pa, m) → m ≠ 0 → s.stackOf pa = some k →
        s.Accepts k ⟨.bobbin c.val b.val (s.newTag c), s.partOf c, .read m, pa⟩ →
        t.memReqs[k] = s.memReqs[k] ++ [⟨.bobbin c.val b.val (s.newTag c), s.partOf c, .read m, pa⟩]) ∧
      t.rd (bobBase c b) F.BOB_REQS_COUNT = (s.rd (bobBase c b) F.BOB_REQS_COUNT + 1) % 2 ^ F.BOB_REQS_COUNT.w ∧
      (t.core c).spad = (s.core c).spad ∧ t.mem = s.mem) ∧
  (∀ (c : PCore) (b : Bob) (s : State) (x x1 : Xfer) (a d n : Nat) (pd : Place) (co : List Nat) (q : BobReq), x.kind = .copy →
    ((s.bob c b).ctxs.find? fun x => !x.allSent) = some x →
    planCopy x = .req (.addr a) (.addr d) n co x1 → srcFault (s.findSrc c (.addr a) n) = none → s.resolve c d n true = .at pd →
    q = s.newReq c x (.addr a) (.addr d) (srcPlaces (s.findSrc c (.addr a) n)) pd n co →
    (s.bobOrders c b q = true ∨ s.tagFree c b = false ∨ s.tagYields c b = true) →
    ∃ t, exec (.bobbinRequestIssue c b) s = .next t ∧ (t.bob c b).reqs = (s.bob c b).reqs ∧ t.memReqs = s.memReqs ∧
      (t.core c).spad = (s.core c).spad) ∧
  (∀ (c : PCore) (b : Bob) (s : State) (x : Xfer) (pa : Nat) (k : Stack) (q : BobReq), x.kind = .scommit →
    s.resolve c (x.desc.getD 0 0 % 2 ^ 48 + 0xFFFF * 2 ^ 48) 64 true = .at (.hbm pa) → s.stackOf pa = some k →
    q = s.newReq c x .none (.place (.picot (.recCommit (x.desc.getD 1 0)) 0) (x.desc.getD 0 0)) [(.nothing, 64)]
      (.picot (.recCommit (x.desc.getD 1 0)) pa) 64 [0] → MayIssue s c b x q →
    s.Accepts k ⟨.bobbin c.val b.val (s.newTag c), s.partOf c, .recCommit (x.desc.getD 1 0), pa⟩ →
    ∃ t, exec (.bobbinRequestIssue c b) s = .next t ∧ (∃ r ∈ (t.bob c b).reqs, r.tag = s.newTag c ∧ r.xfer = x.id ∧ r.sent = true) ∧
      t.memReqs[k] = s.memReqs[k] ++ [⟨.bobbin c.val b.val (s.newTag c), s.partOf c, .recCommit (x.desc.getD 1 0), pa⟩]) ∧
  (∀ (c : PCore) (b : Bob) (s : State), (s.bob c b).issuedAt = some s.cycle →
    ∃ t, exec (.bobbinRequestIssue c b) s = .next t ∧ (t.bob c b).reqs = (s.bob c b).reqs ∧ t.memReqs = s.memReqs ∧
      (t.core c).spad = (s.core c).spad)

/-- R125, R225, R232, R234, R240: a complete request gives up its tag, its bytes are counted, and data for the core's own scratchpad is written there
and nowhere else. A transfer all of whose requests are complete frees its context, counts itself, writes its record, signals its completion pair (R331: not one of a memory-side operation
of which a part was refused), moves its ring's tail past its slot, and, where it is a dispatch, writes its experts' counts. -/
def Obligations.TransferCompletes : Prop :=
  (∀ (c : PCore) (b : Bob) (tag : Nat) (hb : List Byte) (ps : Bool) (s : State) (q : BobReq) (x : Xfer) (a : Nat),
    ((s.bob c b).reqs.find? fun q => q.tag = tag) = some q → q.done = true → q.status = 0 → q.dst = .hbm a →
    ((s.bob c b).ctxs.find? fun x => x.id = q.xfer) = some x →
    ∃ t, exec (.bobbinRequestComplete c b tag hb ps) s = .next t ∧ (∀ r ∈ (t.bob c b).reqs, r.tag ≠ tag) ∧
      t.rd (bobBase c b) F.BOB_BYTES_COUNT =
        (s.rd (bobBase c b) F.BOB_BYTES_COUNT + (q.data.getD []).length) % 2 ^ F.BOB_BYTES_COUNT.w ∧
      (q.poison = true → t.on (bobBase c b) F.BOB_ERR_POISON = true) ∧ (t.core c).spad = (s.core c).spad ∧ t.mem = s.mem) ∧
  (∀ (c : PCore) (b : Bob) (tag : Nat) (hb : List Byte) (ps : Bool) (s : State) (q : BobReq) (x : Xfer) (off : Nat) (bs : List Byte),
    ((s.bob c b).reqs.find? fun q => q.tag = tag) = some q → q.done = false → q.sent = true → q.dst = .spad off →
    q.data = some bs → ((s.bob c b).ctxs.find? fun x => x.id = q.xfer) = some x →
    ∃ t, exec (.bobbinRequestComplete c b tag hb ps) s = .next t ∧ (∀ r ∈ (t.bob c b).reqs, r.tag ≠ tag) ∧
      (∀ k, SMap.get 0 (t.core c).spad k = if off ≤ k ∧ k < off + bs.length then bs.getD (k - off) 0 else SMap.get 0 (s.core c).spad k) ∧
      (q.poison = true → ∀ l ∈ linesOf off bs.length, SMap.get false (t.core c).spadPois l = true) ∧ t.mem = s.mem) ∧
  (∀ (c : PCore) (b : Bob) (n : Fin 4) (s : State) (x : Xfer), ((s.bob c b).ctxs.find? fun x => x.ctxNo = n.val) = some x →
    x.allSent = true → ((s.bob c b).reqs.any fun q => q.xfer = x.id) = false → (x.kind = .desc → (descF x.desc).kind ≠ 3) →
    (x.inc ≠ 0 → x.flag < 64 ∧ s.FlagFits c x.flag x.inc) →
    ∃ t, exec (.transferComplete c b n) s = .next t ∧ (∀ y ∈ (t.bob c b).ctxs, y.id ≠ x.id) ∧
      (x.inc ≠ 0 → (x.kind = .mop → x.status = 0) → t.flag c x.flag = satAdd 16 (s.flag c x.flag) x.inc) ∧
      (x.kind = .mop → x.status ≠ 0 → ∀ f < 64, t.flag c f = s.flag c f) ∧ (x.recordAt = none → (t.core c).spad = (s.core c).spad) ∧
      (∀ a, x.recordAt = some a → readBytes (t.core c).spad a 32 =
        x.record b (if x.status ≠ 0 then x.status else if x.poisoned = true then 0x0B else 0) s.cycle) ∧
      (∀ (r m base : Nat), x.ring = some (r, m, base) → r < 16 → s.rd (bobcBase c) F.BOB_RING_PTR_TAIL r = m →
        (∀ e ∈ (s.core c).ringDone, e.1 ≠ r) → t.rd (bobcBase c) F.BOB_RING_PTR_TAIL r = (m + 1) % 65536) ∧
      t.rd (bobBase c b) F.BOB_XFERS_COUNT = (s.rd (bobBase c b) F.BOB_XFERS_COUNT + 1) % 2 ^ F.BOB_XFERS_COUNT.w ∧ t.mem = s.mem) ∧
  (∀ (c : PCore) (b : Bob) (n : Fin 4) (s : State) (x : Xfer), ((s.bob c b).ctxs.find? fun x => x.ctxNo = n.val) = some x →
    x.allSent = true → ((s.bob c b).reqs.any fun q => q.xfer = x.id) = false → x.kind = .desc → (descF x.desc).kind = 3 →
    spadFits (descF x.desc).counts (4 * (descF x.desc).nexp) = true → x.recordAt = none → x.inc = 0 →
    ∃ t, exec (.transferComplete c b n) s = .next t ∧ (∀ y ∈ (t.bob c b).ctxs, y.id ≠ x.id) ∧
      (∀ e < (descF x.desc).nexp, t.spadLE c ((descF x.desc).counts + 4 * e) 4 = SMap.get 0 x.counts e % 2 ^ 32) ∧
      (∀ a, ¬ ((descF x.desc).counts ≤ a ∧ a < (descF x.desc).counts + 4 * (descF x.desc).nexp) →
        SMap.get 0 (t.core c).spad a = SMap.get 0 (s.core c).spad a))

/-- R236, R306, R350: a request whose response from another module, or from the host, has not come within its limit ends as a page fault: the
core's task aborts with cause 5. -/
def Obligations.ResponseTimeouts : Prop :=
  (∀ (c : PCore) (b : Bob) (tag : Nat) (s : State) (q : BobReq) (x : Xfer), ((s.bob c b).reqs.find? fun q => q.tag = tag) = some q →
    q.awaitsRemote = true → q.done = false → q.since + limitOr 1000 (s.rd brdmBase F.BRD_RSPLIMIT_LIMIT) ≤ s.us →
    ((s.bob c b).ctxs.find? fun x => x.id = q.xfer) = some x →
    ∃ t, exec (.remoteResponseTimeout c b tag) s = .next t ∧ TaskAborted s t (s.partOf c) 5) ∧
  (∀ (c : PCore) (b : Bob) (tag : Nat) (s : State) (q : BobReq) (x : Xfer), ((s.bob c b).reqs.find? fun q => q.tag = tag) = some q →
    q.awaitsHost = true → q.done = false → q.since + limitOr 100 (s.rd cxlBase F.CXL_RSPLIMIT_LIMIT) ≤ s.us →
    ((s.bob c b).ctxs.find? fun x => x.id = q.xfer) = some x →
    ∃ t, exec (.cxlResponseTimeout c b tag) s = .next t ∧ TaskAborted s t (s.partOf c) 5 ∧ t.on cxlBase F.CXL_ERR_RSP_TIMEOUT = true)

/-! ### The host's writes (R7, R10, R98, R125, R184, R225, R239, R242, R342) -/

/-- R98, R125, R184, R196: what a write of a function that reaches the core does through its apertures. Instruction memory takes whole instructions or
records why it refuses; the scratchpad takes the bytes that lie in it, except in state 1 and during a zero-fill; the accumulators take a word while
the core is halted. -/
def Obligations.ApertureWrites : Prop :=
  (∀ (f : Func) (c : PCore) (off : BitVec 18) (data : List Byte) (s : State), s.Reaches f c → data ≠ [] →
    s.imemCheck c off.toNat data.length 2 = 0 →
    ∃ t, exec (.imemHostWrite f c off data) s = .next t ∧
      (∀ ia, t.imemAt c ia = if off.toNat / 16 ≤ ia ∧ ia < off.toNat / 16 + data.length / 16
        then BitVec.ofNat 128 (leNat ((data.drop (16 * (ia - off.toNat / 16))).take 16)) else s.imemAt c ia) ∧
      (∀ d, d ≠ c → t.core d = s.core d)) ∧
  (∀ (f : Func) (c : PCore) (off : BitVec 18) (data : List Byte) (s : State), s.Reaches f c → data ≠ [] →
    s.imemCheck c off.toNat data.length 2 ≠ 0 →
    ∃ t, exec (.imemHostWrite f c off data) s = .next t ∧ t.core = s.core ∧ t.on (coreBase c) F.SEQ_ERR_IMEM_REJ = true ∧
      t.rd (coreBase c) F.SEQ_IMEMREJ_SOURCE = 2) ∧
  (∀ (f : Func) (c : PCore) (off : BitVec 24) (data : List Byte) (s : State), s.Reaches f c → s.seqState c ≠ 1 →
    (s.core c).fillEnd = none →
    ∃ t, exec (.scratchpadApertureWrite f c off data) s = .next t ∧
      (∀ a, SMap.get 0 (t.core c).spad a = if off.toNat ≤ a ∧ a < off.toNat + data.length ∧ a < spadSize then data.getD (a - off.toNat) 0
        else SMap.get 0 (s.core c).spad a) ∧ (∀ d, d ≠ c → t.core d = s.core d)) ∧
  (∀ (f : Func) (c : PCore) (off : BitVec 24) (data : List Byte) (s : State), s.Reaches f c → data ≠ [] → off.toNat < spadSize →
    s.seqState c = 1 → (s.core c).fillEnd = none →
    ∃ t, exec (.scratchpadApertureWrite f c off data) s = .next t ∧ t.core = s.core ∧
      t.rd (spdBase c) F.SPD_ECC_APERTURE_REJ = satAdd 16 (s.rd (spdBase c) F.SPD_ECC_APERTURE_REJ) 1) ∧
  (∀ (f : Func) (c : PCore) (off : BitVec 24) (data : List Byte) (s : State), s.Reaches f c → (s.core c).fillEnd ≠ none →
    exec (.scratchpadApertureWrite f c off data) s = .next s) ∧
  (∀ (f : Func) (c : PCore) (off : BitVec 24) (data : List Byte) (s : State), s.Reaches f c → 8 ∣ off.toNat → data.length = 8 →
    s.seqState c = 2 →
    ∃ t, exec (.accApertureWrite f c off data) s = .next t ∧ t.accAt c off.toNat = BitVec.ofNat 48 (leNat data) ∧
      (t.core c).spad = (s.core c).spad ∧ ∀ d, d ≠ c → t.core d = s.core d) ∧
  (∀ (f : Func) (c : PCore) (e : Eng) (off : BitVec 24) (data : List Byte) (s : State), s.Reaches f c → s.seqState c ≠ 2 →
    off.toNat / 0x400000 = e.val →
    ∃ t, exec (.accApertureWrite f c off data) s = .next t ∧ t.core = s.core ∧ t.rd (accBase c e) F.ACC_ECC_APERTURE_REJ =
      satAdd F.ACC_ECC_APERTURE_REJ.w (s.rd (accBase c e) F.ACC_ECC_APERTURE_REJ) 1)

/-- The host's commands on core `c`, with the kind of access each is (R342, R360). -/
def coreAccesses (f : Func) (c : PCore) (e : Eng) (b : Bob) (v : Word64) (data : List Byte) : List (Instr × Nat) :=
  [(.seqGo f c, 2), (.seqStop f c, 2), (.seqResume f c, 2), (.seqFlagsig f c (v.setWidth 32), 2), (.opePreempt f c e, 2),
   (.opeResume f c e, 2), (.drainProfileWrite f c e 0 0 v, 2), (.bobCtrlWrite f c b v, 2), (.bobAllotWrite f c 0 v, 2),
   (.bobRingCfgWrite f c 0 v, 2), (.bobRegWrite f c b 0 v, 2), (.imemHostWrite f c (v.setWidth 18) data, 1),
   (.scratchpadApertureWrite f c (v.setWidth 24) data, 1), (.accApertureWrite f c (v.setWidth 24) data, 1)]

/-- R342, R360: a host write to a core whose partition the function does not carry changes nothing but the record of the refusal. -/
def Obligations.CoreAccessRefused : Prop :=
  ∀ (f : Func) (c : PCore) (e : Eng) (b : Bob) (v : Word64) (data : List Byte) (s : State), s.hostReady = true →
    s.authority f ≠ some (s.partOf c) → ∀ i ∈ coreAccesses f c e b v data,
    ∃ t, exec i.1 s = .next t ∧ t.core = s.core ∧ t.mem = s.mem ∧ t.net = s.net ∧ t.sigs = s.sigs ∧
      t.rd cxlBase F.CXL_AUTHREJ_FUNC = f.val ∧ t.rd cxlBase F.CXL_AUTHREJ_KIND = i.2 ∧
      t.rd cxlBase F.CXL_AUTHCNT_COUNT = satAdd 32 (s.rd cxlBase F.CXL_AUTHCNT_COUNT) 1

/-- R225, R239, R242: RESERVE is taken where both reservations fit in 512, and refused with ALLOT_REJ otherwise; FLITS up to 4,096, and above it is
refused too; a legal configuration of an idle ring zeroes its counters, an illegal one or one of a ring in use is discarded with RING_REJ; a
regulator's write fills its bucket. -/
def Obligations.BobbinRegisters : Prop :=
  (∀ (f : Func) (c : PCore) (b : Bob) (v : Word64) (s : State), s.Reaches f c → s.seqState c ≠ 1 → s.seqState c ≠ 5 →
    s.on (bobBase c b) F.BOB_CTRL_LOCK = false →
    ∃ t, exec (.bobCtrlWrite f c b v) s = .next t ∧ t.core = s.core ∧
      (bits v.toNat 0 8 + s.rd (bobBase c ⟨1 - b.val, by omega⟩) F.BOB_CTRL_RESERVE ≤ 512 →
        t.rd (bobBase c b) F.BOB_CTRL_RESERVE = bits v.toNat 0 8) ∧
      (512 < bits v.toNat 0 8 + s.rd (bobBase c ⟨1 - b.val, by omega⟩) F.BOB_CTRL_RESERVE →
        t.rd (bobBase c b) F.BOB_CTRL_RESERVE = s.rd (bobBase c b) F.BOB_CTRL_RESERVE ∧ t.on (bobBase c b) F.BOB_ERR_ALLOT_REJ = true)) ∧
  (∀ (f : Func) (c : PCore) (k : Fin 32) (v : Word64) (s : State), s.Reaches f c → s.seqState c ≠ 1 → s.seqState c ≠ 5 →
    ∃ t, exec (.bobAllotWrite f c k v) s = .next t ∧ t.core = s.core ∧
      (bits v.toNat 12 13 ≤ 4096 → t.rd (bobcBase c) F.BOB_ALLOT_STREAM k.val = bits v.toNat 0 12 ∧
        t.rd (bobcBase c) F.BOB_ALLOT_FLITS k.val = bits v.toNat 12 13) ∧
      (4096 < bits v.toNat 12 13 → t.rd (bobcBase c) F.BOB_ALLOT_FLITS k.val = s.rd (bobcBase c) F.BOB_ALLOT_FLITS k.val ∧
        ∀ b, t.on (bobBase c b) F.BOB_ERR_ALLOT_REJ = true)) ∧
  (∀ (f : Func) (c : PCore) (r : Fin 16) (v : Word64) (s : State), s.Reaches f c →
    s.rd (bobcBase c) F.BOB_RING_PTR_TAIL r.val = s.rd (bobcBase c) F.BOB_RING_PTR_HEAD r.val →
    s.rd (bobcBase c) F.BOB_RING_PTR_RSV r.val = 0 →
    ∃ t, exec (.bobRingCfgWrite f c r v) s = .next t ∧
      (ringOk v.toNat = true → t.rd (bobcBase c) F.BOB_RING_CFG_BASE r.val = bits v.toNat 0 24 ∧
        t.rd (bobcBase c) F.BOB_RING_CFG_NSLOTS r.val = bits v.toNat 48 5 ∧ t.rd (bobcBase c) F.BOB_RING_PTR_HEAD r.val = 0 ∧
        t.rd (bobcBase c) F.BOB_RING_PTR_TAIL r.val = 0) ∧
      (ringOk v.toNat = false → v.toNat.testBit 54 = true →
        t.rd (bobcBase c) F.BOB_RING_CFG_BASE r.val = s.rd (bobcBase c) F.BOB_RING_CFG_BASE r.val ∧
        ∃ b : Bob, b.val = bits v.toNat 53 1 ∧ t.on (bobBase c b) F.BOB_ERR_RING_REJ = true)) ∧
  (∀ (f : Func) (c : PCore) (r : Fin 16) (v : Word64) (s : State), s.Reaches f c →
    s.rd (bobcBase c) F.BOB_RING_PTR_TAIL r.val ≠ s.rd (bobcBase c) F.BOB_RING_PTR_HEAD r.val →
    ∃ t, exec (.bobRingCfgWrite f c r v) s = .next t ∧
      t.rd (bobcBase c) F.BOB_RING_CFG_BASE r.val = s.rd (bobcBase c) F.BOB_RING_CFG_BASE r.val ∧
      t.rd (bobcBase c) F.BOB_RING_PTR_TAIL r.val = s.rd (bobcBase c) F.BOB_RING_PTR_TAIL r.val ∧
      ∃ b : Bob, b.val = bits v.toNat 53 1 ∧ t.on (bobBase c b) F.BOB_ERR_RING_REJ = true) ∧
  (∀ (f : Func) (c : PCore) (b : Bob) (n : Fin 8) (v : Word64) (s : State), s.Reaches f c →
    ∃ t, exec (.bobRegWrite f c b n v) s = .next t ∧ t.rd (bobBase c b) F.BOB_REG_RATE n.val = bits v.toNat 0 20 ∧
      t.rd (bobBase c b) F.BOB_REG_BURST n.val = bits v.toNat 20 24 ∧
      (n.val < (s.bob c b).buckets.length →
        (t.bob c b).buckets.getD n.val (0, 0) = (max (bits v.toNat 20 24) 512 * 256, s.cycle)))

/-- R7, R10: writes of registers with no behaviour of their own: a core's limit and start registers, a W1C error register, and the
configuration of a function. A write that is not of a register's width changes nothing. -/
def Obligations.RegisterWrites : Prop :=
  (∀ (f : Func) (c : PCore) (v : Word64) (s : State), s.Reaches f c →
    ∃ t, exec (.registerWrite f (.reg (coreBase c + 0x20) 8) v) s = .next t ∧
      t.rd (coreBase c) F.SEQ_WAITLIMIT_LIMIT = v.toNat % 2 ^ 32 ∧ t.core = s.core) ∧
  (∀ (f : Func) (c : PCore) (v : Word64) (s : State), s.Reaches f c →
    ∃ t, exec (.registerWrite f (.reg (coreBase c + 8) 8) v) s = .next t ∧ t.core = s.core ∧
      (s.seqState c ≠ 1 → s.seqState c ≠ 5 →
        t.rd (coreBase c) F.SEQ_START_PC = bits v.toNat 0 13 ∧ t.rd (coreBase c) F.SEQ_START_BANK = bits v.toNat 13 1) ∧
      (s.seqState c = 1 → t.rd (coreBase c) F.SEQ_START_PC = s.rd (coreBase c) F.SEQ_START_PC ∧
        t.on (coreBase c) F.SEQ_ERR_WR_REJ = true)) ∧
  (∀ (f : Func) (v : Word64) (s : State), s.PF0Reaches f →
    ∃ t, exec (.registerWrite f (.reg (cxlBase + 0x48) 8) v) s = .next t ∧
      (v.toNat.testBit 1 = true → t.on cxlBase F.CXL_ERR_RSP_TIMEOUT = false) ∧
      (v.toNat.testBit 1 = false → t.on cxlBase F.CXL_ERR_RSP_TIMEOUT = s.on cxlBase F.CXL_ERR_RSP_TIMEOUT)) ∧
  (∀ (f : Func) (c : PCore) (v : Word64) (n : Nat) (s : State), s.Reaches f c → n ≠ 4 → n ≠ 8 →
    exec (.registerWrite f (.reg (coreBase c + 0x20) n) v) s = .next s) ∧
  (∀ (f : Func) (v : Word64) (m : Bool) (s : State), s.hostReady = true → s.funcs[f].pend = [] →
    ∃ t, exec (.registerWrite f (.msix true m) v) s = .next t ∧ t.funcs[f].msixEn = true ∧ t.funcs[f].fnMask = m ∧ t.out = s.out)

/-! ### HBM and the picots (R85 to R88, R212, R243 to R271) -/

/-- What the reads of a request's lines find leaves a state in which `n` bytes at its address are marked, or not (R246). -/
abbrev ReadMarks (s : State) (r : MemReq) (ecc : List LineEcc) (n : Nat) : Bool := (s.linesEcc (s.reqLines r) ecc).hbmPoisoned r.addr n

/-- R246, R253 to R255, R265, R384: whatever the reads of its lines find, a read, a write, a record read and a norm fetch whose turn it is complete: a
bobbin's read returns the bytes and their mark, and one that loses a line marks it; a write puts its bytes in place and no others; a record read
returns the record; a norm fetch in range returns its entry and clears it if asked; a request whose page is not its partition's is recorded, changes
no byte, and returns refused. -/
def Obligations.PicotRequests : Prop :=
  (∀ (k : Stack) (ecc : List LineEcc) (s : State) (r : MemReq) (c b tag n : Nat), s.Ready k r → r.src = .bobbin c b tag → r.op = .read n →
    ∃ t, exec (.picotRequestApply k ecc) s = .next t ∧ t.memReqs[k] = s.memReqs[k].tail ∧ t.mem.bytes = s.mem.bytes ∧
      t.memResps[k] = s.memResps[k] ++ [⟨r.src, s.hbmBytes r.addr n, ReadMarks s r ecc n, 0⟩]) ∧
  (∀ (k : Stack) (s : State) (r : MemReq) (c b tag n : Nat), s.Ready k r → r.src = .bobbin c b tag → r.op = .read n → n ≠ 0 →
    s.stackOf (r.addr / 64 * 64) = some k →
    ∃ t, exec (.picotRequestApply k [.lost]) s = .next t ∧ t.mem.bytes = s.mem.bytes ∧ t.hbmPoisoned r.addr n = true ∧
      t.memResps[k] = s.memResps[k] ++ [⟨r.src, s.hbmBytes r.addr n, true, 0⟩] ∧
      t.rd (hbmBase k) F.HBM_ECC_UNCORR = satAdd F.HBM_ECC_UNCORR.w (s.rd (hbmBase k) F.HBM_ECC_UNCORR) 1) ∧
  (∀ (k : Stack) (ecc : List LineEcc) (s : State) (r : MemReq) (bs : List Byte) (poison : Bool), s.Ready k r → r.op = .write bs poison →
    s.NoCapture → s.Mapped r.addr bs.length →
    ∃ t, exec (.picotRequestApply k ecc) s = .next t ∧ t.memReqs[k] = s.memReqs[k].tail ∧ t.hbmBytes r.addr bs.length = bs ∧
      (∀ a, (a < r.addr ∨ r.addr + bs.length ≤ a) → t.hbmBytes a 1 = s.hbmBytes a 1) ∧ t.core = s.core) ∧
  (∀ (k : Stack) (ecc : List LineEcc) (s : State) (r : MemReq) (c e : Nat), s.Ready k r → r.src = .drain c e → r.op = .recRead →
    ∃ t, exec (.picotRequestApply k ecc) s = .next t ∧ t.memReqs[k] = s.memReqs[k].tail ∧ t.mem.bytes = s.mem.bytes ∧
      t.memResps[k] = s.memResps[k] ++ [⟨r.src, s.hbmBytes r.addr 64, ReadMarks s r ecc 64, if ReadMarks s r ecc 64 = true then 2 else 0⟩]) ∧
  (∀ (k : Stack) (ecc : List LineEcc) (s : State) (r : MemReq) (tag : Nat) (clear : Bool), s.Ready k r → r.op = .normFetch tag clear →
    s.tagOk r.part tag = true →
    ∃ t, exec (.picotRequestApply k ecc) s = .next t ∧ t.memReqs[k] = s.memReqs[k].tail ∧
      t.normEnt tag = (if clear then NormEnt.zero else s.normEnt tag) ∧ t.mem.bytes = s.mem.bytes ∧
      (∀ c b tg, r.src = .bobbin c b tg → t.memResps[k] = s.memResps[k] ++ [⟨r.src, (s.normEnt tag).bytes, false, 0⟩])) ∧
  (∀ (k : Stack) (ecc : List LineEcc) (s : State) (r : MemReq) (c b tag n : Nat), s.front k = some r → r.src = .bobbin c b tag →
    r.op = .read n → s.isEarly k 0 = false → s.reqOwned r = false →
    ∃ t, exec (.picotRequestApply k ecc) s = .next t ∧ t.mem = s.mem ∧ t.on (mseBase k) F.MSE_ERR_OWNER = true ∧
      t.memResps[k] = s.memResps[k] ++ [⟨r.src, [], false, 1⟩])

/-- R255, R256, R259 to R261, R263, R264: whatever the reads of its lines find, an atomic and a part of a memory-side operation whose turn it is
complete. An atomic counts its elements; a single one leaves its operation's value, marked where it or its target is, and one that lies in two granules
its bytes in both. Each part counts itself: a zero-fill part leaves zeros, an element of a region part its operation's value, an element of an optimiser
step by descent the new master, and a norm accumulation changes no byte and sends its update; a part that names a tag out of range is discarded. -/
def Obligations.AtomicsAndParts : Prop :=
  (∀ (k : Stack) (ecc : List LineEcc) (s : State) (r : MemReq) (op fmt : Nat) (vals : List Nat) (poison : Bool), s.Ready k r →
    r.op = .atomic op fmt vals poison →
    ∃ t, exec (.atomicApply ⟨k, ecc⟩) s = .next t ∧ t.memReqs[k] = s.memReqs[k].tail ∧
      t.rd (mseBase k) F.MSE_ATOMICS_COUNT = (s.rd (mseBase k) F.MSE_ATOMICS_COUNT + vals.length) % 2 ^ F.MSE_ATOMICS_COUNT.w) ∧
  (∀ (k : Stack) (ecc : List LineEcc) (s : State) (r : MemReq) (op fmt v : Nat) (poison : Bool), s.Ready k r → r.op = .atomic op fmt [v] poison →
    s.NoCapture → s.Mapped r.addr (atomicWidth op fmt) →
    ∃ t, exec (.atomicApply ⟨k, ecc⟩) s = .next t ∧
      t.hbmLE r.addr (atomicWidth op fmt) =
        (atomicValue op fmt (s.hbmLE r.addr (atomicWidth op fmt)) v).1 % 2 ^ (8 * atomicWidth op fmt) ∧
      (∀ a, (a < r.addr ∨ r.addr + atomicWidth op fmt ≤ a) → t.hbmBytes a 1 = s.hbmBytes a 1) ∧
      (poison = true ∨ ReadMarks s r ecc (atomicWidth op fmt) = true → 0 < atomicWidth op fmt →
        t.hbmPoisoned r.addr (atomicWidth op fmt) = true ∧ t.on (mseBase k) F.MSE_ERR_POISON = true)) ∧
  (∀ (k : Stack) (ecc : List LineEcc) (s : State) (r : MemReq) (op fmt v rest n m : Nat) (poison : Bool), s.Ready k r →
    r.op = .atomicOver op fmt v poison rest → s.NoCapture → n = 4096 - r.addr % 4096 → n + m = atomicWidth op fmt → s.Mapped r.addr n →
    s.Mapped rest m → (rest + m ≤ r.addr ∨ r.addr + n ≤ rest) →
    ∃ t, exec (.atomicApply ⟨k, ecc⟩) s = .next t ∧ t.memReqs[k] = s.memReqs[k].tail ∧
      t.hbmBytes r.addr n ++ t.hbmBytes rest m =
        leBytes (n + m) (atomicValue op fmt (leNat (s.hbmBytes r.addr n ++ s.hbmBytes rest m)) v).1 ∧
      (∀ a, (a < r.addr ∨ r.addr + n ≤ a) → (a < rest ∨ rest + m ≤ a) → t.hbmBytes a 1 = s.hbmBytes a 1)) ∧
  (∀ (k : Stack) (ecc : List LineEcc) (s : State) (r : MemReq) (d : List Nat) (off len : Nat) (src : Option (List Byte)) (bad : Bool),
    s.Ready k r → r.op = .part d off len src bad → (∀ x ∈ (mopF d).tags, s.tagOk r.part x = true) →
    ∃ t, exec (.regionPartApply ⟨k, ecc⟩) s = .next t ∧
      t.rd (mseBase k) F.MSE_OPS_COUNT = (s.rd (mseBase k) F.MSE_OPS_COUNT + 1) % 2 ^ F.MSE_OPS_COUNT.w) ∧
  (∀ (k : Stack) (ecc : List LineEcc) (s : State) (r : MemReq) (d : List Nat) (off len : Nat) (src : Option (List Byte)) (bad : Bool),
    s.Ready k r → r.op = .part d off len src bad → (∃ x ∈ (mopF d).tags, s.tagOk r.part x = false) →
    ∃ t, exec (.regionPartApply ⟨k, ecc⟩) s = .next t ∧ t.mem.bytes = s.mem.bytes ∧ t.memReqs[k] = s.memReqs[k].tail ∧
      t.on (mseBase k) F.MSE_ERR_TAG = true) ∧
  (∀ (k : Stack) (ecc : List LineEcc) (s : State) (r : MemReq) (d : List Nat) (off len : Nat) (src : Option (List Byte)) (bad : Bool),
    s.Ready k r → r.op = .part d off len src bad → (mopF d).op = 5 → s.NoCapture → s.Mapped r.addr len →
    ∃ t, exec (.regionPartApply ⟨k, ecc⟩) s = .next t ∧ (∀ a, r.addr ≤ a → a < r.addr + len → t.hbmBytes a 1 = [0]) ∧
      (∀ a, (a < r.addr ∨ r.addr + len ≤ a) → t.hbmBytes a 1 = s.hbmBytes a 1)) ∧
  (∀ (k : Stack) (ecc : List LineEcc) (s : State) (r : MemReq) (d : List Nat) (off len i pa w : Nat) (src : List Byte) (bad : Bool), s.Ready k r →
    r.op = .part d off len (some src) bad → (mopF d).op ≤ 2 → (mopF d).elems off len = [i] → w = atomicWidth (mopF d).op (mopF d).fmt →
    (∀ j < w, s.localOf r.part ((mopF d).dst + i * w + j) = some (pa + j)) → s.NoCapture → s.Mapped pa w →
    ∃ t, exec (.regionPartApply ⟨k, ecc⟩) s = .next t ∧
      t.hbmLE pa w = (atomicValue (mopF d).op (mopF d).fmt (s.hbmLE pa w) ((mopF d).srcElem off src i)).1 % 2 ^ (8 * w) ∧
      (∀ a, (a < pa ∨ pa + w ≤ a) → t.hbmBytes a 1 = s.hbmBytes a 1)) ∧
  (∀ (k : Stack) (ecc : List LineEcc) (s : State) (r : MemReq) (d : List Nat) (off len i pa : Nat) (src : Option (List Byte)) (bad : Bool),
    s.Ready k r → r.op = .part d off len src bad → (∀ x ∈ (mopF d).tags, s.tagOk r.part x = true) → (mopF d).op = 3 → (mopF d).alg = 0 →
    (mopF d).zeroG = false → (mopF d).wcopy = false →
    (mopF d).elems off len = [i] → (∀ j < 4, s.localOf r.part ((mopF d).dst + i * 4 + j) = some (pa + j)) → s.NoCapture → s.Mapped pa 4 →
    ∃ t, exec (.regionPartApply ⟨k, ecc⟩) s = .next t ∧
      t.hbmLE pa 4 = (optimiser (mopF d) (s.arrLE r.part (mopF d).dst i 4) (s.arrLE r.part (mopF d).src i 4) 0 0).1 % 2 ^ 32 ∧
      (∀ a, (a < pa ∨ pa + 4 ≤ a) → t.hbmBytes a 1 = s.hbmBytes a 1)) ∧
  (∀ (k n : Stack) (ecc : List LineEcc) (s : State) (r : MemReq) (d : List Nat) (off len : Nat) (src : Option (List Byte)) (bad : Bool),
    s.Ready k r → r.op = .part d off len src bad → (mopF d).op = 4 → s.tagOk r.part (mopF d).tagW = true →
    n.val = (mopF d).tagW % 20 → s.arrivals[n].waiting = [] →
    ∃ t, exec (.regionPartApply ⟨k, ecc⟩) s = .next t ∧ t.mem.bytes = s.mem.bytes ∧
      ∃ q ∈ t.memReqs[n], q.src = .firmware ∧ q.part = r.part ∧ ∃ sq x nf am, q.op = .norm (mopF d).tagW sq x nf am)

/-- R86 to R88, R263, R264, R384: a record update raises the current amax and adds the overflows; a commit takes the next scale, clears the next entry
and advances to it; a marked record is consumed by either; an update or commit of an invalid record, and a norm update outside the range, change
nothing but the error. -/
def Obligations.RecordsAndNorms : Prop :=
  (∀ (k : Stack) (ecc : List LineEcc) (s : State) (r : MemReq) (amax ovf : Nat) (nan : Bool), s.Ready k r → r.op = .recUpdate amax ovf nan →
    s.NoCapture → s.Mapped r.addr 64 → ReadMarks s r ecc 64 = false → (s.scaleRec r.addr).ok = true → amax < 65536 →
    ∃ t, exec (.scaleRecordUpdate ⟨k, ecc⟩) s = .next t ∧ t.memReqs[k] = s.memReqs[k].tail ∧
      t.hbmLE (r.addr + 2 * (s.scaleRec r.addr).ptr) 2 = amaxMax (s.hbmLE (r.addr + 2 * (s.scaleRec r.addr).ptr) 2) amax ∧
      t.hbmLE (r.addr + 36) 4 = satAdd 32 (s.hbmLE (r.addr + 36) 4) ovf ∧
      (nan = true → (t.hbmLE (r.addr + 35) 1).testBit 2 = true) ∧
      (∀ a, (a < r.addr ∨ r.addr + 40 ≤ a) → t.hbmBytes a 1 = s.hbmBytes a 1)) ∧
  (∀ (k : Stack) (ecc : List LineEcc) (s : State) (r : MemReq) (step : Nat), s.Ready k r → r.op = .recCommit step → s.NoCapture →
    s.Mapped r.addr 64 → ReadMarks s r ecc 64 = false → (s.scaleRec r.addr).ok = true →
    ∃ t, exec (.scaleCommitApply ⟨k, ecc⟩) s = .next t ∧ (t.scaleRec r.addr).scale = (s.scaleRec r.addr).nextScale % 256 ∧
      (t.scaleRec r.addr).ptr = ((s.scaleRec r.addr).ptr + 1) % 16 ∧
      (t.scaleRec r.addr).amax.getD (((s.scaleRec r.addr).ptr + 1) % 16) 1 = 0 ∧ t.hbmLE (r.addr + 48) 8 = step % 2 ^ 64) ∧
  (∀ (k : Stack) (ecc : List LineEcc) (s : State) (r : MemReq) (step : Nat), s.Ready k r → r.op = .recCommit step →
    ReadMarks s r ecc 64 = false → (s.scaleRec r.addr).ok = false →
    ∃ t, exec (.scaleCommitApply ⟨k, ecc⟩) s = .next t ∧ t.mem.bytes = s.mem.bytes ∧ t.on (mseBase k) F.MSE_ERR_RECORD = true) ∧
  (∀ (k : Stack) (ecc : List LineEcc) (s : State) (r : MemReq) (c b tag step : Nat), s.Ready k r → r.src = .bobbin c b tag →
    r.op = .recCommit step → ReadMarks s r ecc 64 = true →
    ∃ t, exec (.scaleCommitApply ⟨k, ecc⟩) s = .next t ∧ t.mem.bytes = s.mem.bytes ∧ t.on (mseBase k) F.MSE_ERR_POISON = true ∧
      t.memResps[k] = s.memResps[k] ++ [⟨r.src, [], true, 2⟩]) ∧
  (∀ (k : Stack) (ecc : List LineEcc) (s : State) (r : MemReq) (c e amax ovf : Nat) (nan : Bool), s.Ready k r → r.src = .drain c e →
    r.op = .recUpdate amax ovf nan → ReadMarks s r ecc 64 = true →
    ∃ t, exec (.scaleRecordUpdate ⟨k, ecc⟩) s = .next t ∧ t.mem.bytes = s.mem.bytes ∧ t.on (mseBase k) F.MSE_ERR_POISON = true ∧
      t.memResps[k] = s.memResps[k] ++ [⟨r.src, leBytes 8 r.addr, true, 2⟩]) ∧
  (∀ (k : Stack) (ecc : List LineEcc) (s : State) (r : MemReq) (amax ovf : Nat) (nan : Bool), s.Ready k r → r.op = .recUpdate amax ovf nan →
    ReadMarks s r ecc 64 = false → (s.scaleRec r.addr).ok = false →
    ∃ t, exec (.scaleRecordUpdate ⟨k, ecc⟩) s = .next t ∧ t.mem.bytes = s.mem.bytes ∧ t.on (mseBase k) F.MSE_ERR_RECORD = true) ∧
  (∀ (k : Stack) (s : State) (r : MemReq) (tag sq n nf am : Nat), s.Ready k r → r.op = .norm tag sq n nf am → s.tagOk r.part tag = true →
    ∃ t, exec (.normUpdate k) s = .next t ∧ t.normEnt tag = (s.normEnt tag).add sq n nf am ∧
      (∀ x, x ≠ tag → t.normEnt x = s.normEnt x) ∧ t.mem.bytes = s.mem.bytes) ∧
  (∀ (k : Stack) (s : State) (r : MemReq) (tag sq n nf am : Nat), s.Ready k r → r.op = .norm tag sq n nf am → s.tagOk r.part tag = false →
    ∃ t, exec (.normUpdate k) s = .next t ∧ (∀ x, t.normEnt x = s.normEnt x) ∧ t.on (mseBase k) F.MSE_ERR_TAG = true)

/-- R248, R262, R265: the host's commands to HBM, of PF0: a read of the selected norm entry is sent to its picot; an owner change sends its pages
to scrubbing at once, one that overlaps a running one is refused and an illegal one rejected; the die-local size is set before the first GO and locked
after it. -/
def Obligations.HostMemoryCommands : Prop :=
  (∀ (f : Func) (s : State), s.PF0Reaches f →
    s.Accepts (⟨s.rd mmemBase F.MSE_NORMSEL_TAG % 20, Nat.mod_lt _ (by omega)⟩ : Stack)
      ⟨.hostNorm, 0x10, .normFetch (s.rd mmemBase F.MSE_NORMSEL_TAG) s.mem.normClr, 0⟩ →
    ∃ t, exec (.mseNormdataRead f) s = .next t ∧ t.mem.bytes = s.mem.bytes ∧
      t.memReqs[(⟨s.rd mmemBase F.MSE_NORMSEL_TAG % 20, Nat.mod_lt _ (by omega)⟩ : Stack)] =
        s.memReqs[(⟨s.rd mmemBase F.MSE_NORMSEL_TAG % 20, Nat.mod_lt _ (by omega)⟩ : Stack)] ++
          [⟨.hostNorm, 0x10, .normFetch (s.rd mmemBase F.MSE_NORMSEL_TAG) s.mem.normClr, 0⟩]) ∧
  (∀ (f : Func) (v : Word64) (s : State) (first count owner : Nat) (mirror : Bool), s.PF0Reaches f → v.toNat.testBit 46 = true →
    first = bits v.toNat 0 20 → count = bits v.toNat 20 20 → owner = bits v.toNat 40 5 → mirror = v.toNat.testBit 45 →
    s.mem.ownCmd = none → count ≠ 0 → first + count ≤ pageCount → (owner < 16 ∨ owner = 0x10) →
    (∀ i < count, s.mirrorHolds (first + i) = false ∧ s.ownerOf (first + i) ≠ owner) →
    ∃ t o, exec (.mseOwncmdGo f v) s = .next t ∧ (∀ i < count, t.ownerOf (first + i) = 0x11) ∧
      t.mem.ownCmd = some o ∧ o.first = first ∧ o.count = count ∧ o.owner = owner ∧ o.mirror = mirror ∧ o.next = first ∧
      t.rd mmemBase F.MSE_OWNSTAT_STATE = 1 ∧ t.mem.bytes = s.mem.bytes) ∧
  (∀ (f : Func) (v : Word64) (s : State), s.PF0Reaches f → v.toNat.testBit 46 = true → s.mem.ownCmd ≠ none →
    ∃ t, exec (.mseOwncmdGo f v) s = .next t ∧ t.mem = s.mem ∧ t.on mmemBase F.MSE_OWNSTAT_BUSY_REJ = true) ∧
  (∀ (f : Func) (v : Word64) (s : State), s.PF0Reaches f → v.toNat.testBit 46 = true → s.mem.ownCmd = none →
    (bits v.toNat 20 20 = 0 ∨ pageCount < bits v.toNat 0 20 + bits v.toNat 20 20 ∨ 0x11 ≤ bits v.toNat 40 5) →
    ∃ t, exec (.mseOwncmdGo f v) s = .next t ∧ t.mem = s.mem ∧ t.rd mmemBase F.MSE_OWNSTAT_STATE = 3) ∧
  (∀ (f : Func) (n : BitVec 6) (s : State), s.PF0Reaches f →
    ∃ t, exec (.hbmMapWrite f n) s = .next t ∧ t.mem = s.mem ∧
      t.rd mmemBase F.HBM_MAP_DIELOCAL = (if s.mapLock then s.rd mmemBase F.HBM_MAP_DIELOCAL else n.toNat) ∧
      (s.mapLock = true → t.on mmemBase F.HBM_MAPERR_LOCKED = true))

/-- R212, R219, R244, R246, R250, R251, R262, R391: a response slot sends the oldest read of a bobbin's stream on, counts a marker where its data is not
there, and discards what a held partition would receive; a page of an owner change is zeroed and takes its owner; a patrol moves on while IST_EN is set and
marks a line it finds lost; a refresh reports its interval; a retirement starts, copies line by line and switches. -/
def Obligations.MemoryUpkeep : Prop :=
  (∀ (k : Stack) (i j : Nat) (s : State) (c : PCore) (b : Bob) (r : MemResp) (q : BobReq) (a n off : Nat), s.memResps[k][j]? = some r →
    r.dst = .bobbin c.val b.val q.tag → r.status = 0 → ((s.bob c b).reqs.find? fun x => x.tag = q.tag) = some q → q.done = false →
    q.unread = [(.hbm a, n)] → q.into = 0 → n ≤ r.data.length → q.dst = .spad off → s.respDue k i = some j →
    s.rdBit (netBase 0) F.NET_PARTHOLD_HOLD (s.partOf c) = false →
    ∃ t, exec (.stackResponseSlot k i) s = .next t ∧ t.memResps[k] = s.memResps[k].eraseIdx j ∧ t.mem = s.mem ∧
      ∃ q' ∈ (t.bob c b).reqs, q'.tag = q.tag ∧ q'.data = some (q.got ++ r.data.take n) ∧ q'.sent = true) ∧
  (∀ (k : Stack) (i : Nat) (s : State), s.respDue k i = none →
    ∃ t, exec (.stackResponseSlot k i) s = .next t ∧ t.memResps = s.memResps ∧ t.core = s.core ∧
      t.rd (netBase ⟨k.val / 5, by omega⟩) F.NET_NRCNT_COUNT =
        (s.rd (netBase ⟨k.val / 5, by omega⟩) F.NET_NRCNT_COUNT + 1) % 2 ^ F.NET_NRCNT_COUNT.w) ∧
  (∀ (k : Stack) (i j : Nat) (s : State) (r : MemResp) (c : PCore) (b tag : Nat), s.memResps[k][j]? = some r → r.dst = .bobbin c.val b tag →
    s.respDue k i = some j → s.rdBit (netBase 0) F.NET_PARTHOLD_HOLD (s.partOf c) = true →
    ∃ t, exec (.stackResponseSlot k i) s = .next t ∧ t.memResps[k] = s.memResps[k].eraseIdx j ∧ t.core = s.core ∧ t.mem = s.mem) ∧
  (∀ (s : State) (o : OwnCmd), s.mem.ownCmd = some o → s.earlyHolds o o.next = false → s.ownerOf o.next = 0x11 →
    (s.snoopGate (o.next * pageSize) pageSize true).2 = true → s.closingOf o.next = [] → o.owner < 32 →
    ∃ t, exec .ownerPageComplete s = .next t ∧ t.ownerOf o.next = o.owner ∧ t.mirrorBit o.next = o.mirror ∧
      (∀ a, o.next * pageSize ≤ a → a < (o.next + 1) * pageSize → t.hbmBytes a 1 = [0]) ∧
      (s.rd mmemBase F.HBM_MAP_DIELOCAL < 64 → ∀ a, (a < o.next * pageSize ∨ (o.next + 1) * pageSize ≤ a) →
        t.hbmBytes a 1 = s.hbmBytes a 1)) ∧
  (∀ (k : Stack) (ecc : LineEcc) (s : State), s.on errBase F.ERR_CTRL_IST_EN = false → exec (.hbmPatrolRead k ecc) s = .next s) ∧
  (∀ (k : Stack) (ecc : LineEcc) (s : State), s.on errBase F.ERR_CTRL_IST_EN = true →
    ∃ t, exec (.hbmPatrolRead k ecc) s = .next t ∧ t.mem.bytes = s.mem.bytes ∧
    t.mem.perStack[k].patrol = (s.mem.perStack[k].patrol + 1) % 2 ^ 30 ∧ (ecc = .clean → t.mem.poison = s.mem.poison) ∧
    (ecc = .lost → SMap.get false t.mem.poison (k.val * 2 ^ 30 + s.mem.perStack[k].patrol) = true)) ∧
  (∀ (k : Stack) (temp : BitVec 8) (s : State), ∃ t, exec (.hbmRefresh k temp) s = .next t ∧ t.mem = s.mem ∧
    t.rd (hbmBase k) F.HBM_STATUS_TEMP = temp.toNat ∧ (t.on (hbmBase k) F.HBM_STATUS_REFRESH2X = true ↔ temp.toNat > 85)) ∧
  (∀ (k : Stack) (page : Fin 32768) (s : State), s.retireDue k page.val = true → s.mem.perStack[k].retire = none →
    s.rd (hbmBase k) F.HBM_RETIRE_COUNT < 512 + s.mem.perStack[k].freed →
    ∃ t, exec (.pageRetirementStart k page) s = .next t ∧ t.mem.perStack[k].retire = some (page.val, 0) ∧ t.mem.bytes = s.mem.bytes) ∧
  (∀ (k : Stack) (page n : Nat) (ecc : List LineEcc) (s : State), s.mem.perStack[k].retire = some (page, n) → n < 32767 →
    ∃ t, exec (.retirementLineCopy ⟨k, ecc⟩) s = .next t ∧ t.mem.perStack[k].retire = some (page, n + 1) ∧ t.mem.bytes = s.mem.bytes) ∧
  (∀ (k : Stack) (page : Nat) (ecc : List LineEcc) (s : State), s.mem.perStack[k].retire = some (page, 32767) →
    ∃ t, exec (.retirementLineCopy ⟨k, ecc⟩) s = .next t ∧ t.mem.perStack[k].retire = none ∧ t.mem.bytes = s.mem.bytes ∧
      t.rd (hbmBase k) F.HBM_RETIRE_COUNT = (s.rd (hbmBase k) F.HBM_RETIRE_COUNT + 1) % 2 ^ F.HBM_RETIRE_COUNT.w)

/-! ### The pricking network (R201 to R203, R210, R214 to R218) -/

/-- R217, R218: a commit that nothing forbids is queued and changes no table, one that something forbids is refused with its reason; at the period
boundary the bank switches on every die and the new one is copied into the other; the frame length changes likewise. -/
def Obligations.PrickingLoad : Prop :=
  (∀ (f : Func) (p : Part) (s : State), s.PF0Reaches f → s.firstBadEntry p.val = none → s.commitReason p = 0 →
    ∃ t, exec (.prickingCommit f p true) s = .next t ∧ t.net.commit = some p.val ∧ t.net.tables = s.net.tables ∧
      t.rd (netBase 0) F.NET_LOAD_STATUS = 1 ∧ t.rd (netBase 0) F.NET_LOAD_REASON = s.rd (netBase 0) F.NET_LOAD_REASON ∧
      t.netBank = s.netBank) ∧
  (∀ (f : Func) (p : Part) (s : State), s.PF0Reaches f → s.firstBadEntry p.val = none → s.commitReason p ≠ 0 →
    ∃ t, exec (.prickingCommit f p true) s = .next t ∧ t.net = s.net ∧ t.rd (netBase 0) F.NET_LOAD_STATUS = 3 ∧
      t.rd (netBase 0) F.NET_LOAD_REASON = s.commitReason p) ∧
  (∀ (f : Func) (p : Part) (s : State) (why d r l n : Nat), s.PF0Reaches f → s.firstBadEntry p.val = some (why, d, r, l, n) →
    (s.commitReason p = 0 ∨ why < s.commitReason p) → why < 16 → d < 4 →
    ∃ t, exec (.prickingCommit f p true) s = .next t ∧ t.net = s.net ∧ t.rd (netBase 0) F.NET_LOAD_STATUS = 3 ∧
      t.rd (netBase 0) F.NET_LOAD_REASON = why ∧ t.rd (netBase 0) F.NET_LOAD_FAIL_DIE = d) ∧
  (∀ (s : State) (p : Nat), s.net.commit = some p → s.periodStart = true → SMap.wf 0 s.net.tables = true →
    ∃ t, exec .prickingSwitch s = .next t ∧ t.net.commit = none ∧ (∀ d : Die, t.rd (netBase d) F.NET_ACTIVE_BANK = (1 - s.netBank) % 2) ∧
      ∀ k slot bank, slot < 256 → bank < 2 → SMap.get 0 t.net.tables (k * 512 + bank * 256 + slot) =
        SMap.get 0 s.net.tables (k * 512 + (1 - s.netBank) * 256 + slot)) ∧
  (∀ (f : Func) (len : BitVec 9) (s : State), s.PF0Reaches f → (∀ c, s.seqState c ≠ 1 ∧ s.seqState c ≠ 2) →
    2 ∣ len.toNat → 8 ≤ len.toNat → len.toNat ≤ 256 →
    ∃ t, exec (.netFrameWrite f len) s = .next t ∧ (∀ d : Die, t.rd (netBase d) F.NET_FRAME_LEN = len.toNat) ∧ t.frameLen = s.frameLen) ∧
  (∀ (f : Func) (len : BitVec 9) (s : State), s.PF0Reaches f → (len.toNat % 2 = 1 ∨ len.toNat < 8 ∨ 256 < len.toNat) →
    ∃ t, exec (.netFrameWrite f len) s = .next t ∧ t.net = s.net ∧ t.on (netBase 0) F.NET_ERR_WR_REJ = true ∧
      t.rd (netBase 0) F.NET_FRAME_LEN = s.rd (netBase 0) F.NET_FRAME_LEN) ∧
  (∀ (s : State), s.net.oldLen ≠ none → s.periodStart = true →
    ∃ t, exec .frameLengthChange s = .next t ∧ t.frameLen = s.rd (netBase 0) F.NET_FRAME_LEN ∧ t.net.frame = 0 ∧ t.net.tables = s.net.tables)

/-- R201, R202, R210, R214: a network cycle moves to the next slot of the frame, and every forward entry of the slot sends the flit, or the marker, that
stood on its input lane one cycle before to the next router; a suppressed frame passes with nothing sent; a flit that a bridge must send again leaves
a marker in its slot and arrives 48 cycles later. -/
def Obligations.NetworkCycle : Prop :=
  (∀ (par : List (Die × Fin 16 × Fin 64)) (s : State), s.netReady = true → s.frameLen ≤ 256 →
    ∃ t, exec (.networkSlot par) s = .next t ∧ t.net.cycle = s.net.cycle + 1 ∧
      t.netSlot = (if s.netSlot + 1 < s.frameLen then s.netSlot + 1 else 0) ∧ t.mem = s.mem) ∧
  (∀ (s : State) (d r lane n : Nat) (e : Entry) (x : FlitAt), s.netReady = true → (d, r, lane, e) ∈ s.slotEntries s.netSlot → e.kind = 1 →
    lane < 8 → e.inA < 32 → meshNext r lane = some n → 1 ≤ s.net.cycle → s.inputAt (s.net.cycle - 1) d r e.inA = some x → s.net.late = [] →
    ∃ t, exec (.networkSlot []) s = .next t ∧
      ⟨s.net.cycle + 1, d, n, meshFar lane, e.stream, e.part, x.flit, x.ops⟩ ∈ t.net.flits) ∧
  (∀ (s : State), s.netSlot = 0 → s.net.frame ≠ 0 → suppressed s.net.duty s.net.frame = true →
    ∃ t, exec .frameSuppress s = .next t ∧ t.net.frame = (s.net.frame + 1) % 16 ∧ t.net.flits = s.net.flits ∧ t.net.cycle = s.net.cycle ∧
      t.core = s.core ∧ t.ticks = s.ticks + s.frameLen / 2 * s.rd clkBase F.CLK_STATUS_CORE_DIV) ∧
  (∀ (i : Nat) (s : State) (x : FlitAt), s.net.flits[i]? = some x → isBridge x.die x.router x.lane = true → s.net.cycle < x.time →
    x.flit.valid = true →
    ∃ t, exec (.bridgeFlitResend i false) s = .next t ∧ t.net.flits = s.net.flits.set i { x with flit := Flit.marker, ops := [] } ∧
      t.net.late = lateInsert x.time { x with time := x.time + 48 } s.net.late)

/-! ### Bride ports, packets and cables (R286 to R313, R331, R433, R468) -/

/-- A flit that arrives with `even` and `odd` symbols of its codewords in error is taken: FEC restores it, or its CRC is right, and its KIND is not
the reserved one (R289, R290). -/
abbrev FlitGood (f : BFlit) (even odd : Fin 129) (crcOk : Bool) : Prop := (crcOk = true ∨ (even.val ≤ 1 ∧ odd.val ≤ 1)) ∧ f.kind ≠ 3

/-- The link-management flit of port `p` that names the run of `n` from `first` on and returns the credits that wait (R292, R297). -/
def mgmtFlit (s : State) (p : Port) (first n : Nat) : Out :=
  .flit p.val (flitWire ⟨2, 0, 0, s.ports[p].ack, false, mgmtPayload first n s.ports[p].back.toList s.modId p.val⟩)

/-- R289 to R292, R297: a flit that FEC does not restore and whose CRC fails, or of the reserved KIND, is discarded and counted; the flit expected next
advances the receiver; one that overtakes it is held; an ACK frees the history; a link-management flit tells the peer; a NAK run sends the history's
flits again; what is still missing of a run is named again, and a timer returns credits. -/
def Obligations.LinkFlits : Prop :=
  (∀ (p : Port) (f : BFlit) (even odd : Fin 129) (crcOk : Bool) (s : State), s.portUp p.val = true → ¬ FlitGood f even odd crcOk →
    ∃ t, exec (.brideFlitReceive p f (even, odd) crcOk) s = .next t ∧ t.ports[p].rxNext = s.ports[p].rxNext ∧
      t.ports[p].inq = s.ports[p].inq ∧ t.ports[p].history = s.ports[p].history ∧ t.out = s.out ∧
      t.rd (brdBase p) F.BRD_FEC_CRCFAIL = satAdd 32 (s.rd (brdBase p) F.BRD_FEC_CRCFAIL) 1) ∧
  (∀ (p : Port) (f : BFlit) (even odd : Fin 129) (crcOk : Bool) (s : State), s.portUp p.val = true → FlitGood f even odd crcOk →
    f.kind = 1 → f.seq = s.ports[p].rxNext → f.seq < 65536 → s.ports[p].hold = [] →
    ∃ t, exec (.brideFlitReceive p f (even, odd) crcOk) s = .next t ∧ t.ports[p].rxNext = (s.ports[p].rxNext + 1) % 65536 ∧
      t.rd (brdBase p) F.BRD_FEC_CORR =
        satAdd F.BRD_FEC_CORR.w (s.rd (brdBase p) F.BRD_FEC_CORR) (fecFixed even.val + fecFixed odd.val)) ∧
  (∀ (p : Port) (f : BFlit) (even odd : Fin 129) (crcOk : Bool) (s : State), s.portUp p.val = true → FlitGood f even odd crcOk →
    f.kind = 1 → 0 < seqDist s.ports[p].rxNext f.seq → seqDist s.ports[p].rxNext f.seq < 32768 → s.ports[p].hold.length < 4096 →
    s.ports[p].lacks f.seq = true →
    ∃ t, exec (.brideFlitReceive p f (even, odd) crcOk) s = .next t ∧ t.ports[p].rxNext = s.ports[p].rxNext ∧
      t.ports[p].hold = s.ports[p].hold ++ [f] ∧ t.ports[p].inq = s.ports[p].inq) ∧
  (∀ (p : Port) (f : BFlit) (even odd : Fin 129) (crcOk : Bool) (s : State), s.portUp p.val = true → FlitGood f even odd crcOk →
    f.kind = 0 → (∀ c : Fin 4, s.ports[p].txq[c] = []) → s.branches = [] →
    ∃ t, exec (.brideFlitReceive p f (even, odd) crcOk) s = .next t ∧
      t.ports[p].history = s.ports[p].history.filter fun g => !decide (seqDist g.seq f.ack < 32768)) ∧
  (∀ (p : Port) (f : BFlit) (even odd : Fin 129) (crcOk : Bool) (s : State), s.portUp p.val = true → FlitGood f even odd crcOk →
    f.kind = 2 →
    ∃ t, exec (.brideFlitReceive p f (even, odd) crcOk) s = .next t ∧ t.ports[p].rxNext = s.ports[p].rxNext ∧
      t.rd (brdBase p) F.BRD_STATUS_PEER = leNat ((f.payload.drop 12).take 2) % 2 ^ F.BRD_STATUS_PEER.w) ∧
  (∀ (p : Port) (first : BitVec 16) (n : Fin 17) (s : State), s.portUp p.val = true → 0 < n.val → s.txReady p 0 = false →
    ∃ t, exec (.nakReceive p first n) s = .next t ∧
      t.out.take (s.out.length + (s.ports[p].history.filter fun f => decide (seqDist first.toNat f.seq < n.val)).length) =
        s.out ++ (s.ports[p].history.filter fun f => decide (seqDist first.toNat f.seq < n.val)).map
          fun f => Out.flit p.val (flitWire { f with replay := true })) ∧
  (∀ (p : Port) (i : Nat) (k : Nat × Nat) (s : State), s.portUp p.val = true → s.ports[p].naks[i]? = some k → k.1 < 65536 → k.2 ≤ 16 →
    ∃ t, exec (.nakResendTimer p i) s = .next t ∧
      ((∀ j < k.2, s.ports[p].lacks ((k.1 + j) % 65536) = true) → 0 < k.2 →
        t.ports[p].naks = s.ports[p].naks.eraseIdx i ++ [k] ∧ t.out = s.out ++ [mgmtFlit s p k.1 k.2]) ∧
      ((∀ j < k.2, s.ports[p].lacks ((k.1 + j) % 65536) = false) → t.ports[p].naks = s.ports[p].naks.eraseIdx i ∧ t.out = s.out)) ∧
  (∀ (p : Port) (s : State), s.portUp p.val = true →
    ∃ t, exec (.linkMgmtFlitTimer p) s = .next t ∧ t.out = s.out ++ [mgmtFlit s p 0 0] ∧ t.ports[p].back = Vector.replicate 4 0 ∧
      t.ports[p].history = s.ports[p].history)

/-- R287, R288, R293, R294, R305, R309, R433: a lane over the limit leaves service; clearing ENABLE takes a port down and setting it begins to train
it; RETRAIN keeps an active port active; a window that passes activates the port; the module ID locks. -/
def Obligations.PortStates : Prop :=
  (∀ (p : Port) (errors : List Nat) (bits : Nat) (s : State), s.portUp p.val = true →
    ∃ t, exec (.laneBerWindow p errors bits) s = .next t ∧
      ∀ k < 8, (s.rd (brdBase p) F.BRD_STATUS_LANES).testBit k = true → berOver (errors.getD k bits) bits = true →
        t.ports[p].good.testBit k = false) ∧
  (∀ (f : Func) (p : Port) (s : State), s.PF0Reaches f → s.portUp p.val = true → s.on (brdBase p) F.BRD_CTRL_ENABLE = true →
    ∃ t, exec (.portEnableWrite f p false) s = .next t ∧ t.rd (brdBase p) F.BRD_STATUS_STATE = 0 ∧
      t.rd (brdBase p) F.BRD_CTRL_ENABLE = 0 ∧ t.ports[p].history = [] ∧ t.on (brdBase p) F.BRD_ERR_DOWN = true) ∧
  (∀ (f : Func) (p : Port) (s : State) (w g : Nat), s.PF0Reaches f → s.on (brdBase p) F.BRD_CTRL_ENABLE = false → s.linkPower p = true →
    s.on (cabBase (receptOf p)) F.CAB_STATUS_PRESENT = true → s.rd (cabBase (receptOf p)) F.CAB_STATUS_AUTH = 1 →
    s.widest p s.ports[p].good 4 = some (w, g) →
    ∃ t, exec (.portEnableWrite f p true) s = .next t ∧ t.rd (brdBase p) F.BRD_STATUS_STATE = 1 ∧ t.ports[p].tryW = w) ∧
  (∀ (f : Func) (p : Port) (s : State) (w g : Nat) (e : CableEnd), s.PF0Reaches f → s.portUp p.val = true →
    s.linkPower p = true → s.pins.pwrgd = true → s.cables[receptOf p] = some e → e.genuine = true → s.widest p (s.ports[p].good &&& s.ports[p].trial) 4 = some (w, g) →
    ∃ t, exec (.hostRetrain f p) s = .next t ∧ t.portUp p.val = true ∧ t.rd (brdBase p) F.BRD_STATUS_WIDTH = w ∧
      t.on (brdBase p) F.BRD_ERR_RETRAIN = true) ∧
  (∀ (p : Port) (m : LaneTest) (s : State) (w g : Nat), s.rd (brdBase p) F.BRD_STATUS_STATE = 1 →
    s.widest p s.ports[p].trial s.ports[p].tryW = some (w, g) → g &&& lanesPassed m = g → qPass m.fails m.flits = true →
    s.portsUp.length < s.portLimit →
    ∃ t, exec (.trainingWindowEnd p m true) s = .next t ∧ t.portUp p.val = true ∧ t.rd (brdBase p) F.BRD_STATUS_WIDTH = w ∧
      t.rd (brdBase p) F.BRD_STATUS_LANES = g ∧ t.ports[p].history = []) ∧
  (∀ (f : Func) (id : BitVec 16) (s : State), s.PF0Reaches f →
    ∃ t, exec (.brdModidLock f id) s = .next t ∧ t.on brdmBase F.BRD_MODID_LOCK = true ∧
      t.modId = (if s.on brdmBase F.BRD_MODID_LOCK then s.modId else id.toNat))

/-- The front packet of class `c` of port `p` is `k`, of type `typ`, for this module (R296, R302). -/
abbrev Arrives (s : State) (p : Port) (c : Fin 4) (typ : Nat) (k : Packet) : Prop :=
  s.inFront p c = some k ∧ k.typ = typ ∧ k.dst = s.modId

/-- R302, R303: a packet for another module is dropped at the hop limit or without a route, and else leaves by its route member with one hop less. -/
def Obligations.PacketsForward : Prop :=
  (∀ (p : Port) (c : Fin 4) (s : State) (k : Packet), s.inFront p c = some k → k.typ ≠ 4 → k.typ ≠ 0xC → k.dst ≠ s.modId → k.hops = 0 →
    ∃ t, exec (.packetForward p c) s = .next t ∧ t.ports[p].inq[c] = s.ports[p].inq[c].tail ∧
      t.rd brdmBase F.BRD_DROP_HOPS = satAdd 16 (s.rd brdmBase F.BRD_DROP_HOPS) 1) ∧
  (∀ (p : Port) (c : Fin 4) (s : State) (k : Packet), s.inFront p c = some k → k.typ ≠ 4 → k.typ ≠ 0xC → k.dst ≠ s.modId → k.hops ≠ 0 →
    k.dst < 0xFFFE → s.routeOf k.dst k.src k.sunit = none →
    ∃ t, exec (.packetForward p c) s = .next t ∧ t.ports[p].inq[c] = s.ports[p].inq[c].tail ∧
      t.rd brdmBase F.BRD_DROP_NOROUTE = satAdd 16 (s.rd brdmBase F.BRD_DROP_NOROUTE) 1) ∧
  (∀ (p q : Port) (c cl : Fin 4) (s : State) (k : Packet), s.inFront p c = some k → k.typ ≠ 4 → k.typ ≠ 0xC → k.dst ≠ s.modId → k.hops ≠ 0 →
    k.dst < 0xFFFE → s.routeOf k.dst k.src k.sunit = some q → classOfType k.typ = some cl → s.branches = [] →
    (∀ i : Fin 4, s.ports[q].credits[i] = 0) →
    ∃ t, exec (.packetForward p c) s = .next t ∧ t.ports[p].inq[c] = s.ports[p].inq[c].tail ∧
      t.ports[q].txq[cl] = s.ports[q].txq[cl] ++ Packet.chunks { k with hops := k.hops - 1 })

/-- R186 to R189, R226, R306, R331: what an arriving packet of each type does. A write, a read and an atomic are sent to the picot of their translated
address, and a packet of no job here is counted; a window write is accepted, or refused with its verdict; a response and a completion reach the request
of their tag; a credit request is granted or refused, and a grant raises its flag. -/
def Obligations.PacketsArrive : Prop :=
  (∀ (p : Port) (s : State) (k : Packet) (q : Part) (pa : Nat) (m : Stack), Arrives s p 3 0 k → s.jobPart k.job = some q →
    s.partInReset q.val = false → s.linkPlace q k.addr = .at (.hbm pa) → s.stackOf pa = some m →
    s.Accepts m ⟨.link k.src k.sunit k.tag k.job false, q.val, .write (k.data.take (k.len * 16)) k.poison, pa⟩ →
    ∃ t, exec (.writePacket p) s = .next t ∧ t.ports[p].inq[(3 : Fin 4)] = s.ports[p].inq[(3 : Fin 4)].tail ∧
      t.memReqs[m] = s.memReqs[m] ++
        [⟨.link k.src k.sunit k.tag k.job false, q.val, .write (k.data.take (k.len * 16)) k.poison, pa⟩] ∧ t.mem = s.mem) ∧
  (∀ (p : Port) (s : State) (k : Packet), Arrives s p 3 0 k → s.jobPart k.job = none →
    ∃ t, exec (.writePacket p) s = .next t ∧ t.memReqs = s.memReqs ∧ t.mem = s.mem ∧
      t.rd brdmBase F.BRD_DROP_NOJOB = satAdd 16 (s.rd brdmBase F.BRD_DROP_NOJOB) 1) ∧
  (∀ (p : Port) (s : State) (k : Packet) (q : Part) (pa : Nat) (m : Stack), Arrives s p 3 1 k → s.jobPart k.job = some q →
    s.partInReset q.val = false → s.linkPlace q k.addr = .at (.hbm pa) → s.stackOf pa = some m →
    s.Accepts m ⟨.link k.src k.sunit k.tag k.job true, q.val, .read (readLen k), pa⟩ →
    ∃ t, exec (.readRequestPacket p) s = .next t ∧
      t.memReqs[m] = s.memReqs[m] ++ [⟨.link k.src k.sunit k.tag k.job true, q.val, .read (readLen k), pa⟩] ∧ t.mem = s.mem) ∧
  (∀ (p : Port) (s : State) (k : Packet) (q : Part) (pa h : Nat) (m : Stack), Arrives s p 3 2 k → s.jobPart k.job = some q →
    s.partInReset q.val = false → s.linkPlace q k.addr = .at (.hbm pa) → s.stackOf pa = some m → h = leNat (k.data.take 16) → k.len ≤ 1 →
    s.Accepts m ⟨.link k.src k.sunit k.tag k.job false, q.val,
      .atomic (bits h 0 4) (bits h 4 4) [bits h 64 (8 * atomicWidth (bits h 0 4) (bits h 4 4))] k.poison, pa⟩ →
    ∃ t, exec (.atomicPacket p) s = .next t ∧ t.mem = s.mem ∧ t.memReqs[m] = s.memReqs[m] ++
      [⟨.link k.src k.sunit k.tag k.job false, q.val,
        .atomic (bits h 0 4) (bits h 4 4) [bits h 64 (8 * atomicWidth (bits h 0 4) (bits h 4 4))] k.poison, pa⟩]) ∧
  (∀ (p : Port) (seq : Nat) (s : State) (k : Packet) (q : Part) (c : PCore), Arrives s p 3 3 k → s.jobPart k.job = some q →
    s.physOf (bits k.addr 0 6) = some c → s.partOf c = q.val →
    WinAccepts s c (bits k.addr 6 4) (bits k.addr 10 16) (bits k.addr 26 18 * 64) k.src (k.sunit % 64) (seq * 4 + 3)
      (k.data.take (k.len * 16)) →
    ∃ t, exec (.windowWritePacket p seq) s = .next t ∧
      WinTaken s t c (bits k.addr 6 4) (bits k.addr 26 18 * 64) (k.data.take (k.len * 16))) ∧
  (∀ (p : Port) (seq : Nat) (s : State) (k : Packet) (q : Part) (c : PCore), Arrives s p 3 3 k → s.jobPart k.job = some q →
    s.physOf (bits k.addr 0 6) = some c → s.partOf c = q.val → s.inReset c = false → s.partInReset q.val = false →
    (∀ r ∈ (s.core c).refused, ¬ (r.1 = k.src * 64 + k.sunit % 64 ∧ r.2.1 = (seq * 4 + 3) * 16 + bits k.addr 6 4)) →
    (s.rd (spdBase c) F.SPD_WIN_B_GEN (bits k.addr 6 4) + 65536 - bits k.addr 10 16 % 65536) % 65536 = 1 →
    ∃ t, exec (.windowWritePacket p seq) s = .next t ∧ (∀ d, (t.core d).spad = (s.core d).spad) ∧
      t.rd (spdBase c) F.SPD_LASTREF_VERDICT = 1) ∧
  (∀ (p : Port) (s : State) (k : Packet) (c : PCore) (b : Bob) (q : BobReq) (m a n off : Nat), Arrives s p 1 5 k →
    s.tagOwner k = some (c, b) → ((s.bob c b).reqs.find? fun q => q.tag = k.tag) = some q → q.done = false →
    q.unread = [(.remote m a, n)] → q.into = 0 → n ≤ k.len * 16 → n ≤ k.data.length → q.dst = .spad off →
    ∃ t, exec (.readResponsePacket p) s = .next t ∧ t.mem = s.mem ∧
      ∃ q' ∈ (t.bob c b).reqs, q'.tag = k.tag ∧ q'.data = some (q.got ++ k.data.take n) ∧ q'.sent = true) ∧
  (∀ (p : Port) (s : State) (k : Packet) (c : PCore) (b : Bob) (q : BobReq), Arrives s p 1 6 k →
    s.tagOwner k = some (c, b) → ((s.bob c b).reqs.find? fun q => q.tag = k.tag) = some q → q.done = false →
    (k.addr % 256 = 0 → ∀ r ∈ (s.bob c b).reqs, r.tag = k.tag → r.data ≠ none) →
    ∃ t, exec (.completionPacket p) s = .next t ∧ t.mem = s.mem ∧
      ∃ q' ∈ (t.bob c b).reqs, q'.tag = k.tag ∧ q'.done = true ∧ (k.addr % 256 ≠ 0 → q'.status = k.addr % 256)) ∧
  (∀ (p : Port) (core : Fin 64) (w : Fin 16) (n : Nat) (fl : Fin 64) (inc : BitVec 16) (s : State) (k : Packet) (q : Part) (c : PCore),
    Arrives s p 0 9 k → s.jobPart k.job = some q → s.physOf core.val = some c → s.partOf c = q.val →
    CreditGoes s c ⟨w.val, n, k.src, k.sunit % 64, fl.val, inc.toNat⟩ →
    ∃ t, exec (.creditRequestPacket p core w n fl inc) s = .next t ∧
      CreditGiven s t c ⟨w.val, n, k.src, k.sunit % 64, fl.val, inc.toNat⟩) ∧
  (∀ (p : Port) (core : Fin 64) (w : Fin 16) (n : Nat) (fl : Fin 64) (inc : BitVec 16) (s : State) (k : Packet) (q : Part) (c : PCore),
    Arrives s p 0 9 k → s.jobPart k.job = some q → s.physOf core.val = some c → s.partOf c = q.val → s.winOpen c w.val = false →
    ∃ t, exec (.creditRequestPacket p core w n fl inc) s = .next t ∧ t.core = s.core ∧
      t.rd (spdBase c) F.SPD_CREDIT_REFUSED = satAdd F.SPD_CREDIT_REFUSED.w (s.rd (spdBase c) F.SPD_CREDIT_REFUSED) 1) ∧
  (∀ (p : Port) (fl : Fin 64) (inc : BitVec 16) (s : State) (k : Packet) (q : Part) (c : PCore), Arrives s p 0 0xA k → s.jobPart k.job = some q →
    k.sunit = c.val → s.partOf c = q.val → s.TakesFlags c → s.FlagFits c fl.val inc.toNat →
    ∃ t, exec (.creditGrantPacket p fl inc) s = .next t ∧ t.flag c fl.val = satAdd 16 (s.flag c fl.val) inc.toNat)

/-- R309 to R311, R468: an end that is plugged in is authenticated and its mating counted; taken out, its ports go down and nothing of it remains;
when 3,600 s of use have passed its hours rise. -/
def Obligations.Cables : Prop :=
  (∀ (n : Recept) (e : CableEnd) (s : State), s.cables[n] = none → s.pins.pwrgd = true → s.inService = true →
    (portsOf n).any (fun p => s.linkPower p) = true → e.genuine = true → e.refuses = false →
    ∃ t, exec (.cableInsertion n e) s = .next t ∧ t.cables[n] = some { e with matings := e.matings + 1 } ∧
      t.on (cabBase n) F.CAB_STATUS_PRESENT = true ∧ t.rd (cabBase n) F.CAB_STATUS_AUTH = 1 ∧
      t.rd (cabBase n) F.CAB_MATINGS_COUNT = (e.matings + 1) % 65536) ∧
  (∀ (n : Recept) (e : CableEnd) (s : State), s.cables[n] = some e →
    ∃ t, exec (.cableRemoval n) s = .next t ∧ t.cables[n] = none ∧ t.rd (cabBase n) F.CAB_STATUS_AUTH = 0 ∧
      t.on (cabBase n) F.CAB_STATUS_PRESENT = false ∧ t.rd (cabBase n) F.CAB_UPSEC_SECONDS = 0 ∧
      ∀ p ∈ portsOf n, t.rd (brdBase p) F.BRD_STATUS_STATE = 0) ∧
  (∀ (n : Recept) (e : CableEnd) (s : State), s.cables[n] = some e → e.refuses = false → s.rd (cabBase n) F.CAB_STATUS_AUTH = 1 →
    0 < s.receps[n].due →
    ∃ t, exec (.cableHour n) s = .next t ∧ t.cables[n] = some { e with hours := e.hours + 1 } ∧
      t.receps[n].due = s.receps[n].due - 1 ∧ t.rd (cabBase n) F.CAB_UPSEC_SECONDS = s.rd (cabBase n) F.CAB_UPSEC_SECONDS)

/-! ### Multicast and barriers (R317 to R330) -/

/-- R303, R318 to R320, R322 to R325: a packet of a group without a route is dropped; one that every branch can take leaves its port, each port branch that
cannot send it now keeps a copy with one hop less, and the local branch delivers its lines or keeps the packet; one that a branch cannot take stays, and
that branch is full; a source's lines go out under the next SEQ, with the window offset of the first; a source entry restarts its SEQ; a branch that stays
full is expelled, and the notice of the local branch waits there; a notice that arrives waits at the local branch and at each port branch, and is applied
when it is due; the host clears the bits it writes. -/
def Obligations.Multicast : Prop :=
  (∀ (p : Port) (s : State) (k : Packet), s.inFront p 3 = some k → k.typ = 4 → (s.mcEntry (k.dst % 256)).testBit 25 = false →
    ∃ t, exec (.multicastPacket p) s = .next t ∧ t.ports[p].inq[(3 : Fin 4)] = s.ports[p].inq[(3 : Fin 4)].tail ∧ t.core = s.core ∧
      t.rd brdmBase F.BRD_DROP_NOROUTE = satAdd 16 (s.rd brdmBase F.BRD_DROP_NOROUTE) 1) ∧
  (∀ (p : Port) (s : State) (k : Packet) (g : Nat), s.inFront p 3 = some k → k.typ = 4 → g = k.dst % 256 → (s.mcEntry g).testBit 25 = true →
    s.mcAll g k (s.mcBranches g k p.val) = true →
    ∃ t, exec (.multicastPacket p) s = .next t ∧ t.ports[p].inq[(3 : Fin 4)] = s.ports[p].inq[(3 : Fin 4)].tail ∧
      SMap.get 0 t.mcSeen g = (k.addr + 1) % 2 ^ 24 ∧
      ((∀ b ∈ s.branches, b.notices = []) → ∀ q : Port, q.val ∈ s.mcBranches g k p.val → s.portUp q.val = true →
        s.ports[q].credits[(3 : Fin 4)] = 0 →
        (t.branchOf g q.val).queue = (s.branchOf g q.val).queue ++ [{ k with hops := k.hops - 1 }]) ∧
      (24 ∈ s.mcBranches g k p.val → s.mcNow g 24 = false → (t.branchOf g 24).queue = (s.branchOf g 24).queue ++ [k])) ∧
  (∀ (p : Port) (s : State) (k : Packet) (g w off : Nat) (q : Part) (c : PCore), s.inFront p 3 = some k → k.typ = 4 → g = k.dst % 256 →
    (s.mcEntry g).testBit 25 = true → s.mcBranches g k p.val = [24] → s.mcNow g 24 = true → s.rd mcastBase F.BRD_MCBUF_INUSE ≤ 64 → w = s.rd mcastBase F.BRD_MCDELIV_WINDOW g → w < 16 →
    off = bits k.addr 24 18 * 64 → s.jobPart k.job = some q → s.physOf (s.rd mcastBase F.BRD_MCDELIV_CORE g) = some c → s.partOf c = q.val →
    s.partInReset q.val = false → s.inReset c = false → s.winOpen c w = true → (k.src ≠ s.modId → s.on (spdBase c) F.SPD_WIN_A_EXT w = true) →
    4 ∣ k.len → k.data.length = k.len * 16 → off + k.data.length ≤ s.rd (spdBase c) F.SPD_WIN_A_LEN w →
    (s.core c).landing.length + k.data.length / 64 ≤ 64 → s.rd (spdBase c) F.SPD_WIN_A_COUNTER w < 32 →
    (s.arrive c (s.rd (spdBase c) F.SPD_WIN_A_COUNTER w) + k.data.length / 64 < 2 ^ 32 ∨ s.on (coreBase c) F.SEQ_CTRL_STRICT = false) →
    ∃ t, exec (.multicastPacket p) s = .next t ∧ WinTaken s t c w off k.data) ∧
  (∀ (p : Port) (s : State) (k : Packet) (g : Nat), s.inFront p 3 = some k → k.typ = 4 → g = k.dst % 256 → (s.mcEntry g).testBit 25 = true →
    ((s.mcBranches g k p.val).all fun b => s.mcTakes g k b) = false →
    ∃ t, exec (.multicastPacket p) s = .next t ∧ t.ports = s.ports ∧ t.core = s.core ∧
      ∀ b ∈ s.mcBranches g k p.val, s.mcTakes g k b = false → (s.branchOf g b).queue ≠ [] → (s.branchOf g b).full = none →
        (t.branchOf g b).full = some s.us) ∧
  (∀ (x : Sys2Proof.Complex) (s : State) (i g : Nat) (fs : List DstFlit), s.txFlits x = some (i, fs) → s.on brdmBase F.BRD_MODID_LOCK = true →
    g = s.rd mcastBase F.BRD_TXMAP_GROUP i → g < 256 → (s.mcEntry g).testBit 25 = true → (s.mcEntry g).testBit 24 = false →
    (∀ c, (s.core c).netOps = []) → s.rd mcastBase F.BRD_TXMAP_LINES i = 0 → SMap.get 0 s.mcLines i % 2 ^ 18 ≤ 2 ^ 18 - 8 →
    (∀ d ∈ fs, d.flit.data.length = 128) → fs.length ≤ 4 → (∀ b ∈ s.branches, b.notices = []) →
    (∀ q ∈ s.mcRepl g 24, s.expelled g q.val = false ∧ s.portUp q.val = true ∧ s.ports[q].credits[(3 : Fin 4)] = 0 ∧
      (s.branchOf g q.val).queue = []) →
    s.rd mcastBase F.BRD_MCBUF_INUSE + (s.mcRepl g 24).length ≤ 64 →
    ∃ t, exec (.multicastPacketForm x) s = .next t ∧
      t.rd mcastBase F.BRD_MCCNT_NEXT_SEQ g = (s.rd mcastBase F.BRD_MCCNT_NEXT_SEQ g + 1) % 2 ^ 24 ∧
      t.net.dst = fs.foldl (fun l d => l.erase d) s.net.dst ∧
      ∀ q ∈ s.mcRepl g 24, ∃ k, (t.branchOf g q.val).queue = [k] ∧ k.typ = 4 ∧ k.dst = g ∧ k.src = s.modId ∧
        k.data = fs.flatMap (fun d => d.flit.data) ∧ k.addr = s.rd mcastBase F.BRD_MCCNT_NEXT_SEQ g +
          (s.rd mcastBase F.BRD_TXMAP_BASE i + SMap.get 0 s.mcLines i % 2 ^ 18) % 2 ^ 18 * 2 ^ 24) ∧
  (∀ (f : Func) (x : Sys2Proof.Complex) (k : Fin 64) (v : BitVec 64) (s : State), s.PF0Reaches f →
    ∃ t, exec (.brdTxmapWrite f x k v) s = .next t ∧ t.rd mcastBase F.BRD_TXMAP_GROUP (x.val * 64 + k.val) = bits v.toNat 12 8 ∧
      t.rd mcastBase F.BRD_MCCNT_NEXT_SEQ (bits v.toNat 12 8) = 0 ∧ SMap.get 0 t.mcLines (x.val * 64 + k.val) = 0) ∧
  (∀ (g : BitVec 8) (b : Fin 25) (s : State) (t0 : Nat) (k : Packet) (l : List Packet), (s.branchOf g.toNat b.val).full = some t0 →
    (s.branchOf g.toNat b.val).queue = k :: l → s.on mcastBase F.BRD_MCCFG_EXPEL g.toNat = true →
    t0 + limitOr 1000 (s.rd mcastBase F.BRD_MCCFG_LIMIT g.toNat) ≤ s.us →
    ∃ t, exec (.multicastExpel g b) s = .next t ∧ t.rdBit mcastBase F.BRD_MCSTAT_EXPELLED b.val g.toNat = true ∧
      t.rd mcastBase F.BRD_MCSTAT_MISSED_SEQ g.toNat = k.addr % 2 ^ 24 ∧ (t.branchOf g.toNat b.val).queue = [] ∧
      (b.val = 24 → (t.branchOf g.toNat 24).notices =
        (s.branchOf g.toNat 24).notices ++ [(s.noticePacket g.toNat (k.addr % 2 ^ 24), 24)])) ∧
  (∀ (p : Port) (s : State) (k : Packet) (g : Nat), s.inFront p 0 = some k → k.typ = 0xC → g = k.dst % 256 →
    (s.mcEntry g).testBit 25 = true →
    ∃ t, exec (.detachedNotice p) s = .next t ∧ t.ports[p].inq[(0 : Fin 4)] = s.ports[p].inq[(0 : Fin 4)].tail ∧
      ∀ n, n = { k with hops := k.hops - 1 } →
        ((s.mcEntry g).testBit 24 = true → (t.branchOf g 24).notices = (s.branchOf g 24).notices ++ [(n, p.val)]) ∧
        (k.hops ≠ 0 → s.noticeDue g (n, p.val) = false → ∀ q ∈ s.mcRepl g p.val, s.portUp q.val = true →
          (s.branchOf g q.val).notices = [] → (t.branchOf g q.val).notices = [(n, p.val)])) ∧
  (∀ (g : BitVec 8) (s : State) (n : Packet × Nat) (c : PCore) (fl : Nat), s.readyNotice (s.branchOf g.toNat 24) true = some n →
    s.physOf (s.rd mcastBase F.BRD_MCDELIV_CORE g.toNat) = some c → fl = s.rd mcastBase F.BRD_MCDELIV_NOTE_FLAG g.toNat → fl < 64 →
    s.TakesFlags c → s.FlagFits c fl 1 →
    ∃ t, exec (.detachedApply g) s = .next t ∧ t.rd mcastBase F.BRD_MCSTAT_DETACHED g.toNat = 1 ∧
      t.rd mcastBase F.BRD_MCSTAT_MISSED_SEQ g.toNat = n.1.addr % 2 ^ 24 ∧
      (t.branchOf g.toNat 24).notices = (s.branchOf g.toNat 24).notices.erase n ∧ t.flag c fl = satAdd 16 (s.flag c fl) 1) ∧
  (∀ (f : Func) (g : BitVec 8) (v : BitVec 64) (s : State), s.PF0Reaches f →
    ∃ t, exec (.expelledClear f g v) s = .next t ∧
      (t.on mcastBase F.BRD_MCSTAT_DETACHED g.toNat = true → v.toNat.testBit 25 = false) ∧
      ∀ p < 25, t.rdBit mcastBase F.BRD_MCSTAT_EXPELLED p g.toNat =
        (s.rdBit mcastBase F.BRD_MCSTAT_EXPELLED p g.toNat && !v.toNat.testBit p))

/-- R327 to R330: configuring an idle context, or refusing to; a core's arrival that does not complete its context is counted; one that completes a root
releases it, raises the flag of every core that arrived and begins the next epoch; one that completes another context sends its arrival on and waits; an
arrival that the context does not take is counted at the core; a child's arrival counts, one of another epoch does not; a release of PARENT releases. -/
def Obligations.Barriers : Prop :=
  (∀ (f : Func) (b : Fin 32) (v : BitVec 64) (s : State), s.PF0Reaches f → s.rd mcastBase F.BRD_BARSTAT_ARRIVED b.val = 0 →
    s.rd mcastBase F.BRD_BARSTAT_CHILD_IN b.val = 0 → bits v.toNat 6 7 ≤ 60 → bits v.toNat 13 4 ≤ 8 →
    ∃ t, exec (.barrierConfigWrite f b v) s = .next t ∧ t.rd mcastBase F.BRD_BARCFG_VALID b.val = bits v.toNat 0 1 ∧
      t.rd mcastBase F.BRD_BARCFG_ROOT b.val = bits v.toNat 1 1 ∧ t.rd mcastBase F.BRD_BARCFG_PART b.val = bits v.toNat 2 4 ∧
      t.rd mcastBase F.BRD_BARCFG_LOCAL b.val = bits v.toNat 6 7 ∧ t.rd mcastBase F.BRD_BARCFG_CHILDREN b.val = bits v.toNat 13 4 ∧
      t.rd mcastBase F.BRD_BARCFG_FLAG b.val = bits v.toNat 17 6 ∧ t.rd mcastBase F.BRD_BARCFG_PARENT b.val = bits v.toNat 32 16 ∧
      t.rd mcastBase F.BRD_BARSTAT_EPOCH b.val = 0 ∧ t.bars[b] = ⟨[], []⟩) ∧
  (∀ (f : Func) (b : Fin 32) (v : BitVec 64) (s : State), s.PF0Reaches f →
    (s.rd mcastBase F.BRD_BARSTAT_ARRIVED b.val ≠ 0 ∨ s.rd mcastBase F.BRD_BARSTAT_CHILD_IN b.val ≠ 0 ∨ 60 < bits v.toNat 6 7 ∨
      8 < bits v.toNat 13 4) →
    ∃ t, exec (.barrierConfigWrite f b v) s = .next t ∧ t.on mcastBase F.BRD_BARSTAT_CFG_REJ b.val = true ∧ t.bars = s.bars ∧
      t.rd mcastBase F.BRD_BARCFG_LOCAL b.val = s.rd mcastBase F.BRD_BARCFG_LOCAL b.val) ∧
  (∀ (f : Func) (c : PCore) (b : Fin 32) (s : State), s.Reaches f c → s.on mcastBase F.BRD_BARCFG_VALID b.val = true →
    s.barPart b = s.partOf c → s.bars[b].cores.contains c = false → s.rd mcastBase F.BRD_BARCFG_LOCAL b.val ≤ 60 →
    s.rd mcastBase F.BRD_BARSTAT_ARRIVED b.val + 1 < s.rd mcastBase F.BRD_BARCFG_LOCAL b.val →
    ∃ t, exec (.barrierArrive f c b) s = .next t ∧
      t.rd mcastBase F.BRD_BARSTAT_ARRIVED b.val = s.rd mcastBase F.BRD_BARSTAT_ARRIVED b.val + 1 ∧ t.bars[b].cores = s.bars[b].cores ++ [c] ∧
      t.core = s.core) ∧
  (∀ (f : Func) (c : PCore) (b : Fin 32) (s : State) (fl : Nat), s.Reaches f c → s.on mcastBase F.BRD_BARCFG_VALID b.val = true →
    s.on mcastBase F.BRD_BARCFG_ROOT b.val = true → s.on mcastBase F.BRD_BARSTAT_WAITING b.val = false → s.barPart b = s.partOf c →
    s.bars[b].cores.contains c = false → s.bars[b].cores.Nodup → s.rd mcastBase F.BRD_BARCFG_LOCAL b.val ≤ 60 →
    s.rd mcastBase F.BRD_BARSTAT_ARRIVED b.val + 1 = s.rd mcastBase F.BRD_BARCFG_LOCAL b.val →
    s.rd mcastBase F.BRD_BARCFG_CHILDREN b.val ≤ s.rd mcastBase F.BRD_BARSTAT_CHILD_IN b.val →
    fl = s.rd mcastBase F.BRD_BARCFG_FLAG b.val → fl < 64 → (∀ d ∈ s.bars[b].cores ++ [c], s.TakesFlags d ∧ s.FlagFits d fl 1) →
    ∃ t, exec (.barrierArrive f c b) s = .next t ∧ t.rd mcastBase F.BRD_BARSTAT_ARRIVED b.val = 0 ∧ t.bars[b] = ⟨[], []⟩ ∧
      t.rd mcastBase F.BRD_BARSTAT_CHILD_IN b.val = 0 ∧
      t.rd mcastBase F.BRD_BARSTAT_EPOCH b.val = (s.rd mcastBase F.BRD_BARSTAT_EPOCH b.val + 1) % 65536 ∧
      ∀ d ∈ s.bars[b].cores ++ [c], t.flag d fl = satAdd 16 (s.flag d fl) 1) ∧
  (∀ (f : Func) (c : PCore) (b : Fin 32) (s : State), s.Reaches f c → s.on mcastBase F.BRD_BARCFG_VALID b.val = true →
    s.on mcastBase F.BRD_BARCFG_ROOT b.val = false → s.barPart b = s.partOf c →
    s.bars[b].cores.contains c = false → s.rd mcastBase F.BRD_BARCFG_LOCAL b.val ≤ 60 →
    s.rd mcastBase F.BRD_BARSTAT_ARRIVED b.val + 1 = s.rd mcastBase F.BRD_BARCFG_LOCAL b.val →
    s.rd mcastBase F.BRD_BARCFG_CHILDREN b.val ≤ s.rd mcastBase F.BRD_BARSTAT_CHILD_IN b.val →
    ∃ t, exec (.barrierArrive f c b) s = .next t ∧ t.on mcastBase F.BRD_BARSTAT_WAITING b.val = true ∧
      t.bars[b].cores = s.bars[b].cores ++ [c] ∧ t.core = s.core ∧
      t.rd mcastBase F.BRD_BARSTAT_EPOCH b.val = s.rd mcastBase F.BRD_BARSTAT_EPOCH b.val) ∧
  (∀ (f : Func) (c : PCore) (b : Fin 32) (s : State), s.Reaches f c →
    (s.on mcastBase F.BRD_BARCFG_VALID b.val = false ∨ s.barPart b ≠ s.partOf c ∨ s.bars[b].cores.contains c = true) →
    ∃ t, exec (.barrierArrive f c b) s = .next t ∧ t.bars = s.bars ∧ t.core = s.core ∧
      t.rd (coreBase c) F.BRD_BARREJ_COUNT = satAdd F.BRD_BARREJ_COUNT.w (s.rd (coreBase c) F.BRD_BARREJ_COUNT) 1) ∧
  (∀ (p : Port) (s : State) (k : Packet) (q : Part) (b : Fin 32), Arrives s p 0 0xB k → bits k.addr 5 1 = 0 → b.val = k.addr % 32 →
    s.jobPart k.job = some q → s.partInReset q.val = false → s.on mcastBase F.BRD_BARCFG_VALID b.val = true → s.barPart b = q.val →
    (bits k.addr 6 16 = s.rd mcastBase F.BRD_BARSTAT_EPOCH b.val → s.bars[b].kids.length < s.rd mcastBase F.BRD_BARCFG_CHILDREN b.val →
      s.bars[b].kids.contains k.src = false → s.rd mcastBase F.BRD_BARCFG_CHILDREN b.val ≤ 8 →
      s.rd mcastBase F.BRD_BARSTAT_CHILD_IN b.val + 1 < s.rd mcastBase F.BRD_BARCFG_CHILDREN b.val →
      ∃ t, exec (.barrierArrivePacket p) s = .next t ∧ t.bars[b].kids = s.bars[b].kids ++ [k.src] ∧
        t.rd mcastBase F.BRD_BARSTAT_CHILD_IN b.val = s.rd mcastBase F.BRD_BARSTAT_CHILD_IN b.val + 1) ∧
    (bits k.addr 6 16 ≠ s.rd mcastBase F.BRD_BARSTAT_EPOCH b.val →
      ∃ t, exec (.barrierArrivePacket p) s = .next t ∧ t.bars = s.bars ∧ t.on mcastBase F.BRD_BARSTAT_ERR_EPOCH b.val = true)) ∧
  (∀ (p : Port) (s : State) (k : Packet) (q : Part) (b : Fin 32) (fl : Nat), Arrives s p 0 0xB k → bits k.addr 5 1 = 1 → b.val = k.addr % 32 →
    s.jobPart k.job = some q → s.partInReset q.val = false → s.on mcastBase F.BRD_BARCFG_VALID b.val = true → s.barPart b = q.val →
    bits k.addr 6 16 = s.rd mcastBase F.BRD_BARSTAT_EPOCH b.val → s.on mcastBase F.BRD_BARCFG_ROOT b.val = false →
    k.src = s.rd mcastBase F.BRD_BARCFG_PARENT b.val → fl = s.rd mcastBase F.BRD_BARCFG_FLAG b.val → fl < 64 →
    s.bars[b].cores.Nodup → (∀ d ∈ s.bars[b].cores, s.TakesFlags d ∧ s.FlagFits d fl 1) →
    ∃ t, exec (.barrierReleasePacket p) s = .next t ∧ t.bars[b] = ⟨[], []⟩ ∧ t.on mcastBase F.BRD_BARSTAT_WAITING b.val = false ∧
      t.rd mcastBase F.BRD_BARSTAT_EPOCH b.val = (s.rd mcastBase F.BRD_BARSTAT_EPOCH b.val + 1) % 65536 ∧
      ∀ d ∈ s.bars[b].cores, t.flag d fl = satAdd 16 (s.flag d fl) 1)

/-! ### The host port (R343 to R358) -/

/-- R344 to R349: a host read or write of a mapped line goes to its picot; beyond the mapped lines a read returns marked data and a write is discarded;
snoops are answered or time out; the device cache answers; a decoder commits only with BI Enable. -/
def Obligations.CxlMemory : Prop :=
  (∀ (tag line : Nat) (g : Bool) (s : State) (k : Stack), s.cxlMemUp = true → s.stackOf (line * 64) = some k →
    s.Accepts k ⟨.host tag line g, 0x10, .read 64, line * 64⟩ →
    ∃ t, exec (.cxlMemRead tag line g) s = .next t ∧ t.mem = s.mem ∧
      t.memReqs[k] = s.memReqs[k] ++ [⟨.host tag line g, 0x10, .read 64, line * 64⟩]) ∧
  (∀ (tag line : Nat) (g : Bool) (s : State), s.cxlMemUp = true → s.stackOf (line * 64) = none →
    ∃ t bs, exec (.cxlMemRead tag line g) s = .next t ∧ t.mem = s.mem ∧ t.out = s.out ++ [.memData tag bs true true]) ∧
  (∀ (tag a : Nat) (bs : List Byte) (ps : Bool) (s : State) (k : Stack), s.cxlMemUp = true → bs ≠ [] → a % 64 + bs.length ≤ 64 →
    s.stackOf a = some k → s.Accepts k ⟨.host tag (a / 64) false, 0x10, .write bs ps, a⟩ →
    ∃ t, exec (.cxlMemWrite tag a bs ps) s = .next t ∧ t.mem = s.mem ∧
      t.memReqs[k] = s.memReqs[k] ++ [⟨.host tag (a / 64) false, 0x10, .write bs ps, a⟩]) ∧
  (∀ (tag a : Nat) (bs : List Byte) (ps : Bool) (s : State), s.cxlMemUp = true → s.stackOf a = none →
    ∃ t, exec (.cxlMemWrite tag a bs ps) s = .next t ∧ t.mem = s.mem ∧ t.memReqs = s.memReqs ∧
      (bs ≠ [] → a % 64 + bs.length ≤ 64 → t.out = s.out ++ [.memData tag [] false true])) ∧
  (∀ (line : Nat) (s : State) (e : Snoop), s.cmOpen = true → (s.mem.snooped.find? fun e => e.line = line && !e.answered) = some e → e.inv = true →
    ∃ t, exec (.biSnoopResponse line none) s = .next t ∧ t.tracked line = false ∧ t.mem.bytes = s.mem.bytes ∧
      ∀ x ∈ t.mem.snooped, x.line ≠ line) ∧
  (∀ (line : Nat) (s : State) (e : Snoop) (bs : List Byte), s.cmOpen = true →
    (s.mem.snooped.find? fun e => e.line = line && !e.answered) = some e → bs.length = 64 → s.NoCapture → s.Mapped (line * 64) 64 →
    ∃ t, exec (.biSnoopResponse line (some bs)) s = .next t ∧ t.hbmBytes (line * 64) 64 = bs) ∧
  (∀ (line : Nat) (s : State) (e : Snoop), (s.mem.snooped.find? fun e => e.line = line && !e.answered) = some e →
    e.since + limitOr 1000 (s.rd cxlBase F.CXL_BILIMIT_LIMIT) ≤ s.us → s.Mapped (line * 64) 64 →
    ∃ t, exec (.biSnoopTimeout line) s = .next t ∧ t.hbmPoisoned (line * 64) 64 = true ∧ t.tracked line = false ∧
      t.on cxlBase F.CXL_ERR_BI_TIMEOUT = true ∧ t.mem.bytes = s.mem.bytes) ∧
  (∀ (line : Nat) (inv : Bool) (s : State), s.cmOpen = true → ∃ t, exec (.hostSnoop line inv) s = .next t ∧ t.mem = s.mem ∧
    t.out = s.out ++ [.snoopAnswer line (s.hcache.any fun e => e.1 = line)] ∧ (inv = true → ∀ e ∈ t.hcache, e.1 ≠ line)) ∧
  (∀ (d : Fin 2) (s : State), s.hostReady = true →
    ∃ t, exec (.hdmDecoderCommit d) s = .next t ∧ t.hdm[d].committed = s.on cxlBase F.CXL_LINK_BI_EN)

/-- R351 to R354, R358, R361: a doorbell adds to a flag of a core of the partition, or starts every core that is ready; a doorbell whose target is outside
is refused; a completion queue is configured, or a value out of range discarded; its head moves, and what was held is written; a post writes its record;
an integrity failure makes a secure stream insecure. -/
def Obligations.DoorbellsAndQueues : Prop :=
  (∀ (f : Func) (p : Part) (v : BitVec 64) (s : State) (c : PCore), s.hostReady = true → s.doorOk f p = true → s.exist p.val = true →
    s.partInReset p.val = false → s.physOf (bits v.toNat 0 6) = some c → s.partOf c = p.val → bits v.toNat 12 16 ≠ 0 →
    v.toNat.testBit 28 = false → s.TakesFlags c → s.FlagFits c (bits v.toNat 6 6) (bits v.toNat 12 16) →
    ∃ t, exec (.doorbellCount f p v) s = .next t ∧ t.flag c (bits v.toNat 6 6) = satAdd 16 (s.flag c (bits v.toNat 6 6)) (bits v.toNat 12 16) ∧
      t.core = s.core) ∧
  (∀ (f : Func) (p : Part) (v : BitVec 64) (s : State), s.hostReady = true → s.doorOk f p = true → s.exist p.val = true →
    s.partInReset p.val = false → bits v.toNat 12 16 = 0 → v.toNat.testBit 28 = true → s.testsPending p.val = false →
    ∃ t, exec (.doorbellGo f p v) s = .next t ∧ ∀ c, s.enabled c = true → s.partOf c = p.val → (s.seqState c = 0 ∨ s.seqState c = 3) →
      s.inReset c = false → (s.core c).fillEnd = none → t.seqState c = 1 ∧ t.pc c = s.rd (coreBase c) F.SEQ_START_PC % 8192) ∧
  (∀ (f : Func) (p : Part) (v : BitVec 64) (s : State), s.hostReady = true → bits v.toNat 12 16 ≠ 0 →
    (s.doorOk f p = false ∨ s.exist p.val = false ∨ s.partInReset p.val = true ∨ ∀ c, s.physOf (bits v.toNat 0 6) = some c → s.partOf c ≠ p.val) →
    ∃ t, exec (.doorbellCount f p v) s = .next t ∧ t.core = s.core ∧ t.rd cxlBase F.CXL_AUTHREJ_KIND = 5 ∧
      (f.val = 0 → t.rd cxlBase F.CXL_AUTHREJ_PART = p.val) ∧
      (∀ c, ∀ n < 64, t.flag c n = s.flag c n)) ∧
  (∀ (f : Func) (p : Part) (v : BitVec 32) (s : State), s.hostReady = true → s.doorOk f p = true → 4 ≤ bits v.toNat 2 4 →
    bits v.toNat 6 7 ≤ 119 → v.toNat.testBit 0 = true → s.cqs[p].held = [] → s.cqs[p].lost = 0 →
    ∃ t, exec (.cqCfgWrite f p v) s = .next t ∧ t.on (dbBase p) F.CXL_CQCFG_EN = true ∧ t.rd (dbBase p) F.CXL_CQHEAD_HEAD = 0 ∧
      t.rd (dbBase p) F.CXL_CQTAIL_TAIL = 0 ∧ t.cqs[p].seqno = 0 ∧ t.cqs[p].phase = true ∧ t.rd (dbBase p) F.CXL_CQCFG_SIZE = bits v.toNat 2 4) ∧
  (∀ (f : Func) (p : Part) (v : BitVec 32) (s : State), s.hostReady = true → s.doorOk f p = true →
    (bits v.toNat 2 4 < 4 ∨ 119 < bits v.toNat 6 7) → exec (.cqCfgWrite f p v) s = .next s) ∧
  (∀ (f : Func) (p : Part) (v : BitVec 32) (s : State), s.hostReady = true → s.doorOk f p = true → s.cqs[p].held = [] → s.cqs[p].lost = 0 →
    ∃ t, exec (.cqHeadWrite f p v) s = .next t ∧ t.rd (dbBase p) F.CXL_CQHEAD_HEAD = bits v.toNat 0 15 ∧ t.cqs = s.cqs ∧ t.out = s.out) ∧
  (∀ (f : Func) (p : Part) (v : BitVec 32) (s : State) (r : CqRec) (l : List CqRec) (host : Bool) (pa : Nat), s.hostReady = true →
    s.doorOk f p = true → s.cqs[p].held = r :: l → s.on (dbBase p) F.CXL_CQCFG_EN = true →
    (s.rd (dbBase p) F.CXL_CQTAIL_TAIL + 1) % 2 ^ s.rd (dbBase p) F.CXL_CQCFG_SIZE ≠ bits v.toNat 0 15 % 2 ^ s.rd (dbBase p) F.CXL_CQCFG_SIZE →
    s.translate p.val ((s.rd (dbBase p) F.CXL_CQBASE_BASE * 4096 + s.rd (dbBase p) F.CXL_CQTAIL_TAIL * 32) % 2 ^ 48) = some (host, pa) →
    ∃ t more, exec (.cqHeadWrite f p v) s = .next t ∧ t.rd (dbBase p) F.CXL_CQHEAD_HEAD = bits v.toNat 0 15 ∧
      t.out = s.out ++ hostLines pa (cqBytes r s.cqs[p].phase (s.cqs[p].seqno + 1)) ++ more) ∧
  (∀ (c : PCore) (v : BitVec 64) (s : State) (p : Part) (host : Bool) (pa : Nat), s.partOf c = p.val → s.on (dbBase p) F.CXL_CQCFG_EN = true →
    s.cqRoom p = true → s.cqs[p].held = [] → s.cqs[p].lost = 0 →
    s.translate p.val ((s.rd (dbBase p) F.CXL_CQBASE_BASE * 4096 + s.rd (dbBase p) F.CXL_CQTAIL_TAIL * 32) % 2 ^ 48) = some (host, pa) →
    ∃ t more, exec (.cxlPost c v) s = .next t ∧
      t.out = s.out ++ hostLines pa (cqBytes ⟨3, (s.logicalOf c).getD 0xFFFF, 0, v.toNat⟩ s.cqs[p].phase (s.cqs[p].seqno + 1)) ++ more ∧
      t.cqs[p].seqno = s.cqs[p].seqno + 1 ∧ t.core = s.core) ∧
  (∀ (stream : IdeStream) (s : State), s.ide[(ideIndex stream)] = .secure →
    ∃ t, exec (.ideIntegrityFailure stream) s = .next t ∧ t.ide[(ideIndex stream)] = .insecure ∧
      t.on cxlBase (if ideIndex stream = 5 then F.CXL_LINK_IDE_CM else F.CXL_LINK_IDE_IO) = false ∧ t.on cxlBase F.CXL_ERR_IDE_FAIL = true ∧ t.mem = s.mem)

/-- What R376 says of a module reset for `cause`: the cause is recorded, cores and memory are as at reset, and fuses, cable ends, the log and the
queue of commands stay. -/
abbrev ModuleReset (s t : State) (cause : Nat) : Prop :=
  t.rd rstBase F.RST_LAST_CAUSE = cause ∧ t.core = State.reset.core ∧ t.mem = State.reset.mem ∧ t.disabled = s.disabled ∧
    t.cables = s.cables ∧ t.pending = s.pending ∧ t.rd secBase F.SEC_STATUS_BOOTSTATE = State.reset.rd secBase F.SEC_STATUS_BOOTSTATE

/-- R343, R346, R376, R381: FLR of a VF resets its partition and configuration; FLR of PF0 resets every existing partition and every function; CXL Reset also
back-invalidates every line the host holds and empties the device cache and the snoop filter; a link that goes down, and the host's request, reset the
module and keep the log. -/
def Obligations.WideResets : Prop :=
  (∀ (p : Part) (s : State), s.hostReady = true → s.exist p.val = true → s.partInReset p.val = false →
    (∀ c, s.partOf c = p.val → s.underTest c = false) →
    ∃ t, exec (.flrVf p) s = .next t ∧ t.partInReset p.val = true ∧ t.funcs[(⟨p.val + 1, by omega⟩ : Func)] = FuncRec.reset) ∧
  (∀ (s : State), s.hostReady = true → (∀ c, s.underTest c = false) →
    ∃ t, exec .flrPf0 s = .next t ∧ t.vfEnable = false ∧ (∀ f : Func, t.funcs[f] = FuncRec.reset) ∧
      ∀ p : Part, s.exist p.val = true → t.partInReset p.val = true) ∧
  (∀ (s : State), s.hostReady = true → (∀ c, s.underTest c = false) →
    ∃ t, exec .cxlReset s = .next t ∧ t.hcache = [] ∧ t.mem.filter = [] ∧ (∀ f : Func, t.funcs[f] = FuncRec.reset) ∧
      (∀ line, s.tracked line = true → ∃ e ∈ t.mem.snooped, e.line = line ∧ e.inv = true ∧ e.answered = false) ∧
      ∀ p : Part, s.exist p.val = true → t.partInReset p.val = true) ∧
  (∀ (s : State), s.RegsCanonical → ∃ t, exec .cxlLinkDown s = .next t ∧ ModuleReset s t 2 ∧
    t.rd errBase F.ERR_LOGPTR_SEQNO = s.rd errBase F.ERR_LOGPTR_SEQNO) ∧
  (∀ (f : Func) (s : State), s.PF0Reaches f → s.RegsCanonical → ∃ t, exec (.resetModule f) s = .next t ∧ ModuleReset s t 3 ∧
    t.rd errBase F.ERR_LOGPTR_SEQNO = s.rd errBase F.ERR_LOGPTR_SEQNO)

/-! ### Partitions and resets (R363 to R381, R196) -/

/-- The cluster of core `c` is one that FORM (1), MOVE (2) or DISSOLVE (3) of partition `p` with `clusters` affects (R366). -/
abbrev Affects (s : State) (op p clusters : Nat) (c : PCore) : Prop :=
  if op = 3 then s.partOf c = p else clusters.testBit (clusterOf c).val = true ∧ s.partOf c ≠ p

/-- What R366 asks of a partition command besides that the partition exists or, for FORM, does not: FORM and MOVE name clusters and, for a partition other
than 0, need the licence; DISSOLVE names another partition than 0 that owns no page; no affected core's sequencer runs or is halted; no partition that gains or
loses a cluster is in reset; and no command is running. -/
abbrev PartMay (s : State) (op p clusters : Nat) : Prop :=
  (op = 3 → p ≠ 0 ∧ s.rd prtBase F.PRT_PSTAT_PAGES p = 0 ∧ ((∃ c, Affects s op p clusters c) → s.partInReset 0 = false)) ∧
  (op ≠ 3 → clusters ≠ 0 ∧ (p ≠ 0 → s.licensed 0 = true) ∧ ∀ c, Affects s op p clusters c → s.partInReset (s.partOf c) = false) ∧
  (∀ c, Affects s op p clusters c → s.seqState c ≠ 1 ∧ s.seqState c ≠ 2) ∧ ((∃ c, Affects s op p clusters c) → s.partInReset p = false) ∧
    s.partCmd = none

/-- The partition commands, with their OP and their clusters (R365). -/
def partCmds (f : Func) (p : Part) (cl : BitVec 16) : List (Instr × Nat × Nat) :=
  [(.partitionForm f p cl, 1, cl.toNat), (.partitionMove f p cl, 2, cl.toNat), (.partitionDissolve f p, 3, 0)]

/-- R365 to R368: the partition commands and their OP; a command that R366 allows runs, with a core reset of every affected core that is in service, and is
done at once where there is none; another is rejected whole with its reason. R196, R367: when every zero-fill has ended, the clusters have their owner and
the command reads done. -/
def Obligations.PartitionCommands : Prop :=
  (∀ (f : Func) (p : Part) (cl : BitVec 16) (s : State), ∀ i ∈ partCmds f p cl, s.PF0Reaches f → s.exist p.val = decide (i.2.1 ≠ 1) →
    PartMay s i.2.1 p.val i.2.2 → (∀ c, Affects s i.2.1 p.val i.2.2 c → s.underTest c = false) →
    (∃ c, Affects s i.2.1 p.val i.2.2 c ∧ s.enabled c = true ∧ s.powered c = true) →
    ∃ t k, exec i.1 s = .next t ∧ t.partCmd = some k ∧ k.op = i.2.1 ∧ k.part = p.val ∧
      (∀ c, (clusterOf c).val ∈ k.clusters ↔ Affects s i.2.1 p.val i.2.2 c) ∧ t.rd prtBase F.PRT_CMDSTAT_STATE = 1 ∧
      (∀ n < 16, t.ownerOfCluster n = s.ownerOfCluster n) ∧
      ∀ c, Affects s i.2.1 p.val i.2.2 c → s.enabled c = true → s.powered c = true →
        t.resetting c = true ∧ (t.core c).wantFill = true ∧ (s.resetting c = false → t.queuesEmpty c = true)) ∧
  (∀ (f : Func) (p : Part) (cl : BitVec 16) (s : State), ∀ i ∈ partCmds f p cl, s.PF0Reaches f → s.exist p.val = decide (i.2.1 ≠ 1) →
    PartMay s i.2.1 p.val i.2.2 →
    (∀ c, Affects s i.2.1 p.val i.2.2 c → s.underTest c = false ∧ (s.enabled c && s.powered c) = false ∧ s.resetting c = false ∧ (s.core c).fillEnd = none ∧
      (s.core c).wantFill = false) →
    ∃ t, exec i.1 s = .next t ∧ t.partCmd = none ∧ t.rd prtBase F.PRT_CMDSTAT_STATE = 2 ∧ t.core = s.core ∧
      t.exist p.val = decide (i.2.1 ≠ 3) ∧
      ∀ c, Affects s i.2.1 p.val i.2.2 c → t.partOf c = (if i.2.1 = 3 then 0 else p.val)) ∧
  (∀ (f : Func) (p : Part) (cl : BitVec 16) (s : State), ∀ i ∈ partCmds f p cl, s.PF0Reaches f →
    (∀ c, Affects s i.2.1 p.val i.2.2 c → s.underTest c = false) → (s.exist p.val = decide (i.2.1 = 1) ∨ ¬ PartMay s i.2.1 p.val i.2.2) →
    ∃ t, exec i.1 s = .next t ∧ t.partCmd = s.partCmd ∧ t.core = s.core ∧
      t.rd prtBase F.PRT_CMDSTAT_STATE = (if s.partCmd = none then 3 else s.rd prtBase F.PRT_CMDSTAT_STATE) ∧
      2 ≤ t.rd prtBase F.PRT_CMDSTAT_REASON ∧ t.rd prtBase F.PRT_CMDSTAT_REASON ≤ 8 ∧
      (s.exist p.val = decide (i.2.1 = 1) → t.rd prtBase F.PRT_CMDSTAT_REASON = 2) ∧ (∀ n < 16, t.ownerOfCluster n = s.ownerOfCluster n) ∧
      ∀ n < 16, t.exist n = s.exist n) ∧
  (∀ (s : State) (k : PartCmd), s.partCmd = some k → 1 ≤ k.op → k.op ≤ 3 → k.part < 16 → (∀ n ∈ k.clusters, n < 16) →
    (∀ n ∈ k.clusters, ∀ c ∈ coresOf n, s.resetting c = false ∧ (s.core c).wantFill = false ∧
      ((s.core c).fillEnd.all fun e => decide (e ≤ s.cycle)) = true) →
    ∃ t, exec .zeroFillComplete s = .next t ∧ t.partCmd = none ∧ t.rd prtBase F.PRT_CMDSTAT_STATE = 2 ∧
      (k.op ≠ 2 → t.exist k.part = decide (k.op = 1)) ∧
      (∀ n ∈ k.clusters, t.ownerOfCluster n = (if k.op = 3 then 0 else k.part)) ∧
      (∀ n ∈ k.clusters, ∀ c ∈ coresOf n, (t.core c).fillEnd = none)) ∧
  (∀ (s : State), s.partCmd = none → ∃ t, exec .zeroFillComplete s = .next t ∧
    ∀ c, (t.core c).fillEnd = (s.core c).fillEnd.filter fun e => decide (s.cycle < e))

/-- R369 to R373, R379, R381, R196: a reset request that nothing refuses starts the core reset of each core it names that is in service; the other cores of
a running task abort first with cause 7; a request for a core whose reset runs, or whose partition is in reset, is superseded; a core reset ends in state
0, or 5 if the core is down, with its memories kept, or zero-filled where they were asked for; a partition reset is shown until it ends; a request for a
partition that does not exist is refused. -/
def Obligations.Resets : Prop :=
  (∀ (f : Func) (c : PCore) (s : State), s.PF0Reaches f → s.enabled c = true → s.powered c = true → s.resetting c = false →
    s.partInReset (s.partOf c) = false → s.underTest c = false →
    ∃ t, exec (.resetCore f c) s = .next t ∧ t.resetting c = true ∧ t.queuesEmpty c = true ∧ (t.core c).spad = (s.core c).spad ∧
      (t.core c).imem = (s.core c).imem ∧ t.rd rstBase F.RST_STAT_RESULT = 0 ∧ t.on rstBase F.RST_STAT_BUSY = true ∧
      (c ∈ s.taskCores (s.partOf c) → ∀ k ∈ s.taskCores (s.partOf c), (s.seqState k = 1 ∨ s.seqState k = 2) →
        ∀ d ∈ s.taskCores (s.partOf c), d ≠ c → t.seqState d = 4 ∧ t.rd (coreBase d) F.SEQ_ABORT_CAUSE = 7 ∧ t.queuesEmpty d = true)) ∧
  (∀ (f : Func) (c : PCore) (s : State), s.PF0Reaches f → s.enabled c = true → s.powered c = true → s.underTest c = false →
    (s.partInReset (s.partOf c) = true ∨ s.resetting c = true) →
    ∃ t, exec (.resetCore f c) s = .next t ∧ t.core = s.core ∧ t.rd rstBase F.RST_STAT_RESULT = 3) ∧
  (∀ (f : Func) (k : Fin 64) (s : State), s.PF0Reaches f → k.val < 16 →
    (∀ c ∈ coresOf k.val, s.resetting c = false ∧ s.partInReset (s.partOf c) = false ∧ s.underTest c = false) →
    ∃ t, exec (.resetCluster f k) s = .next t ∧
      ∀ c ∈ coresOf k.val, s.enabled c = true → s.powered c = true → t.resetting c = true ∧ t.queuesEmpty c = true) ∧
  (∀ (f : Func) (p : Fin 64) (s : State), s.PF0Reaches f → p.val < 16 → s.exist p.val = true → s.partInReset p.val = false →
    (∀ c, s.partOf c = p.val → s.underTest c = false) →
    ∃ t, exec (.resetPartition f p) s = .next t ∧ t.partInReset p.val = true ∧ t.rdBit (netBase 0) F.NET_PARTHOLD_HOLD p.val = true ∧
      TaskAborted s t p.val 7 ∧ ∀ c, s.partOf c = p.val → s.enabled c = true → s.powered c = true → t.resetting c = true) ∧
  (∀ (f : Func) (p : Fin 64) (s : State), s.PF0Reaches f → (p.val < 16 → s.exist p.val = false) →
    (∀ c, s.partOf c = p.val → s.underTest c = false) →
    ∃ t, exec (.resetPartition f p) s = .next t ∧ t.core = s.core ∧ t.rd rstBase F.RST_STAT_RESULT = 2 ∧ t.rd rstBase F.RST_STAT_REASON = 3) ∧
  (∀ (c : PCore) (s : State) (e : Nat), (s.core c).resetEnd = some e → e ≤ s.cycle → s.resetting c = true →
    (∀ i : Eng, (s.eng c i).issued = []) → s.localHeld c = false →
    ∃ t, exec (.coreResetComplete c) s = .next t ∧ t.resetting c = false ∧ t.seqState c = (if s.coresDown.testBit c.val then 5 else 0) ∧
      ((s.core c).wantFill = false → (t.core c).spad = (s.core c).spad ∧ (t.core c).imem = (s.core c).imem ∧ (t.core c).acc = (s.core c).acc ∧
        (t.core c).fillEnd = none) ∧
      ((s.core c).wantFill = true → (t.core c).spad = [] ∧ (t.core c).imem = [] ∧ (t.core c).fillEnd = some (s.cycle + 4160)) ∧
      ((s.core c).regsDone = false → t.pc c = 0 ∧ (∀ r < 32, t.x c r = 0) ∧ ∀ n < 64, t.flag c n = 0)) ∧
  (∀ (p : Part) (s : State) (e : Nat), s.parts[p].resetAt = some e → s.partInReset p.val = true → e + 9400 ≤ s.cycle →
    (∀ c, s.partOf c = p.val → s.resetting c = false) → s.noRequest (fun r => decide (r.part = p.val)) = true →
    ∃ t, exec (.partitionResetComplete p) s = .next t ∧ t.partInReset p.val = false ∧ t.core = s.core)

/-! ### Errors and self-tests (R382 to R399) -/

/-- R96, R177, R249, R382, R386, R390, R391, R396, R399: a unit's test starts at its start point; an engine that passes returns to service and leaves
quarantine; one that failed at a row takes a spare row, or is disabled where none is left; the patrol moves on, and the error it meets is counted, a
double-bit one marking its line or half; a low margin is logged; the hour's counts roll over; a lost stack and a faulted control processor are fatal:
recorded, sent to flash, and the module resets with cause 4. -/
def Obligations.ErrorsAndTests : Prop :=
  (∀ (i : Nat) (s : State) (q : QuarRec), s.quar[i]? = some q → q.started = none → q.failed = none → s.startPoint q = true →
    ∃ t, exec (.selfTestStart i) s = .next t ∧ t.quar = s.quar.set i { q with started := some s.us, shut := true } ∧ t.core = s.core) ∧
  (∀ (i : Nat) (s : State) (q : QuarRec) (b : Nat), s.quar[i]? = some q → q.unit = 1 → q.started = some b → q.failed = none → q.again = false →
    b + 20 ≤ s.us → s.engState q.core q.eng = 5 → (s.eng q.core q.eng).askedStop = false → s.held = [] → (∀ p : Part, s.parts[p].goHeld = false) →
    ∃ t, exec (.selfTestEnd i .pass) s = .next t ∧ t.quar = s.quar.eraseIdx i ∧ t.engState q.core q.eng = 0 ∧ t.core = s.core) ∧
  (∀ (i : Nat) (s : State) (q : QuarRec) (row : Fin 128), s.quar[i]? = some q → q.unit = 1 → q.failed = some (.failRow row) →
    s.testPoint q = true → s.engState q.core q.eng = 5 → (s.eng q.core q.eng).askedStop = false → s.held = [] →
    (∀ p : Part, s.parts[p].goHeld = false) →
    ∃ t, exec (.spareTake i) s = .next t ∧ t.quar = s.quar.eraseIdx i ∧
      (s.rd (opeBase q.core q.eng) F.OPE_STATUS_SPARES_USED < 2 → t.engState q.core q.eng = 0 ∧
        t.rd (opeBase q.core q.eng) F.OPE_STATUS_SPARES_USED = s.rd (opeBase q.core q.eng) F.OPE_STATUS_SPARES_USED + 1) ∧
      (2 ≤ s.rd (opeBase q.core q.eng) F.OPE_STATUS_SPARES_USED → t.engState q.core q.eng = 6)) ∧
  (∀ (s : State), s.on errBase F.ERR_CTRL_IST_EN = true → (∀ c, (s.core c).spadBad = [] ∧ (s.core c).accBad = []) →
    ∃ t, exec (.scratchpadPatrol [] []) s = .next t ∧ t.core = s.core ∧ t.mem = s.mem ∧
      t.patrolAt = (if s.patrolAt + 1 < 64 * patrolSpan then s.patrolAt + 1 else 0)) ∧
  (∀ (c : PCore) (l : Fin 196608) (w : Fin 1572864) (double : Bool) (s : State), s.on errBase F.ERR_CTRL_IST_EN = true →
    s.enabled c = true → s.inReset c = false → s.patrolAt = c.val * patrolSpan + l.val → w.val / 8 = l.val → (s.core c).spadBad = [] →
    ∃ t, exec (.scratchpadPatrol [(c, w, double)] []) s = .next t ∧ (t.core c).spad = (s.core c).spad ∧ (t.core c).spadBad = [] ∧
      (double = false → t.rd (spdBase c) F.SPD_ECC_CORR = satAdd 16 (s.rd (spdBase c) F.SPD_ECC_CORR) 1 ∧
        (t.core c).spadPois = (s.core c).spadPois) ∧
      (double = true → t.rd (spdBase c) F.SPD_ECC_UNCORR = satAdd 16 (s.rd (spdBase c) F.SPD_ECC_UNCORR) 1 ∧
        SMap.get false (t.core c).spadPois l.val = true)) ∧
  (∀ (c : PCore) (e : Eng) (r : Fin 4096) (pair : Fin 64) (double : Bool) (s : State), s.on errBase F.ERR_CTRL_IST_EN = true → s.enabled c = true →
    s.inReset c = false → s.patrolAt = c.val * patrolSpan + 196608 + e.val * 4096 + r.val → (s.core c).accBad = [] →
    ∃ t, exec (.scratchpadPatrol [] [.acc c e r pair double]) s = .next t ∧ (t.core c).acc = (s.core c).acc ∧
      (double = false → t.rd (accBase c e) F.ACC_ECC_CORR = satAdd 16 (s.rd (accBase c e) F.ACC_ECC_CORR) 1 ∧ (t.core c).accBad = []) ∧
      (double = true → t.rd (accBase c e) F.ACC_ECC_UNCORR = satAdd 16 (s.rd (accBase c e) F.ACC_ECC_UNCORR) 1 ∧
        t.rdBit (accBase c e) F.ACC_POISON_POISON (r.val / 128) = true)) ∧
  (∀ (p : Port) (lane : Fin 8) (code : BitVec 8) (s : State), s.on errBase F.ERR_CTRL_IST_EN = true → s.portUp p.val = true →
    s.rdBit (brdBase p) F.BRD_STATUS_LANES lane.val = true → 58 ≤ code.toNat → code.toNat < 96 →
    ∃ t, exec (.laneMarginCheck p lane code) s = .next t ∧ t.ports = s.ports ∧
      t.rd errBase F.ERR_LOGPTR_SEQNO = (s.rd errBase F.ERR_LOGPTR_SEQNO + 1) % 2 ^ 32) ∧
  (∀ (s : State), s.hourAt + 3600000000 ≤ s.us →
    ∃ t, exec .errorHourRollover s = .next t ∧ t.rd errBase F.ERR_HOURCUR_CORR = 0 ∧ t.rd errBase F.ERR_HOURCUR_RETRAIN = 0 ∧
      t.rd errBase F.ERR_HOURLAST_ALL % 65536 = s.rd errBase F.ERR_HOURCUR_CORR % 65536 ∧ t.hourAt = s.hourAt + 3600000000) ∧
  (∀ (k : Stack) (s : State), s.RegsCanonical → ∃ t, exec (.stackLost k) s = .next t ∧ ModuleReset s t 4 ∧ t.rd errBase F.ERR_FATAL_CAUSE = 0x18 ∧
    t.on errBase F.ERR_FATAL_VALID = true ∧ t.fatalLog.length = s.fatalLog.length + 1) ∧
  (∀ (d : Die) (s : State), s.RegsCanonical → ∃ t, exec (.controlProcessorFault d) s = .next t ∧ ModuleReset s t 4 ∧ t.rd errBase F.ERR_FATAL_CAUSE = 0x19 ∧
    t.on errBase F.ERR_FATAL_VALID = true ∧ t.fatalLog.length = s.fatalLog.length + 1)

/-! ### Mirroring (R400 to R416) -/

/-- A restore of partition `p` to the epoch `m` may begin (R411, R412): mirroring is on with its partner not lost, no core of the partition runs or is
halted, the partition is not in reset, `m` is the committed epoch and has number `ep`, and no restore and no fill of the partition runs. -/
abbrev MayRestore (s : State) (p : Part) (ep : Nat) (m : EpochMark) : Prop :=
  s.on mirBase F.MIR_CFG_EN p.val = true ∧ s.rd mirBase F.MIR_STATE_STATE p.val ≠ 5 ∧
  (∀ c, s.partOf c = p.val → s.seqState c ≠ 1 ∧ s.seqState c ≠ 2) ∧ s.partInReset p.val = false ∧ s.mir[p].commit = some m ∧
  m.num % 65536 = ep ∧ s.mir[p].restore = none ∧ s.rd mirBase F.MIR_FILLRX_B_STATE p.val ≠ 1

/-- R400, R401, R408, R411, R412, R415, R419: enabling over an unowned reserve with the licence marks every mirrored page, or none where the store holds
the committed epoch; a write with EN while enabled, or without the licence or the reserve, does nothing; disabling clears both bitmaps; a store region is
configured or discarded; a held epoch is released; a restore begins, is done at once where no page changed, or is refused with its reason, and ends when
the partner does not answer. -/
def Obligations.MirrorControl : Prop :=
  (∀ (f : Func) (p : Part) (v : BitVec 64) (h : Nat) (s : State), s.PF0Reaches f → s.on mirBase F.MIR_CFG_EN p.val = false →
    v.toNat.testBit 0 = true → s.on mirBase F.MIR_CFG_LOCK p.val = false → s.licensed 4 = true →
    (∀ i < bits v.toNat 16 20, s.ownerOf (s.rd mirBase F.MIR_RESBASE_BASE p.val + i) = 0x10) →
    ∃ t, exec (.mirrorEnable f p v h) s = .next t ∧ t.on mirBase F.MIR_CFG_EN p.val = true ∧ t.rd mirBase F.MIR_STATE_STATE p.val = 1 ∧
      (v.toNat.testBit 1 = false ∨ h ≠ s.rd mirBase F.MIR_COMMIT_EPOCH p.val →
        ∀ g ∈ s.mirrored p.val, SMap.get false t.mem.dirty (dirtyKey p.val g) = true) ∧
      (v.toNat.testBit 1 = true → h = s.rd mirBase F.MIR_COMMIT_EPOCH p.val → h ≠ 0 → pagesIn t.mem.dirty p.val = []) ∧
      pagesIn t.mem.closing p.val = [] ∧ t.mem.bytes = s.mem.bytes) ∧
  (∀ (f : Func) (p : Part) (v : BitVec 64) (h : Nat) (s : State), s.PF0Reaches f → v.toNat.testBit 0 = true →
    (s.on mirBase F.MIR_CFG_EN p.val = true ∨ s.licensed 4 = false ∨
      ∃ i < bits v.toNat 16 20, s.ownerOf (s.rd mirBase F.MIR_RESBASE_BASE p.val + i) ≠ 0x10) → exec (.mirrorEnable f p v h) s = .next s) ∧
  (∀ (f : Func) (p : Part) (s : State), s.PF0Reaches f → s.on mirBase F.MIR_CFG_EN p.val = true →
    ∃ t, exec (.mirrorDisable f p) s = .next t ∧ t.on mirBase F.MIR_CFG_EN p.val = false ∧ t.rd mirBase F.MIR_STATE_STATE p.val = 0 ∧
      pagesIn t.mem.dirty p.val = [] ∧ pagesIn t.mem.closing p.val = [] ∧ t.mir[p].epoch = none ∧ t.mir[p].restore = none) ∧
  (∀ (f : Func) (n : Fin 16) (v : BitVec 64) (s : State), s.PF0Reaches f → v.toNat.testBit 40 = false → s.storeState n ≠ 5 →
    ∃ t, exec (.mirrorStoreWrite f n v) s = .next t ∧ t.storeState n = 0 ∧ t.stores[n] = StoreRec.reset ∧
      t.on mirBase F.MIR_STORE_A_VALID n.val = false ∧ t.rd mirBase F.MIR_STORE_C_COMMITTED n.val = 0) ∧
  (∀ (f : Func) (n : Fin 16) (v : BitVec 64) (s : State), s.PF0Reaches f → v.toNat.testBit 40 = true → s.storeState n ≤ 1 →
    (∀ i < bits v.toNat 20 20, s.ownerOf (bits v.toNat 0 20 + i) = 0x10) →
    ∃ t, exec (.mirrorStoreWrite f n v) s = .next t ∧ t.storeState n = 1 ∧ t.on mirBase F.MIR_STORE_A_VALID n.val = true ∧
      t.rd mirBase F.MIR_STORE_A_BASE n.val = bits v.toNat 0 20 ∧ t.rd mirBase F.MIR_STORE_A_CAPACITY n.val = bits v.toNat 20 20) ∧
  (∀ (f : Func) (p : Part) (s : State) (e : Epoch), s.PF0Reaches f → s.mir[p].epoch = some e → s.rd mirBase F.MIR_STATE_STATE p.val = 4 →
    ∃ t, exec (.mirrorRelease f p) s = .next t ∧ t.rd mirBase F.MIR_STATE_STATE p.val = 3 ∧
      t.mir[p].epoch = some { e with sentAt := some s.us }) ∧
  (∀ (f : Func) (p : Part) (ep : BitVec 16) (rn : Bool) (s : State) (m : EpochMark), s.PF0Reaches f → MayRestore s p ep.toNat m →
    pagesIn s.mem.dirty p.val ≠ [] →
    ∃ t r, exec (.mirrorRestore f p ep rn false) s = .next t ∧ t.mir[p].restore = some r ∧ r.target = m ∧ r.next = 0 ∧
      t.rd mirBase F.MIR_RESTSTAT_STATE p.val = 1 ∧ ∀ g ∈ pagesIn s.mem.dirty p.val, g ∈ r.pages) ∧
  (∀ (f : Func) (p : Part) (ep : BitVec 16) (s : State) (m : EpochMark), s.PF0Reaches f → MayRestore s p ep.toNat m → s.mir[p].epoch = none →
    pagesIn s.mem.dirty p.val = [] → pagesIn s.mem.closing p.val = [] →
    ∃ t, exec (.mirrorRestore f p ep false false) s = .next t ∧ t.mir[p].restore = none ∧ t.rd mirBase F.MIR_RESTSTAT_STATE p.val = 2 ∧
      t.rd mirBase F.MIR_EPOCH_NEXT p.val = (m.num + 1) % 2 ^ 48 ∧ t.rd mmemBase F.MSE_SEED_SEED p.val = m.seed % 2 ^ 64 ∧ t.mem.bytes = s.mem.bytes ∧
      ∀ c, s.partOf c = p.val → t.rd (coreBase c) F.SEQ_RNGPOS_STEP = m.step % 2 ^ 48) ∧
  (∀ (f : Func) (p : Part) (ep : BitVec 16) (rn ck : Bool) (s : State), s.PF0Reaches f → s.mir[p].restore = none →
    (s.on mirBase F.MIR_CFG_EN p.val = false ∨ s.rd mirBase F.MIR_STATE_STATE p.val = 5 →
      ∃ t, exec (.mirrorRestore f p ep rn ck) s = .next t ∧ t.mem = s.mem ∧ t.rd mirBase F.MIR_RESTSTAT_STATE p.val = 3 ∧
        t.rd mirBase F.MIR_RESTSTAT_REASON p.val = 1) ∧
    (s.on mirBase F.MIR_CFG_EN p.val = true → s.rd mirBase F.MIR_STATE_STATE p.val ≠ 5 →
      (∃ c, s.partOf c = p.val ∧ (s.seqState c = 1 ∨ s.seqState c = 2)) →
      ∃ t, exec (.mirrorRestore f p ep rn ck) s = .next t ∧ t.mem = s.mem ∧ t.rd mirBase F.MIR_RESTSTAT_STATE p.val = 3 ∧
        t.rd mirBase F.MIR_RESTSTAT_REASON p.val = 2) ∧
    (s.on mirBase F.MIR_CFG_EN p.val = true → s.rd mirBase F.MIR_STATE_STATE p.val ≠ 5 →
      (∀ c, s.partOf c = p.val → s.seqState c ≠ 1 ∧ s.seqState c ≠ 2) → s.partInReset p.val = false →
      s.mir[p].commit = none → s.mir[p].epoch = none →
      ∃ t, exec (.mirrorRestore f p ep rn ck) s = .next t ∧ t.mem = s.mem ∧ t.rd mirBase F.MIR_RESTSTAT_STATE p.val = 3 ∧
        t.rd mirBase F.MIR_RESTSTAT_REASON p.val = 4)) ∧
  (∀ (p : Part) (s : State) (r : Restore), s.mir[p].restore = some r → r.progress + s.ackLimit p.val ≤ s.us →
    ∃ t, exec (.restoreAnswerTimeout p) s = .next t ∧ t.mir[p].restore = none ∧ t.rd mirBase F.MIR_RESTSTAT_STATE p.val = 3 ∧
      t.rd mirBase F.MIR_RESTSTAT_REASON p.val = 6 ∧ t.mem = s.mem)

/-- R405 to R410: a granule is sent and its slot freed; the manifest follows the last page; VERIFIED commits the epoch, or holds it under HOLD, and
COMMITTED commits it; a failure, and no answer in time, fails it and gives its pages back to the current bitmap; a status that a partner does not
write changes nothing of it. -/
def Obligations.EpochCourse : Prop :=
  (∀ (p : Part) (k : Stack) (ecc : List LineEcc) (s : State) (e : Epoch) (page g : Nat), s.mir[p].epoch = some e →
    s.rd mirBase F.MIR_STATE_STATE p.val = 2 → s.reachable (s.partner p.val) (64 + k.val) = true → s.nextGran p e k = some (page, g) →
    (∀ i < 64, s.tracked (page * 32768 + g * 64 + i) = false) → s.mem.snooped = [] →
    ∃ t, exec (.granuleSend p ⟨k, ecc⟩) s = .next t ∧ t.sentGran p page g = true ∧ t.mem.bytes = s.mem.bytes ∧
      (∀ x ∈ t.mem.captured, x.1 / 64 ≠ sentKey p.val (page * 512 + g)) ∧ t.mem.closing = s.mem.closing) ∧
  (∀ (p : Part) (s : State) (e : Epoch), s.mir[p].epoch = some e → s.rd mirBase F.MIR_STATE_STATE p.val = 2 →
    (∀ g ∈ e.pages, g ∈ e.done) → s.reachable (s.partner p.val) 85 = true →
    ∃ t, exec (.manifestSend p) s = .next t ∧ t.rd mirBase F.MIR_STATE_STATE p.val = 3 ∧
      t.mir[p].epoch = some { e with sentAt := some s.us, progress := s.us }) ∧
  (∀ (port : Port) (s : State) (k : Packet) (p : Part) (e : Epoch), Arrives s port 1 7 k → bits k.addr 42 3 = 0 →
    s.mirrorPart k.src k.job = some p → s.mir[p].epoch = some e → s.mir[p].restore = none → e.num % 2 ^ 14 = bits k.addr 8 14 →
    (s.rd mirBase F.MIR_STATE_STATE p.val = 2 ∨ s.rd mirBase F.MIR_STATE_STATE p.val = 3) →
    ∃ t, exec (.mirrorEpochStatus port) s = .next t ∧
      ((bits k.addr 0 8 = 0 ∧ s.on mirBase F.MIR_CFG_HOLD p.val = false) ∨ bits k.addr 0 8 = 6 →
        t.mir[p].epoch = none ∧ t.mir[p].commit = some ⟨e.num, e.step, e.seed, e.norms⟩ ∧
        t.rd mirBase F.MIR_COMMIT_EPOCH p.val = e.num % 2 ^ 48 ∧ t.rd mirBase F.MIR_COMMIT_LASTSTAT p.val = bits k.addr 0 8 ∧
        t.rd mirBase F.MIR_STATE_STATE p.val = 1 ∧
        t.rd mirBase F.MIR_CNT_COMMITS p.val = (s.rd mirBase F.MIR_CNT_COMMITS p.val + 1) % 2 ^ 32 ∧ pagesIn t.mem.closing p.val = []) ∧
      (bits k.addr 0 8 = 0 → s.on mirBase F.MIR_CFG_HOLD p.val = true →
        t.mir[p].epoch = some { e with verified := true } ∧ t.rd mirBase F.MIR_STATE_STATE p.val = 4) ∧
      (bits k.addr 0 8 = 5 ∨ 6 < bits k.addr 0 8 →
        t.mir[p].epoch = some e ∧ t.rd mirBase F.MIR_STATE_STATE p.val = s.rd mirBase F.MIR_STATE_STATE p.val) ∧
      (1 ≤ bits k.addr 0 8 → bits k.addr 0 8 ≤ 4 →
        t.mir[p].epoch = none ∧ t.rd mirBase F.MIR_STATE_STATE p.val = 1 ∧ t.rd mirBase F.MIR_COMMIT_LASTSTAT p.val = bits k.addr 0 8 ∧
        t.rd mirBase F.MIR_COMMIT_EPOCH p.val = s.rd mirBase F.MIR_COMMIT_EPOCH p.val ∧
        ∀ g ∈ pagesIn s.mem.closing p.val, SMap.get false t.mem.dirty (dirtyKey p.val g) = true)) ∧
  (∀ (p : Part) (s : State) (e : Epoch), s.mir[p].epoch = some e →
    (s.rd mirBase F.MIR_STATE_STATE p.val = 2 ∨ s.rd mirBase F.MIR_STATE_STATE p.val = 3) →
    e.sentAt.getD e.progress + s.ackLimit p.val ≤ s.us →
    ∃ t, exec (.mirrorAckTimeout p) s = .next t ∧ t.mir[p].epoch = none ∧ t.rd mirBase F.MIR_STATE_STATE p.val = 5 ∧
      t.rd mirBase F.MIR_COMMIT_LASTSTAT p.val = 0x11 ∧ ∀ g ∈ pagesIn s.mem.closing p.val, SMap.get false t.mem.dirty (dirtyKey p.val g) = true)

/-- The front packet of port `port` is a mirror packet of KIND `kind` for store context `n` (R402, R406). -/
abbrev ForStore (s : State) (port : Port) (kind : Nat) (k : Packet) (n : Fin 16) : Prop :=
  Arrives s port 2 8 k ∧ bits k.addr 32 2 = kind ∧ s.mirrorPart k.src k.job = none ∧ s.fillPart k.src k.job = none ∧
    s.storeOf k.src k.job = some n

/-- R402, R408, R409, R412: what arrives for an epoch that a store takes: data is written into its page, a digest and a manifest chunk are kept; with the
last of them a verified epoch is switched in, or held; RELEASE switches the held epoch in; a page still missing in time fails the epoch and leaves the
committed copy; a page of the copy is returned. -/
def Obligations.PartnerStore : Prop :=
  (∀ (port : Port) (ecc : List LineEcc) (s : State) (k : Packet) (n : Fin 16) (g : Nat), ForStore s port 0 k n → s.storeState n = 3 →
    s.stores[n].epoch = some (bits k.addr 34 14) → joinChunks s.stores[n].chunks = none →
    (s.stores[n].staged.find? fun e => e.1 = bits k.addr 0 20) = some (bits k.addr 0 20, g) → k.data.length = 512 →
    s.Mapped (g * pageSize + (bits k.addr 20 9 * 8 + bits k.addr 29 3) * 512) 512 →
    ∃ t, exec (.mirrorPageData ⟨port, ecc⟩) s = .next t ∧
      t.hbmBytes (g * pageSize + (bits k.addr 20 9 * 8 + bits k.addr 29 3) * 512) 512 = k.data ∧
      SMap.get false t.stores[n].parts (bits k.addr 0 20 * 4096 + (bits k.addr 20 9 * 8 + bits k.addr 29 3)) = true ∧
      t.stores[n].map = s.stores[n].map) ∧
  (∀ (port : Port) (ecc : List LineEcc) (s : State) (k : Packet) (n : Fin 16), ForStore s port 1 k n → s.storeState n = 3 →
    s.stores[n].epoch = some (bits k.addr 34 14) → joinChunks s.stores[n].chunks = none →
    ∃ t, exec (.mirrorPageDigest ⟨port, ecc⟩) s = .next t ∧
      SMap.get 0 t.stores[n].digests (bits k.addr 0 20) = leNat (k.data.take 64) ∧ t.stores[n].map = s.stores[n].map ∧
      t.mem.bytes = s.mem.bytes) ∧
  (∀ (port : Port) (ecc : List LineEcc) (s : State) (k : Packet) (n : Fin 16) (cs : SMap (List Byte)), ForStore s port 2 k n → s.storeState n = 3 →
    s.stores[n].epoch = some (bits k.addr 34 14) → cs = SMap.put (bits k.addr 0 20) (k.data.take (k.len * 16)) s.stores[n].chunks →
    ∃ t, exec (.mirrorManifestChunk ⟨port, ecc⟩) s = .next t ∧
      (joinChunks cs = none → t.stores[n].chunks = cs ∧ t.stores[n].map = s.stores[n].map ∧ t.mem = s.mem) ∧
      ∀ man, joinChunks cs = some man → s.stores[n].bad = false →
        (∀ g ∈ (manifestOf man).pages, s.stores[n].whole g = true ∧ (∃ e ∈ s.stores[n].digests, e.1 = g) ∧
          s.storeDigest (SMap.get 0 s.stores[n].staged g) = SMap.get 0 s.stores[n].digests g) →
        ((manifestOf man).hold = false → t.storeState n = 2 ∧ t.stores[n].commit = man ∧ t.stores[n].epoch = none ∧ t.stores[n].staged = [] ∧
          t.rd mirBase F.MIR_STORE_C_COMMITTED n.val = (manifestOf man).epoch % 2 ^ 48) ∧
        ((manifestOf man).hold = true → t.storeState n = 4 ∧ t.stores[n].held = man ∧ t.stores[n].commit = s.stores[n].commit)) ∧
  (∀ (port : Port) (s : State) (k : Packet) (n : Fin 16), Arrives s port 1 7 k → bits k.addr 42 3 = 3 → s.storeOf k.src k.job = some n →
    s.storeState n = 4 → s.stores[n].epoch = some (bits k.addr 8 14) →
    ∃ t, exec (.mirrorReleasePacket port) s = .next t ∧ t.storeState n = 2 ∧ t.stores[n].epoch = none ∧ t.stores[n].staged = [] ∧
      t.stores[n].commit = s.stores[n].held ∧
      t.rd mirBase F.MIR_STORE_C_COMMITTED n.val = (manifestOf s.stores[n].held).epoch % 2 ^ 48) ∧
  (∀ (n : Fin 16) (s : State) (t0 : Nat), s.stores[n].manAt = some t0 → s.storeState n = 3 → t0 + s.storeLimit n ≤ s.us →
    ∃ t, exec (.mirrorIncompleteTimeout n) s = .next t ∧ t.stores[n].epoch = none ∧ t.stores[n].staged = [] ∧
      t.stores[n].map = s.stores[n].map ∧ t.stores[n].commit = s.stores[n].commit ∧
      t.storeState n = (if s.stores[n].map.isEmpty then 1 else 2)) ∧
  (∀ (port : Port) (ecc : List LineEcc) (s : State) (k : Packet) (n : Fin 16) (e : Nat × Nat × Nat), Arrives s port 1 7 k → bits k.addr 42 3 = 4 →
    s.requestStore k.src k.job = some n → s.storeState n ≠ 4 → (s.stores[n].map.find? fun e => e.1 = bits k.addr 22 20) = some e →
    k.src = s.modId → s.on brdmBase F.BRD_MODID_LOCK = true →
    ∃ t, exec (.restoreRequestPacket ⟨port, ecc⟩) s = .next t ∧ t.stores = s.stores ∧ t.mem.bytes = s.mem.bytes ∧
      t.ports[(0 : Port)].inq[(2 : Fin 4)].length = s.ports[(0 : Port)].inq[(2 : Fin 4)].length + 4097)

/-- R413 to R416: a fill is armed at the spare and started at the partner, or queued; it is paused; it sends its pages in order and then the manifest; a
confirmation is recorded; the spare applies the manifest; the answer ends the fill; and a fill that does not move for too long pauses or is abandoned, or
fails at the spare. -/
def Obligations.Fills : Prop :=
  (∀ (f : Func) (p : Part) (src : BitVec 16) (arm : Bool) (s : State), s.PF0Reaches f →
    ∃ t, exec (.fillArm f p src arm) s = .next t ∧ t.rd mirBase F.MIR_FILLRX_A_SRCMOD p.val = src.toNat ∧
      t.rd mirBase F.MIR_FILLRX_B_STATE p.val = (if arm then 1 else 0) ∧ t.mem = s.mem) ∧
  (∀ (f : Func) (n : Fin 16) (target : BitVec 16) (s : State), s.PF0Reaches f → 2 ≤ s.storeState n → s.stores[n].commit ≠ [] → s.fills = [] →
    s.fillQ = [] →
    ∃ t x, exec (.fillGo f n target) s = .next t ∧ t.fills = [x] ∧ x.store = n.val ∧ x.target = target.toNat ∧
      x.pages = s.stores[n].map.map Prod.fst ∧ x.next = 0 ∧ x.paused = false ∧ t.storeState n = 5) ∧
  (∀ (f : Func) (n : Fin 16) (target : BitVec 16) (s : State), s.PF0Reaches f → 2 ≤ s.storeState n → s.stores[n].commit ≠ [] →
    (∀ x ∈ s.fills, x.paused = false) → (if s.on mirBase F.MIR_CTRL_FILL2 = true then 2 else 1) ≤ s.fills.length → s.fillQ.length < 8 →
    ∃ t, exec (.fillGo f n target) s = .next t ∧ t.fills = s.fills ∧ t.fillQ = s.fillQ ++ [(n.val, target.toNat)] ∧ t.stores = s.stores) ∧
  (∀ (f : Func) (s : State), s.PF0Reaches f → s.rd mirBase F.MIR_FILL_CTRL_STORE < 16 →
    ∃ t, exec (.fillStop f) s = .next t ∧ t.fills = s.fills.map (fun (x : Fill) => { x with paused := true }) ∧ t.mem = s.mem) ∧
  (∀ (i : Fin 2) (ecc : List LineEcc) (s : State) (x : Fill), s.fills[i.val]? = some x → x.store < 16 → x.paused = false →
    s.reachable x.target 85 = true →
    ∃ t, exec (.fillPageSend ⟨i, ecc⟩) s = .next t ∧ t.mem.bytes = s.mem.bytes ∧
      (x.next < x.pages.length → t.fills[i.val]? = some { x with next := x.next + 1, progress := s.us }) ∧
      (x.pages.length ≤ x.next → x.manifest = false → t.fills[i.val]? = some { x with manifest := true, progress := s.us })) ∧
  (∀ (port : Port) (s : State) (k : Packet) (i : Nat) (x : Fill), Arrives s port 1 7 k → bits k.addr 42 3 = 1 → s.fillOf k.src k.job = some i →
    s.fills[i]? = some x →
    ∃ t y, exec (.fillPageConfirm port) s = .next t ∧ t.fills[i]? = some y ∧ bits k.addr 22 20 ∈ y.sure ∧ y.next = x.next) ∧
  (∀ (p : Part) (s : State) (man : List Byte), joinChunks s.fillRx[p].chunks = some man → s.rd mirBase F.MIR_FILLRX_B_STATE p.val = 1 →
    s.fillRx[p].parts = [] →
    ∃ t, exec (.fillComplete p) s = .next t ∧ t.rd mirBase F.MIR_FILLRX_B_STATE p.val = 2 ∧
      t.rd mirBase F.MIR_COMMIT_EPOCH p.val = (manifestOf man).epoch % 2 ^ 48 ∧
      t.rd mirBase F.MIR_EPOCH_NEXT p.val = ((manifestOf man).epoch + 1) % 2 ^ 48 ∧
      t.rd mmemBase F.MSE_SEED_SEED p.val = (manifestOf man).seed % 2 ^ 64 ∧ t.mem.bytes = s.mem.bytes ∧
      (s.on mirBase F.MIR_CMD_RNORMS p.val = false → t.mem = s.mem) ∧
      ∀ c, s.partOf c = p.val → t.rd (coreBase c) F.SEQ_RNGPOS_STEP = (manifestOf man).step % 2 ^ 48) ∧
  (∀ (port : Port) (s : State) (k : Packet) (i : Nat) (x : Fill), Arrives s port 1 7 k → bits k.addr 42 3 = 2 → s.fillOf k.src k.job = some i →
    s.fills[i]? = some x → x.store < 16 → s.fillQ = [] → (∀ y ∈ s.fills.eraseIdx i, y.store ≠ x.store) →
    ∃ t, exec (.fillCompleteAnswer port) s = .next t ∧ t.fills = s.fills.eraseIdx i ∧ t.rd mirBase F.MIR_STORE_D_STATE x.store = 2) ∧
  (∀ (i : Fin 16) (s : State), s.rd mirBase F.MIR_FILLRX_B_STATE i.val = 1 → s.fillRx[i].progress + s.ackLimit i.val ≤ s.us →
    ∃ t, exec (.fillRouteTimeout true i) s = .next t ∧ t.rd mirBase F.MIR_FILLRX_B_STATE i.val = 3 ∧ t.mem = s.mem) ∧
  (∀ (i : Fin 16) (s : State) (x : Fill) (h : x.store < 16), s.fills[i.val]? = some x → x.paused = false →
    x.progress + s.storeLimit ⟨x.store, h⟩ ≤ s.us →
    ∃ t, exec (.fillRouteTimeout false i) s = .next t ∧ t.mem = s.mem ∧
      (s.reachable x.target 85 = false → t.fills[i.val]? = some { x with paused := true }) ∧
      (s.reachable x.target 85 = true → s.fillQ = [] → (∀ y ∈ s.fills.eraseIdx i.val, y.store ≠ x.store) → t.fills = s.fills.eraseIdx i.val ∧ t.rd mirBase F.MIR_STORE_D_STATE x.store = 2))

/-! ### Bring-up, identity and licences (R421 to R448) -/

/-- R421, R424, R430, R458, R461: bring-up waits at step 1 for the reference and the junctions; past it, an unreadable flash or no valid image ends in
the recovery state, die 0's failure halts the boot ROM, and a module whose units all pass goes on in BOOTSTATE 1; step 6 makes it ready; the
attestation key becomes ready. -/
def Obligations.BringUp : Prop :=
  (∀ (b : BootTest) (s : State), s.pins.pwrgd = true → s.boot.step = 0 → (s.pins.noRef = true ∨ s.pins.hot = true) →
    ∃ t, exec (.bringUpStart b) s = .next t ∧ t.boot.step = 1 ∧ t.pins.perst = false ∧ t.regs = s.regs ∧
      (s.pins.noRef = true → t.pins.alert = true)) ∧
  (∀ (b : BootTest) (s : State), s.pins.pwrgd = true → s.boot.step = 0 → s.pins.noRef = false → s.pins.hot = false → b.core0 = false →
    ∃ t, exec (.bringUpStart b) s = .next t ∧ t.boot.step = 3 ∧ t.pins.alert = true ∧ t.regs = s.regs) ∧
  (∀ (b : BootTest) (s : State), s.pins.pwrgd = true → s.boot.step = 0 → s.pins.noRef = false → s.pins.hot = false → b.core0 = true →
    b.flash = true → s.boot.prefer < 2 → s.slotState 0 ≠ 1 → s.slotState 1 ≠ 1 →
    ∃ t, exec (.bringUpStart b) s = .next t ∧ t.rd secBase F.SEC_STATUS_BOOTSTATE = 4 ∧ t.on secBase F.SEC_STATUS_FALLBACK = true ∧
      t.core = s.core) ∧
  (∀ (b : BootTest) (s : State), s.pins.pwrgd = true → s.boot.step = 0 → s.pins.noRef = false → s.pins.hot = false → b.core0 = true →
    b.flash = true → s.boot.prefer < 2 → s.slotState s.boot.prefer = 1 → b.fails = [] → b.cores = 0 → b.dies = 0 → b.bridges = 0 →
    b.stackBad = 0 → s.boot.fuses = Repair.none → s.boot.repair = Repair.none → s.coresDown = 0 → s.rd errBase F.ERR_LOGPTR_NEXT < 1024 →
    ∃ t, exec (.bringUpStart b) s = .next t ∧ t.rd secBase F.SEC_STATUS_BOOTSTATE = 1 ∧ t.rd secBase F.SEC_STATUS_SLOT = s.boot.prefer ∧
      t.pins.alert = true ∧ t.boot.step = 2) ∧
  (∀ (b : BootTest) (s : State), s.boot.step = 1 → s.pins.hot = false → b.core0 = true → b.flash = false →
    ∃ t, exec (.referenceClockRestored b) s = .next t ∧ t.boot.step = 2 ∧ t.rd secBase F.SEC_STATUS_BOOTSTATE = 4 ∧
      t.pins.noRef = false ∧ t.pins.therm = false) ∧
  (∀ (b : BootTest) (s : State), s.boot.step = 1 → s.pins.noRef = false → b.core0 = true → b.flash = false →
    ∃ t, exec (.junctionCooled b) s = .next t ∧ t.boot.step = 2 ∧ t.rd secBase F.SEC_STATUS_BOOTSTATE = 4 ∧ t.pins.hot = false ∧
      t.pins.therm = false) ∧
  (∀ (s : State), s.rd secBase F.SEC_STATUS_BOOTSTATE = 1 → s.rd pwrBase F.PWR_CLASS_RESULT ≠ 0 → s.rd cxlBase F.CXL_LINK_STATE = 2 →
    (∀ n : Recept, s.receps[n].newly = false) →
    ∃ t m, exec .bringUpReady s = .next t ∧
      (t.rd secBase F.SEC_STATUS_BOOTSTATE = 2 ∨ t.rd secBase F.SEC_STATUS_BOOTSTATE = 3) ∧
      t.rd secBase F.SEC_RPTGEN_GEN = (s.rd secBase F.SEC_RPTGEN_GEN + 2) % 2 ^ 32 ∧ t.boot.meas = SMap.put 7 m s.boot.meas) ∧
  (∀ (s : State), (∀ i ∈ [1, 2, 3, 4, 5, 6, 7], ∃ e ∈ s.boot.meas, e.1 = i) →
    ∃ t key, exec .aliasKeyReady s = .next t ∧ t.on secBase F.SEC_STATUS_ALIAS_READY = true ∧
      t.boot = { s.boot with aliasKey := some (key, s.boot.meas) })

/-- R427, R428, R432, R441, R445, R447, R448: the firmware and licence commands of PF0, each with its effect and its refusals; a cycle of a running
COMMIT_SVN raises the count by one fuse, and another command
meanwhile is refused with REASON 1 (log entry 119); and what SPDM answers. -/
def Obligations.SecurityCommands : Prop :=
  (∀ (f : Func) (chunk : BitVec 12) (s : State), f.val = 0 → s.secReady = true → s.boot.committing = false →
    ∃ t, exec (.fwWrite f chunk false) s = .next t ∧
      SMap.get [] (t.slot s.spareSlot).chunks chunk.toNat = readBytes s.boot.stage 0 4096 ∧
      t.slot (s.rd secBase F.SEC_STATUS_SLOT) = s.slot (s.rd secBase F.SEC_STATUS_SLOT) ∧ t.slotShown s.spareSlot = 4 ∧
      t.rd secBase F.SEC_FWCMDSTAT_STATE = 2) ∧
  (∀ (f : Func) (s : State), f.val = 0 → s.secReady = true → s.boot.committing = false → slotCheck (s.slot s.spareSlot) s.boot.svn = 1 →
    ∃ t, exec (.fwVerify f false) s = .next t ∧ t.boot.prefer = s.spareSlot ∧ t.slotShown s.spareSlot = 1 ∧
      t.rd secBase F.SEC_FWCMDSTAT_STATE = 2) ∧
  (∀ (f : Func) (fl : Bool) (s : State), f.val = 0 → s.secReady = true → s.boot.committing = false → slotCheck (s.slot s.spareSlot) s.boot.svn ≠ 1 →
    ∃ t, exec (.fwVerify f fl) s = .next t ∧ t.boot.prefer = s.boot.prefer ∧ t.rd secBase F.SEC_FWCMDSTAT_STATE = 3 ∧
      t.rd secBase F.SEC_FWCMDSTAT_REASON = 3) ∧
  (∀ (f : Func) (s : State), f.val = 0 → s.secReady = true → s.boot.committing = false → ∃ t, exec (.fwActivate f) s = .next t ∧ ModuleReset s t 5) ∧
  (∀ (f : Func) (s : State), f.val = 0 → s.secReady = true → s.boot.committing = false →
    ∃ t, exec (.commitSvn f) s = .next t ∧
      (s.boot.svn < s.rd secBase F.SEC_FWVER_SVN → t.boot = { s.boot with writing := false, committing := true } ∧
        t.rd secBase F.SEC_FWCMDSTAT_STATE = 1) ∧
      (s.rd secBase F.SEC_FWVER_SVN ≤ s.boot.svn → t.boot.svn = s.boot.svn ∧ t.rd secBase F.SEC_FWCMDSTAT_STATE = 3 ∧
        t.rd secBase F.SEC_FWCMDSTAT_REASON = 4)) ∧
  (∀ (s : State), s.boot.committing = true → s.fuseTick.boot.svn = s.boot.svn + 1 ∧
    s.fuseTick.boot.committing = decide (s.boot.svn + 1 < s.rd secBase F.SEC_FWVER_SVN) ∧
    (s.rd secBase F.SEC_FWVER_SVN ≤ s.boot.svn + 1 → s.fuseTick.rd secBase F.SEC_FWCMDSTAT_STATE = 2)) ∧
  (∀ (f : Func) (s : State), f.val = 0 → s.secReady = true → s.boot.committing = false →
    ∃ t, exec (.fwPrefer f false) s = .next t ∧
      (s.slotState (1 - s.boot.prefer) = 1 → t.boot.prefer = 1 - s.boot.prefer) ∧
      (s.slotState (1 - s.boot.prefer) ≠ 1 → t.boot.prefer = s.boot.prefer ∧ t.rd secBase F.SEC_FWCMDSTAT_REASON = 5)) ∧
  (∀ (f : Func) (s : State), f.val = 0 → s.secReady = true → s.boot.committing = false →
    ∃ t, exec (.clearRepair f false) s = .next t ∧ t.boot.repair = Repair.none ∧ t.core = s.core ∧ t.rd secBase F.SEC_FWCMDSTAT_STATE = 2) ∧
  (∀ (f : Func) (chunk : BitVec 12) (fl : Bool) (s : State), f.val = 0 → s.ioOpen = true → s.secReady = false →
    ∀ i ∈ [Instr.fwWrite f chunk fl, .fwVerify f fl, .fwActivate f, .commitSvn f, .fwPrefer f fl, .clearRepair f fl],
    ∃ t, exec i s = .next t ∧ t.boot = s.boot ∧ t.rd secBase F.SEC_FWCMDSTAT_STATE = 3 ∧ t.rd secBase F.SEC_FWCMDSTAT_REASON = 1) ∧
  (∀ (f : Func) (s : State) (i : Nat), f.val = 0 → s.secReady = true → s.boot.committing = false → licForm (readBytes s.boot.licBuf 0 1024) = true →
    licField (readBytes s.boot.licBuf 0 1024) 4 8 = s.boot.serial → Config.licenceOk (readBytes s.boot.licBuf 0 1024) = true →
    ((List.range 16).find? fun i => (SMap.get [] s.boot.lics i).isEmpty) = some i →
    ∃ t, exec (.licenceInstall f false) s = .next t ∧ SMap.get [] t.boot.lics i = readBytes s.boot.licBuf 0 1024 ∧
      t.rd licBase F.LIC_ACTIVE_FEATURES = s.rd licBase F.LIC_ACTIVE_FEATURES ∧ t.rd licBase F.LIC_CMDSTAT_STATE = 2 ∧
      t.rd licBase F.LIC_CMDSTAT_INDEX = i) ∧
  (∀ (f : Func) (fl : Bool) (s : State), f.val = 0 → s.secReady = true → s.boot.committing = false → licForm (readBytes s.boot.licBuf 0 1024) = false →
    ∃ t, exec (.licenceInstall f fl) s = .next t ∧ t.boot = s.boot ∧ t.rd licBase F.LIC_CMDSTAT_STATE = 3 ∧
      t.rd licBase F.LIC_CMDSTAT_REASON = 4) ∧
  (∀ (f : Func) (fl : Bool) (s : State) (l : List Byte), f.val = 0 → s.secReady = true → s.boot.committing = false → l = readBytes s.boot.licBuf 0 1024 → licForm l = true →
    ∃ t, exec (.licenceInstall f fl) s = .next t ∧
      (licField l 4 8 ≠ s.boot.serial → t.boot = s.boot ∧ t.rd licBase F.LIC_CMDSTAT_STATE = 3 ∧ t.rd licBase F.LIC_CMDSTAT_REASON = 3) ∧
      (licField l 4 8 = s.boot.serial → Config.licenceOk l = false →
        t.boot = s.boot ∧ t.rd licBase F.LIC_CMDSTAT_STATE = 3 ∧ t.rd licBase F.LIC_CMDSTAT_REASON = 2) ∧
      (licField l 4 8 = s.boot.serial → Config.licenceOk l = true → (∀ i < 16, SMap.get [] s.boot.lics i ≠ []) →
        t.boot = s.boot ∧ t.rd licBase F.LIC_CMDSTAT_STATE = 3 ∧ t.rd licBase F.LIC_CMDSTAT_REASON = 5)) ∧
  (∀ (f : Func) (i : Fin 16) (fl : Bool) (s : State), f.val = 0 → s.ioOpen = true → s.secReady = false → ∀ x ∈ [Instr.licenceInstall f fl, .licenceRemove f i fl],
    ∃ t, exec x s = .next t ∧ t.boot = s.boot ∧ t.rd licBase F.LIC_CMDSTAT_STATE = 3 ∧ t.rd licBase F.LIC_CMDSTAT_REASON = 1) ∧
  (∀ (f : Func) (chunk : BitVec 12) (s : State), f.val = 0 → s.secReady = true → s.boot.committing = false →
    (∃ t, exec (.fwWrite f chunk true) s = .next t ∧ (t.slot s.spareSlot).chunks = (s.slot s.spareSlot).chunks ∧
      t.rd secBase F.SEC_FWCMDSTAT_STATE = 3 ∧ t.rd secBase F.SEC_FWCMDSTAT_REASON = 6) ∧
    (slotCheck (s.slot s.spareSlot) s.boot.svn = 1 → ∃ t, exec (.fwVerify f true) s = .next t ∧ t.boot.prefer = s.boot.prefer ∧
      t.rd secBase F.SEC_FWCMDSTAT_STATE = 3 ∧ t.rd secBase F.SEC_FWCMDSTAT_REASON = 6) ∧
    (s.slotState (1 - s.boot.prefer) = 1 → ∃ t, exec (.fwPrefer f true) s = .next t ∧ t.boot.prefer = s.boot.prefer ∧
      t.rd secBase F.SEC_FWCMDSTAT_STATE = 3 ∧ t.rd secBase F.SEC_FWCMDSTAT_REASON = 6) ∧
    ∃ t, exec (.clearRepair f true) s = .next t ∧ t.boot.repair = s.boot.repair ∧ t.rd secBase F.SEC_FWCMDSTAT_STATE = 3 ∧
      t.rd secBase F.SEC_FWCMDSTAT_REASON = 6) ∧
  (∀ (f : Func) (i : Fin 16) (s : State), f.val = 0 → s.secReady = true → s.boot.committing = false → SMap.get [] s.boot.lics i.val ≠ [] →
    ∃ t, exec (.licenceRemove f i true) s = .next t ∧ t.boot = s.boot ∧ t.rd licBase F.LIC_CMDSTAT_STATE = 3 ∧
      t.rd licBase F.LIC_CMDSTAT_REASON = 6) ∧
  (∀ (f : Func) (i : Fin 16) (s : State), f.val = 0 → s.secReady = true → s.boot.committing = false →
    ∃ t, exec (.licenceRemove f i false) s = .next t ∧ SMap.get [] t.boot.lics i.val = [] ∧
      t.rd licBase F.LIC_ACTIVE_FEATURES = s.rd licBase F.LIC_ACTIVE_FEATURES ∧
      (SMap.get [] s.boot.lics i.val = [] → t.rd licBase F.LIC_CMDSTAT_REASON = 7)) ∧
  (∀ (doe : Bool) (s : State), s.rd secBase F.SEC_STATUS_BOOTSTATE ≠ 0 → (doe = true → s.doeOpen = true) →
    exec (.spdmRequest doe .getVersion) s = .next (s.emit (.spdm doe .ok (.version 0x13))) ∧
    exec (.spdmRequest doe (.getCertificate 0)) s = .next (s.emit (.spdm doe .ok (.chain s.boot.chain))) ∧
    exec (.spdmRequest doe (.challenge 0)) s = .next (s.emit (.spdm doe .invalidRequest .empty)) ∧
    (s.on secBase F.SEC_STATUS_ALIAS_READY = false →
      exec (.spdmRequest doe (.challenge 1)) s = .next (s.emit (.spdm doe .busy .empty))) ∧
    exec (.spdmRequest doe (.getMeasurements 0 0 false)) s = .next (s.emit (.spdm doe .ok (.measurements [s.boot.meas.length]))) ∧
    (∀ n, s.on secBase F.SEC_STATUS_ALIAS_READY = true → s.boot.sessions.length < 4 → s.boot.sessions.contains n = false →
      exec (.spdmRequest doe (.keyExchange 1 n)) s =
        .next (({ s with boot := { s.boot with sessions := s.boot.sessions ++ [n] } }).emit (.spdm doe .ok (.session n)))) ∧
    ∀ n, s.on secBase F.SEC_STATUS_ALIAS_READY = true → 4 ≤ s.boot.sessions.length →
      exec (.spdmRequest doe (.keyExchange 1 n)) s = .next (s.emit (.spdm doe .sessionLimitExceeded .empty))) ∧
  (∀ (f : Func) (chunk : BitVec 12) (i : Fin 16) (fl : Bool) (s : State), f.val = 0 → s.secReady = true → s.boot.committing = true →
    (∀ x ∈ [Instr.fwWrite f chunk fl, .fwVerify f fl, .fwActivate f, .commitSvn f, .fwPrefer f fl, .clearRepair f fl],
      ∃ t, exec x s = .next t ∧ t.boot = s.boot ∧ t.rd secBase F.SEC_FWCMDSTAT_REASON = 1) ∧
    ∀ x ∈ [Instr.licenceInstall f fl, .licenceRemove f i fl],
      ∃ t, exec x s = .next t ∧ t.boot = s.boot ∧ t.rd licBase F.LIC_CMDSTAT_STATE = 3 ∧ t.rd licBase F.LIC_CMDSTAT_REASON = 1)

/-! ### Power, clocks and cooling (R449 to R473) -/

/-- R451 to R453, R458 to R461, R465: power-on leaves a module as after reset with its fuses and flash; PERST_N, a lost reference, a rail fault and a
thermal trip reset it; the governor sets the largest of its demands, or 15 during a rail warning; the class settles by its table. -/
def Obligations.PowerEvents : Prop :=
  (∀ (st : Fin 4) (id : Fin 64) (h : Bool) (s : State), s.pins.pwrgd = false →
    ∃ t, exec (.powerInputApply st id h) s = .next t ∧ t.pins.pwrgd = h ∧ t.pins.straps = st.val ∧ t.pins.modId = id.val ∧
      t.core = State.reset.core ∧ t.mem = State.reset.mem ∧ t.regs = State.reset.regs ∧ t.disabled = s.disabled ∧ t.cables = s.cables ∧
      t.boot.fuses = s.boot.fuses ∧ t.boot.slotA = s.boot.slotA ∧ t.boot.slotB = s.boot.slotB ∧ t.boot.lics = s.boot.lics) ∧
  (∀ (s : State), s.pins.pwrgd = true → s.pins.perst = false →
    ∃ t, exec .perstNAssert s = .next t ∧ ModuleReset s t 1 ∧ t.pins.perst = true ∧ ∀ k, t.rd (hbmBase k) F.HBM_STATUS_STATE = 3) ∧
  (∀ (mv : BitVec 16) (s : State), mv.toNat < 46000 →
    ∃ t, exec (.inputUndervoltage mv) s = .next t ∧ t.pins.pwrgd = false ∧ t.rd pwrBase F.PWR_INPUT_VIN_MV = mv.toNat ∧ t.core = s.core) ∧
  (∀ (pll : Option Die) (s : State), s.pins.pwrgd = true → s.RegsCanonical →
    ∃ t, exec (.referenceClockLoss pll) s = .next t ∧ ModuleReset s t 4 ∧ t.pins.noRef = true ∧ t.rd errBase F.ERR_FATAL_CAUSE = 0x1A) ∧
  (∀ (r : Fin 33) (mv : BitVec 16) (s : State), s.pins.pwrgd = true → s.RegsCanonical →
    ∃ t, exec (.railFault r mv) s = .next t ∧ ModuleReset s t 4 ∧ t.pins.pwrgd = false ∧ t.rd errBase F.ERR_FATAL_CAUSE = 0x1B) ∧
  (∀ (d : Die) (i : Fin 32) (tp : BitVec 8) (s : State), s.pins.pwrgd = true → s.RegsCanonical →
    (110 ≤ tp.toNat ∨ (105 < tp.toNat ∧ s.rd pwrBase F.PWR_DUTY_DUTY = 15)) →
    ∃ t, exec (.thermalTrip false d i tp) s = .next t ∧ ModuleReset s t 4 ∧ t.pins.therm = true ∧ t.pins.hot = true ∧
      t.rd errBase F.ERR_FATAL_CAUSE = 0x1C) ∧
  (∀ (d : Die) (i : Fin 32) (tp : BitVec 8) (s : State), s.pins.pwrgd = true → s.RegsCanonical → 100 ≤ tp.toNat → i.val < 20 →
    ∃ t, exec (.thermalTrip true d i tp) s = .next t ∧ ModuleReset s t 4 ∧ t.pins.therm = true ∧ t.rd errBase F.ERR_FATAL_CAUSE = 0x1C) ∧
  (∀ (r : Fin 33) (s : State), s.booted = true →
    ∃ t, exec (.railWarning r) s = .next t ∧ t.rd pwrBase F.PWR_DUTY_DUTY = 15 ∧ t.rd pwrBase F.PWR_RAIL_STATE r.val = 2 ∧
      t.gov.warnEnd = some (s.us + 20) ∧ t.core = s.core) ∧
  (∀ (s : State) (e : Nat), s.gov.warnEnd = some e → e ≤ s.us →
    ∃ t, exec .railWarningEnd s = .next t ∧ t.gov.warnEnd = none ∧ t.rd pwrBase F.PWR_DUTY_DUTY = s.gov.loop.1 % 16) ∧
  (∀ (d : Demands) (r : Readings) (s : State), s.booted = true →
    ∃ t, exec (.governorInterval d r) s = .next t ∧ t.core = s.core ∧
      (s.gov.warnEnd = none →
        t.rd pwrBase F.PWR_DUTY_DUTY = max (max d.power.val d.peak.val) (max d.junction.val d.hbm.val) ∧
        ∀ k : Die, t.rd (netBase k) F.NET_SUPPRESS_DUTY = t.rd pwrBase F.PWR_DUTY_DUTY) ∧
      (s.gov.warnEnd ≠ none → t.rd pwrBase F.PWR_DUTY_DUTY = s.rd pwrBase F.PWR_DUTY_DUTY)) ∧
  (∀ (w : BitVec 16) (s : State), s.booted = true →
    ∃ t, exec (.governorWindowEnd w) s = .next t ∧ t.rd pwrBase F.PWR_INPUT_WINDOW_W = w.toNat ∧
      (s.gov.full = true → s.powerLimit < w.toNat →
        t.rd pwrBase F.PWR_EVENTS_OVER = satAdd 16 (s.rd pwrBase F.PWR_EVENTS_OVER) 1)) ∧
  (∀ (v : Fin 4) (s : State), s.pins.straps ≠ v.val →
    ∃ t, exec (.strapChange v) s = .next t ∧ t.rd pwrBase F.PWR_CLASS_STRAP_NOW = v.val ∧
      t.rd pwrBase F.PWR_CLASS_INFORCE = s.rd pwrBase F.PWR_CLASS_INFORCE) ∧
  (∀ (s : State), s.booted = true →
    ∃ t v, exec .classNonce s = .next t ∧ t.boot.nonce = some v ∧ v < 2 ^ 256 ∧ t.out = s.out ++ [.sideband true v]) ∧
  (∀ (m : ClassMsg) (s : State), s.booted = true → s.rd pwrBase F.PWR_CLASS_RESULT = 0 → s.classLate = false → s.boot.nonce = some m.nonce →
    m.serial = s.boot.serial → m.modId = s.pins.seenId → m.cls < 3 →
    Config.confirmOk m.cls m.modId m.serial m.nonce m.chain m.sig = true → Config.chassisPermits m.chain m.cls = true → m.cls = s.pins.seen →
    ∃ t, exec (.classConfirm m) s = .next t ∧ t.rd pwrBase F.PWR_CLASS_INFORCE = m.cls ∧ t.rd pwrBase F.PWR_CLASS_RESULT = 1 ∧
      t.rd clkBase F.CLK_STATUS_CORE_DIV = 8 + 2 * m.cls ∧ t.pins.alert = false) ∧
  (∀ (m : ClassMsg) (s : State), s.booted = true → s.rd pwrBase F.PWR_CLASS_RESULT = 0 → s.classLate = false → s.boot.nonce ≠ some m.nonce →
    ∃ t, exec (.classConfirm m) s = .next t ∧ t.rd pwrBase F.PWR_CLASS_INFORCE = 2 ∧ t.rd pwrBase F.PWR_CLASS_RESULT = 4) ∧
  (∀ (m : ClassMsg) (s : State), s.booted = true → s.rd pwrBase F.PWR_CLASS_RESULT = 0 → s.classLate = false → s.boot.nonce = some m.nonce →
    m.serial = s.boot.serial → m.modId = s.pins.seenId → m.cls < 3 → Config.confirmOk m.cls m.modId m.serial m.nonce m.chain m.sig = true →
    ∃ t, exec (.classConfirm m) s = .next t ∧
      (Config.chassisPermits m.chain m.cls = false → t.rd pwrBase F.PWR_CLASS_INFORCE = 2 ∧ t.rd pwrBase F.PWR_CLASS_RESULT = 3) ∧
      (Config.chassisPermits m.chain m.cls = true → s.pins.seen ≠ m.cls → t.rd pwrBase F.PWR_CLASS_INFORCE = 2 ∧
        t.rd pwrBase F.PWR_CLASS_RESULT = (if s.pins.seen = 3 ∧ m.cls = 2 then 1 else 2))) ∧
  (∀ (m : ClassMsg) (s : State), s.booted = true → (s.rd pwrBase F.PWR_CLASS_RESULT ≠ 0 ∨ s.classLate = true) →
    exec (.classConfirm m) s = .next (s.emit (.sideband false 0))) ∧
  (∀ (s : State), s.booted = true → s.rd pwrBase F.PWR_CLASS_RESULT = 0 → s.classLate = true →
    ∃ t, exec .classSettleTimeout s = .next t ∧ t.rd pwrBase F.PWR_CLASS_INFORCE = 2 ∧ t.rd pwrBase F.PWR_CLASS_RESULT = 5 ∧
      t.rd pwrBase F.PWR_CLASS_LIMIT_W = 1500)

/-- R455, R456: a cluster domain that nothing holds goes off with its cores' contents, a refused one is recorded; one that goes on ramps, and then its
cores are reset and zero-filled; a link complex follows its ENABLE bits. -/
def Obligations.PowerDomains : Prop :=
  (∀ (f : Func) (k : Cluster) (s : State), s.PF0Reaches f → s.rdBit pwrBase F.PWR_PDCTRL_CLUSTER_OFF k.val = false →
    s.offRefused k.val = false →
    ∃ t, exec (.clusterPowerOff f k) s = .next t ∧ t.rdBit pwrBase F.PWR_PDCTRL_CLUSTER_OFF k.val = true ∧
      t.rdBit pwrBase F.PWR_PDSTAT_ON k.val = false ∧
      ∀ c : PCore, t.core c = if s.enabled c && decide (clusterOf c = k) then CoreRec.reset else s.core c) ∧
  (∀ (f : Func) (k : Cluster) (s : State), s.PF0Reaches f → s.rdBit pwrBase F.PWR_PDCTRL_CLUSTER_OFF k.val = false →
    s.offRefused k.val = true →
    ∃ t, exec (.clusterPowerOff f k) s = .next t ∧ t.on pwrBase F.PWR_PDSTAT_REJ = true ∧ t.core = s.core ∧
      t.rdBit pwrBase F.PWR_PDCTRL_CLUSTER_OFF k.val = false) ∧
  (∀ (f : Func) (k : Cluster) (s : State), s.PF0Reaches f → s.rdBit pwrBase F.PWR_PDCTRL_CLUSTER_OFF k.val = true →
    ∃ t, exec (.clusterPowerOn f k) s = .next t ∧ t.rdBit pwrBase F.PWR_PDCTRL_CLUSTER_OFF k.val = false ∧
      t.pins.ramping = s.pins.ramping ++ [k.val] ∧ t.core = s.core) ∧
  (∀ (k : Cluster) (s : State), s.pins.ramping.contains k.val = true →
    ∃ t, exec (.domainRampComplete k) s = .next t ∧ t.rdBit pwrBase F.PWR_PDSTAT_ON k.val = true ∧ t.pins.ramping.contains k.val = false ∧
      ∀ c : PCore, s.enabled c = true → clusterOf c = k → t.resetting c = true ∧ (t.core c).wantFill = true) ∧
  (∀ (x : Sys2Proof.Complex) (s : State), s.booted = true → s.rdBit pwrBase F.PWR_PDSTAT_ON (16 + x.val) = true →
    ((∀ p ∈ complexPorts x, s.on (brdBase p) F.BRD_CTRL_ENABLE = false) ∨
      ∀ p ∈ complexPorts x, s.rd (brdBase p) F.BRD_STATUS_STATE ≠ 1 ∧ s.portUp p.val = false) → s.rd errBase F.ERR_LOGPTR_NEXT < 1024 →
    ∃ t, exec (.linkComplexDomainSwitch x) s = .next t ∧ t.rdBit pwrBase F.PWR_PDSTAT_ON (16 + x.val) = false ∧
      ∀ p ∈ complexPorts x, t.rd (brdBase p) F.BRD_STATUS_STATE = 0) ∧
  (∀ (x : Sys2Proof.Complex) (s : State), s.booted = true → s.rdBit pwrBase F.PWR_PDSTAT_ON (16 + x.val) = false →
    s.rdBit clkBase F.CLK_STATUS_LOCK (x.val / 2) = true → (∃ p ∈ complexPorts x, s.on (brdBase p) F.BRD_CTRL_ENABLE = true) → s.rd errBase F.ERR_LOGPTR_NEXT < 1024 →
    ∃ t, exec (.linkComplexDomainSwitch x) s = .next t ∧ t.rdBit pwrBase F.PWR_PDSTAT_ON (16 + x.val) = true)

/-! ### Reset and the invariant -/

/-- R283: GO, the host's or a doorbell's, copies the partition's seed into `SEQ_RNGSEED`; a write of `MSE_SEEDp` is taken at any time and leaves what
the cores copied. -/
def Obligations.GoCopiesSeed : Prop :=
  (∀ (f : Func) (c : PCore) (s : State), s.Reaches f c → s.inReset c = false → (s.core c).fillEnd = none → s.underTest c = false →
    (s.seqState c = 0 ∨ s.seqState c = 2 ∨ s.seqState c = 3) →
    ∃ t, exec (.seqGo f c) s = .next t ∧
      t.rd (coreBase c) F.SEQ_RNGSEED_SEED = s.rd mmemBase F.MSE_SEED_SEED (s.partOf c) % 2 ^ 64) ∧
  (∀ (f : Func) (p : Part) (v : BitVec 64) (s : State), s.hostReady = true → s.doorOk f p = true → s.exist p.val = true →
    s.partInReset p.val = false → bits v.toNat 12 16 = 0 → v.toNat.testBit 28 = true → s.testsPending p.val = false →
    ∃ t, exec (.doorbellGo f p v) s = .next t ∧ ∀ c, s.enabled c = true → s.partOf c = p.val → (s.seqState c = 0 ∨ s.seqState c = 3) →
      s.inReset c = false → (s.core c).fillEnd = none →
      t.rd (coreBase c) F.SEQ_RNGSEED_SEED = s.rd mmemBase F.MSE_SEED_SEED p.val % 2 ^ 64) ∧
  (∀ (f : Func) (p : Part) (v : Word64) (s : State), s.PF0Reaches f →
    ∃ t, exec (.registerWrite f (.reg (mmemBase + 0x300 + p.val * 8) 8) v) s = .next t ∧
      t.rd mmemBase F.MSE_SEED_SEED p.val = v.toNat ∧
      ∀ c : PCore, t.rd (coreBase c) F.SEQ_RNGSEED_SEED = s.rd (coreBase c) F.SEQ_RNGSEED_SEED)

/-- R371: a core reset leaves the scratchpad, the accumulator halves, both instruction-memory banks, `SPD_RESETDROP`, the router with its slot tables,
and the operations that picots have accepted: at its request, whether or not a task of the core aborts, and at its end, which also leaves the window
generations (the windows that close at the request raise theirs, R191). -/
def Obligations.CoreResetKeeps : Prop :=
  (∀ (f : Func) (c : PCore) (s : State), s.PF0Reaches f →
    ∃ t, exec (.resetCore f c) s = .next t ∧ t.mem = s.mem ∧ t.memReqs = s.memReqs ∧ t.net.tables = s.net.tables ∧
      t.net.flits = s.net.flits ∧ t.net.dst = s.net.dst ∧
      ∀ d : PCore, (t.core d).spad = (s.core d).spad ∧ (t.core d).acc = (s.core d).acc ∧ (t.core d).imem = (s.core d).imem ∧
        t.rd (spdBase d) F.SPD_RESETDROP_COUNT = s.rd (spdBase d) F.SPD_RESETDROP_COUNT) ∧
  (∀ (c : PCore) (s : State) (e : Nat), (s.core c).resetEnd = some e → e ≤ s.cycle → s.resetting c = true →
    (∀ i : Eng, (s.eng c i).issued = []) → s.localHeld c = false → (s.core c).wantFill = false →
    ∃ t, exec (.coreResetComplete c) s = .next t ∧ t.resetting c = false ∧ (t.core c).spad = (s.core c).spad ∧
      (t.core c).acc = (s.core c).acc ∧ (t.core c).imem = (s.core c).imem ∧
      (∀ w < 16, t.rd (spdBase c) F.SPD_WIN_B_GEN w = s.rd (spdBase c) F.SPD_WIN_B_GEN w) ∧
      t.rd (spdBase c) F.SPD_RESETDROP_COUNT = s.rd (spdBase c) F.SPD_RESETDROP_COUNT ∧ t.net = s.net ∧ t.mem = s.mem ∧
      ∀ k : Stack, t.memReqs[k].map (fun r => (r.part, r.op, r.addr)) = s.memReqs[k].map (fun r => (r.part, r.op, r.addr)))

/-- R10, R94, R123, R151, R363, R421, R472: what reset leaves: every core in state 0 with clear registers and flags, partition 0 owning every cluster,
BOOTSTATE 0, Class A; and the model's invariant. -/
def Obligations.ResetState : Prop :=
  (∀ c : PCore, State.reset.seqState c = 0 ∧ (∀ r < 32, State.reset.x c r = 0) ∧ (∀ f < 64, State.reset.flag c f = 0) ∧
    State.reset.queuesEmpty c = true ∧ (State.reset.core c).condZ = false ∧
    ∀ e : Eng, State.reset.rd (accBase c e) F.ACC_LIVE_LIVE = 0 ∧ State.reset.engState c e = 0) ∧
  (∀ k < 16, State.reset.ownerOfCluster k = 0) ∧ (∀ p : Part, State.reset.exist p.val = decide (p.val = 0)) ∧
  State.reset.rd secBase F.SEC_STATUS_BOOTSTATE = 0 ∧ State.reset.powerClass = 2 ∧ State.reset.rd pwrBase F.PWR_CLASS_LIMIT_W = 1500 ∧
  State.reset.rd clkBase F.CLK_STATUS_CORE_DIV = 12 ∧ State.reset.pending = [] ∧ State.reset.Inv

/-- The model's invariant, kept by every command from every state that has it; and R22's logical core numbers, which no command changes. -/
def Obligations.StepKeepsInvariant : Prop :=
  ∀ s t : State, s.Inv → step s = .next t → t.Inv ∧ (∀ c, t.logicalOf c = s.logicalOf c) ∧ ∀ n, t.physOf n = s.physOf n
end

