-- ==== Sys2Proof/Laws/State.lean ====
section
/-!
SUPPORT. One lemma for each field of the state and each of the basic updates (a register field, a core, the outside's list), true by
unfolding, so that no later proof unfolds a record update.
-/
namespace Sys2Proof.Machine

/-! Writing a register field leaves everything but the registers. -/
@[simp] theorem State.wr_pending (s : State) (b : Nat) (f : Fld) (v i : Nat) : (s.wr b f v i).pending = s.pending := rfl
@[simp] theorem State.wr_cycle (s : State) (b : Nat) (f : Fld) (v i : Nat) : (s.wr b f v i).cycle = s.cycle := rfl
@[simp] theorem State.wr_ticks (s : State) (b : Nat) (f : Fld) (v i : Nat) : (s.wr b f v i).ticks = s.ticks := rfl
@[simp] theorem State.wr_cores (s : State) (b : Nat) (f : Fld) (v i : Nat) : (s.wr b f v i).cores = s.cores := rfl
@[simp] theorem State.wr_disabled (s : State) (b : Nat) (f : Fld) (v i : Nat) : (s.wr b f v i).disabled = s.disabled := rfl
@[simp] theorem State.wr_coresDown (s : State) (b : Nat) (f : Fld) (v i : Nat) : (s.wr b f v i).coresDown = s.coresDown := rfl
@[simp] theorem State.wr_pages (s : State) (b : Nat) (f : Fld) (v i : Nat) : (s.wr b f v i).pages = s.pages := rfl
@[simp] theorem State.wr_funcs (s : State) (b : Nat) (f : Fld) (v i : Nat) : (s.wr b f v i).funcs = s.funcs := rfl
@[simp] theorem State.wr_vfEnable (s : State) (b : Nat) (f : Fld) (v i : Nat) : (s.wr b f v i).vfEnable = s.vfEnable := rfl
@[simp] theorem State.wr_hcache (s : State) (b : Nat) (f : Fld) (v i : Nat) : (s.wr b f v i).hcache = s.hcache := rfl
@[simp] theorem State.wr_cqs (s : State) (b : Nat) (f : Fld) (v i : Nat) : (s.wr b f v i).cqs = s.cqs := rfl
@[simp] theorem State.wr_parts (s : State) (b : Nat) (f : Fld) (v i : Nat) : (s.wr b f v i).parts = s.parts := rfl
@[simp] theorem State.wr_ports (s : State) (b : Nat) (f : Fld) (v i : Nat) : (s.wr b f v i).ports = s.ports := rfl
@[simp] theorem State.wr_rxNum (s : State) (b : Nat) (f : Fld) (v i : Nat) : (s.wr b f v i).rxNum = s.rxNum := rfl
@[simp] theorem State.wr_routes (s : State) (b : Nat) (f : Fld) (v i : Nat) : (s.wr b f v i).routes = s.routes := rfl
@[simp] theorem State.wr_branches (s : State) (b : Nat) (f : Fld) (v i : Nat) : (s.wr b f v i).branches = s.branches := rfl
@[simp] theorem State.wr_mcLines (s : State) (b : Nat) (f : Fld) (v i : Nat) : (s.wr b f v i).mcLines = s.mcLines := rfl
@[simp] theorem State.wr_mcSeen (s : State) (b : Nat) (f : Fld) (v i : Nat) : (s.wr b f v i).mcSeen = s.mcSeen := rfl
@[simp] theorem State.wr_bars (s : State) (b : Nat) (f : Fld) (v i : Nat) : (s.wr b f v i).bars = s.bars := rfl
@[simp] theorem State.wr_cables (s : State) (b : Nat) (f : Fld) (v i : Nat) : (s.wr b f v i).cables = s.cables := rfl
@[simp] theorem State.wr_receps (s : State) (b : Nat) (f : Fld) (v i : Nat) : (s.wr b f v i).receps = s.receps := rfl
@[simp] theorem State.wr_sigs (s : State) (b : Nat) (f : Fld) (v i : Nat) : (s.wr b f v i).sigs = s.sigs := rfl
@[simp] theorem State.wr_winReqs (s : State) (b : Nat) (f : Fld) (v i : Nat) : (s.wr b f v i).winReqs = s.winReqs := rfl
@[simp] theorem State.wr_creditMs (s : State) (b : Nat) (f : Fld) (v i : Nat) : (s.wr b f v i).creditMs = s.creditMs := rfl
@[simp] theorem State.wr_memReqs (s : State) (b : Nat) (f : Fld) (v i : Nat) : (s.wr b f v i).memReqs = s.memReqs := rfl
@[simp] theorem State.wr_arrivals (s : State) (b : Nat) (f : Fld) (v i : Nat) : (s.wr b f v i).arrivals = s.arrivals := rfl
@[simp] theorem State.wr_memResps (s : State) (b : Nat) (f : Fld) (v i : Nat) : (s.wr b f v i).memResps = s.memResps := rfl
@[simp] theorem State.wr_mem (s : State) (b : Nat) (f : Fld) (v i : Nat) : (s.wr b f v i).mem = s.mem := rfl
@[simp] theorem State.wr_mir (s : State) (b : Nat) (f : Fld) (v i : Nat) : (s.wr b f v i).mir = s.mir := rfl
@[simp] theorem State.wr_net (s : State) (b : Nat) (f : Fld) (v i : Nat) : (s.wr b f v i).net = s.net := rfl
@[simp] theorem State.wr_mapLock (s : State) (b : Nat) (f : Fld) (v i : Nat) : (s.wr b f v i).mapLock = s.mapLock := rfl
@[simp] theorem State.wr_quar (s : State) (b : Nat) (f : Fld) (v i : Nat) : (s.wr b f v i).quar = s.quar := rfl
@[simp] theorem State.wr_corrHour (s : State) (b : Nat) (f : Fld) (v i : Nat) : (s.wr b f v i).corrHour = s.corrHour := rfl
@[simp] theorem State.wr_hourAt (s : State) (b : Nat) (f : Fld) (v i : Nat) : (s.wr b f v i).hourAt = s.hourAt := rfl
@[simp] theorem State.wr_patrolAt (s : State) (b : Nat) (f : Fld) (v i : Nat) : (s.wr b f v i).patrolAt = s.patrolAt := rfl
@[simp] theorem State.wr_hdm (s : State) (b : Nat) (f : Fld) (v i : Nat) : (s.wr b f v i).hdm = s.hdm := rfl
@[simp] theorem State.wr_partCmd (s : State) (b : Nat) (f : Fld) (v i : Nat) : (s.wr b f v i).partCmd = s.partCmd := rfl
@[simp] theorem State.wr_hostReset (s : State) (b : Nat) (f : Fld) (v i : Nat) : (s.wr b f v i).hostReset = s.hostReset := rfl
@[simp] theorem State.wr_held (s : State) (b : Nat) (f : Fld) (v i : Nat) : (s.wr b f v i).held = s.held := rfl
@[simp] theorem State.wr_stores (s : State) (b : Nat) (f : Fld) (v i : Nat) : (s.wr b f v i).stores = s.stores := rfl
@[simp] theorem State.wr_fills (s : State) (b : Nat) (f : Fld) (v i : Nat) : (s.wr b f v i).fills = s.fills := rfl
@[simp] theorem State.wr_fillQ (s : State) (b : Nat) (f : Fld) (v i : Nat) : (s.wr b f v i).fillQ = s.fillQ := rfl
@[simp] theorem State.wr_fillRx (s : State) (b : Nat) (f : Fld) (v i : Nat) : (s.wr b f v i).fillRx = s.fillRx := rfl
@[simp] theorem State.wr_boot (s : State) (b : Nat) (f : Fld) (v i : Nat) : (s.wr b f v i).boot = s.boot := rfl
@[simp] theorem State.wr_report (s : State) (b : Nat) (f : Fld) (v i : Nat) : (s.wr b f v i).report = s.report := rfl
@[simp] theorem State.wr_ide (s : State) (b : Nat) (f : Fld) (v i : Nat) : (s.wr b f v i).ide = s.ide := rfl
@[simp] theorem State.wr_ideSkid (s : State) (b : Nat) (f : Fld) (v i : Nat) : (s.wr b f v i).ideSkid = s.ideSkid := rfl
@[simp] theorem State.wr_pins (s : State) (b : Nat) (f : Fld) (v i : Nat) : (s.wr b f v i).pins = s.pins := rfl
@[simp] theorem State.wr_gov (s : State) (b : Nat) (f : Fld) (v i : Nat) : (s.wr b f v i).gov = s.gov := rfl
@[simp] theorem State.wr_fatalLog (s : State) (b : Nat) (f : Fld) (v i : Nat) : (s.wr b f v i).fatalLog = s.fatalLog := rfl
@[simp] theorem State.wr_out (s : State) (b : Nat) (f : Fld) (v i : Nat) : (s.wr b f v i).out = s.out := rfl
@[simp] theorem State.wr_free (s : State) (b : Nat) (f : Fld) (v i : Nat) : (s.wr b f v i).free = s.free := rfl

/-! Changing a core leaves everything but the cores. -/
@[simp] theorem State.onCore_pending (s : State) (c : PCore) (f : CoreRec → CoreRec) : (s.onCore c f).pending = s.pending := rfl
@[simp] theorem State.onCore_cycle (s : State) (c : PCore) (f : CoreRec → CoreRec) : (s.onCore c f).cycle = s.cycle := rfl
@[simp] theorem State.onCore_ticks (s : State) (c : PCore) (f : CoreRec → CoreRec) : (s.onCore c f).ticks = s.ticks := rfl
@[simp] theorem State.onCore_regs (s : State) (c : PCore) (f : CoreRec → CoreRec) : (s.onCore c f).regs = s.regs := rfl
@[simp] theorem State.onCore_disabled (s : State) (c : PCore) (f : CoreRec → CoreRec) : (s.onCore c f).disabled = s.disabled := rfl
@[simp] theorem State.onCore_coresDown (s : State) (c : PCore) (f : CoreRec → CoreRec) : (s.onCore c f).coresDown = s.coresDown := rfl
@[simp] theorem State.onCore_pages (s : State) (c : PCore) (f : CoreRec → CoreRec) : (s.onCore c f).pages = s.pages := rfl
@[simp] theorem State.onCore_funcs (s : State) (c : PCore) (f : CoreRec → CoreRec) : (s.onCore c f).funcs = s.funcs := rfl
@[simp] theorem State.onCore_vfEnable (s : State) (c : PCore) (f : CoreRec → CoreRec) : (s.onCore c f).vfEnable = s.vfEnable := rfl
@[simp] theorem State.onCore_hcache (s : State) (c : PCore) (f : CoreRec → CoreRec) : (s.onCore c f).hcache = s.hcache := rfl
@[simp] theorem State.onCore_cqs (s : State) (c : PCore) (f : CoreRec → CoreRec) : (s.onCore c f).cqs = s.cqs := rfl
@[simp] theorem State.onCore_parts (s : State) (c : PCore) (f : CoreRec → CoreRec) : (s.onCore c f).parts = s.parts := rfl
@[simp] theorem State.onCore_ports (s : State) (c : PCore) (f : CoreRec → CoreRec) : (s.onCore c f).ports = s.ports := rfl
@[simp] theorem State.onCore_rxNum (s : State) (c : PCore) (f : CoreRec → CoreRec) : (s.onCore c f).rxNum = s.rxNum := rfl
@[simp] theorem State.onCore_routes (s : State) (c : PCore) (f : CoreRec → CoreRec) : (s.onCore c f).routes = s.routes := rfl
@[simp] theorem State.onCore_branches (s : State) (c : PCore) (f : CoreRec → CoreRec) : (s.onCore c f).branches = s.branches := rfl
@[simp] theorem State.onCore_mcLines (s : State) (c : PCore) (f : CoreRec → CoreRec) : (s.onCore c f).mcLines = s.mcLines := rfl
@[simp] theorem State.onCore_mcSeen (s : State) (c : PCore) (f : CoreRec → CoreRec) : (s.onCore c f).mcSeen = s.mcSeen := rfl
@[simp] theorem State.onCore_bars (s : State) (c : PCore) (f : CoreRec → CoreRec) : (s.onCore c f).bars = s.bars := rfl
@[simp] theorem State.onCore_cables (s : State) (c : PCore) (f : CoreRec → CoreRec) : (s.onCore c f).cables = s.cables := rfl
@[simp] theorem State.onCore_receps (s : State) (c : PCore) (f : CoreRec → CoreRec) : (s.onCore c f).receps = s.receps := rfl
@[simp] theorem State.onCore_sigs (s : State) (c : PCore) (f : CoreRec → CoreRec) : (s.onCore c f).sigs = s.sigs := rfl
@[simp] theorem State.onCore_winReqs (s : State) (c : PCore) (f : CoreRec → CoreRec) : (s.onCore c f).winReqs = s.winReqs := rfl
@[simp] theorem State.onCore_creditMs (s : State) (c : PCore) (f : CoreRec → CoreRec) : (s.onCore c f).creditMs = s.creditMs := rfl
@[simp] theorem State.onCore_memReqs (s : State) (c : PCore) (f : CoreRec → CoreRec) : (s.onCore c f).memReqs = s.memReqs := rfl
@[simp] theorem State.onCore_arrivals (s : State) (c : PCore) (f : CoreRec → CoreRec) : (s.onCore c f).arrivals = s.arrivals := rfl
@[simp] theorem State.onCore_memResps (s : State) (c : PCore) (f : CoreRec → CoreRec) : (s.onCore c f).memResps = s.memResps := rfl
@[simp] theorem State.onCore_mem (s : State) (c : PCore) (f : CoreRec → CoreRec) : (s.onCore c f).mem = s.mem := rfl
@[simp] theorem State.onCore_mir (s : State) (c : PCore) (f : CoreRec → CoreRec) : (s.onCore c f).mir = s.mir := rfl
@[simp] theorem State.onCore_net (s : State) (c : PCore) (f : CoreRec → CoreRec) : (s.onCore c f).net = s.net := rfl
@[simp] theorem State.onCore_mapLock (s : State) (c : PCore) (f : CoreRec → CoreRec) : (s.onCore c f).mapLock = s.mapLock := rfl
@[simp] theorem State.onCore_quar (s : State) (c : PCore) (f : CoreRec → CoreRec) : (s.onCore c f).quar = s.quar := rfl
@[simp] theorem State.onCore_corrHour (s : State) (c : PCore) (f : CoreRec → CoreRec) : (s.onCore c f).corrHour = s.corrHour := rfl
@[simp] theorem State.onCore_hourAt (s : State) (c : PCore) (f : CoreRec → CoreRec) : (s.onCore c f).hourAt = s.hourAt := rfl
@[simp] theorem State.onCore_patrolAt (s : State) (c : PCore) (f : CoreRec → CoreRec) : (s.onCore c f).patrolAt = s.patrolAt := rfl
@[simp] theorem State.onCore_hdm (s : State) (c : PCore) (f : CoreRec → CoreRec) : (s.onCore c f).hdm = s.hdm := rfl
@[simp] theorem State.onCore_partCmd (s : State) (c : PCore) (f : CoreRec → CoreRec) : (s.onCore c f).partCmd = s.partCmd := rfl
@[simp] theorem State.onCore_hostReset (s : State) (c : PCore) (f : CoreRec → CoreRec) : (s.onCore c f).hostReset = s.hostReset := rfl
@[simp] theorem State.onCore_held (s : State) (c : PCore) (f : CoreRec → CoreRec) : (s.onCore c f).held = s.held := rfl
@[simp] theorem State.onCore_stores (s : State) (c : PCore) (f : CoreRec → CoreRec) : (s.onCore c f).stores = s.stores := rfl
@[simp] theorem State.onCore_fills (s : State) (c : PCore) (f : CoreRec → CoreRec) : (s.onCore c f).fills = s.fills := rfl
@[simp] theorem State.onCore_fillQ (s : State) (c : PCore) (f : CoreRec → CoreRec) : (s.onCore c f).fillQ = s.fillQ := rfl
@[simp] theorem State.onCore_fillRx (s : State) (c : PCore) (f : CoreRec → CoreRec) : (s.onCore c f).fillRx = s.fillRx := rfl
@[simp] theorem State.onCore_boot (s : State) (c : PCore) (f : CoreRec → CoreRec) : (s.onCore c f).boot = s.boot := rfl
@[simp] theorem State.onCore_report (s : State) (c : PCore) (f : CoreRec → CoreRec) : (s.onCore c f).report = s.report := rfl
@[simp] theorem State.onCore_ide (s : State) (c : PCore) (f : CoreRec → CoreRec) : (s.onCore c f).ide = s.ide := rfl
@[simp] theorem State.onCore_ideSkid (s : State) (c : PCore) (f : CoreRec → CoreRec) : (s.onCore c f).ideSkid = s.ideSkid := rfl
@[simp] theorem State.onCore_pins (s : State) (c : PCore) (f : CoreRec → CoreRec) : (s.onCore c f).pins = s.pins := rfl
@[simp] theorem State.onCore_gov (s : State) (c : PCore) (f : CoreRec → CoreRec) : (s.onCore c f).gov = s.gov := rfl
@[simp] theorem State.onCore_fatalLog (s : State) (c : PCore) (f : CoreRec → CoreRec) : (s.onCore c f).fatalLog = s.fatalLog := rfl
@[simp] theorem State.onCore_out (s : State) (c : PCore) (f : CoreRec → CoreRec) : (s.onCore c f).out = s.out := rfl
@[simp] theorem State.onCore_free (s : State) (c : PCore) (f : CoreRec → CoreRec) : (s.onCore c f).free = s.free := rfl

/-! Sending something leaves everything but the list of what has been sent. -/
@[simp] theorem State.emit_pending (s : State) (o : Out) : (s.emit o).pending = s.pending := rfl
@[simp] theorem State.emit_cycle (s : State) (o : Out) : (s.emit o).cycle = s.cycle := rfl
@[simp] theorem State.emit_ticks (s : State) (o : Out) : (s.emit o).ticks = s.ticks := rfl
@[simp] theorem State.emit_regs (s : State) (o : Out) : (s.emit o).regs = s.regs := rfl
@[simp] theorem State.emit_cores (s : State) (o : Out) : (s.emit o).cores = s.cores := rfl
@[simp] theorem State.emit_disabled (s : State) (o : Out) : (s.emit o).disabled = s.disabled := rfl
@[simp] theorem State.emit_coresDown (s : State) (o : Out) : (s.emit o).coresDown = s.coresDown := rfl
@[simp] theorem State.emit_pages (s : State) (o : Out) : (s.emit o).pages = s.pages := rfl
@[simp] theorem State.emit_funcs (s : State) (o : Out) : (s.emit o).funcs = s.funcs := rfl
@[simp] theorem State.emit_vfEnable (s : State) (o : Out) : (s.emit o).vfEnable = s.vfEnable := rfl
@[simp] theorem State.emit_hcache (s : State) (o : Out) : (s.emit o).hcache = s.hcache := rfl
@[simp] theorem State.emit_cqs (s : State) (o : Out) : (s.emit o).cqs = s.cqs := rfl
@[simp] theorem State.emit_parts (s : State) (o : Out) : (s.emit o).parts = s.parts := rfl
@[simp] theorem State.emit_ports (s : State) (o : Out) : (s.emit o).ports = s.ports := rfl
@[simp] theorem State.emit_rxNum (s : State) (o : Out) : (s.emit o).rxNum = s.rxNum := rfl
@[simp] theorem State.emit_routes (s : State) (o : Out) : (s.emit o).routes = s.routes := rfl
@[simp] theorem State.emit_branches (s : State) (o : Out) : (s.emit o).branches = s.branches := rfl
@[simp] theorem State.emit_mcLines (s : State) (o : Out) : (s.emit o).mcLines = s.mcLines := rfl
@[simp] theorem State.emit_mcSeen (s : State) (o : Out) : (s.emit o).mcSeen = s.mcSeen := rfl
@[simp] theorem State.emit_bars (s : State) (o : Out) : (s.emit o).bars = s.bars := rfl
@[simp] theorem State.emit_cables (s : State) (o : Out) : (s.emit o).cables = s.cables := rfl
@[simp] theorem State.emit_receps (s : State) (o : Out) : (s.emit o).receps = s.receps := rfl
@[simp] theorem State.emit_sigs (s : State) (o : Out) : (s.emit o).sigs = s.sigs := rfl
@[simp] theorem State.emit_winReqs (s : State) (o : Out) : (s.emit o).winReqs = s.winReqs := rfl
@[simp] theorem State.emit_creditMs (s : State) (o : Out) : (s.emit o).creditMs = s.creditMs := rfl
@[simp] theorem State.emit_memReqs (s : State) (o : Out) : (s.emit o).memReqs = s.memReqs := rfl
@[simp] theorem State.emit_arrivals (s : State) (o : Out) : (s.emit o).arrivals = s.arrivals := rfl
@[simp] theorem State.emit_memResps (s : State) (o : Out) : (s.emit o).memResps = s.memResps := rfl
@[simp] theorem State.emit_mem (s : State) (o : Out) : (s.emit o).mem = s.mem := rfl
@[simp] theorem State.emit_mir (s : State) (o : Out) : (s.emit o).mir = s.mir := rfl
@[simp] theorem State.emit_net (s : State) (o : Out) : (s.emit o).net = s.net := rfl
@[simp] theorem State.emit_mapLock (s : State) (o : Out) : (s.emit o).mapLock = s.mapLock := rfl
@[simp] theorem State.emit_quar (s : State) (o : Out) : (s.emit o).quar = s.quar := rfl
@[simp] theorem State.emit_corrHour (s : State) (o : Out) : (s.emit o).corrHour = s.corrHour := rfl
@[simp] theorem State.emit_hourAt (s : State) (o : Out) : (s.emit o).hourAt = s.hourAt := rfl
@[simp] theorem State.emit_patrolAt (s : State) (o : Out) : (s.emit o).patrolAt = s.patrolAt := rfl
@[simp] theorem State.emit_hdm (s : State) (o : Out) : (s.emit o).hdm = s.hdm := rfl
@[simp] theorem State.emit_partCmd (s : State) (o : Out) : (s.emit o).partCmd = s.partCmd := rfl
@[simp] theorem State.emit_hostReset (s : State) (o : Out) : (s.emit o).hostReset = s.hostReset := rfl
@[simp] theorem State.emit_held (s : State) (o : Out) : (s.emit o).held = s.held := rfl
@[simp] theorem State.emit_stores (s : State) (o : Out) : (s.emit o).stores = s.stores := rfl
@[simp] theorem State.emit_fills (s : State) (o : Out) : (s.emit o).fills = s.fills := rfl
@[simp] theorem State.emit_fillQ (s : State) (o : Out) : (s.emit o).fillQ = s.fillQ := rfl
@[simp] theorem State.emit_fillRx (s : State) (o : Out) : (s.emit o).fillRx = s.fillRx := rfl
@[simp] theorem State.emit_boot (s : State) (o : Out) : (s.emit o).boot = s.boot := rfl
@[simp] theorem State.emit_report (s : State) (o : Out) : (s.emit o).report = s.report := rfl
@[simp] theorem State.emit_ide (s : State) (o : Out) : (s.emit o).ide = s.ide := rfl
@[simp] theorem State.emit_ideSkid (s : State) (o : Out) : (s.emit o).ideSkid = s.ideSkid := rfl
@[simp] theorem State.emit_pins (s : State) (o : Out) : (s.emit o).pins = s.pins := rfl
@[simp] theorem State.emit_gov (s : State) (o : Out) : (s.emit o).gov = s.gov := rfl
@[simp] theorem State.emit_fatalLog (s : State) (o : Out) : (s.emit o).fatalLog = s.fatalLog := rfl
@[simp] theorem State.emit_free (s : State) (o : Out) : (s.emit o).free = s.free := rfl
@[simp] theorem State.emit_out (s : State) (o : Out) : (s.emit o).out = s.out ++ [o] := rfl

end Sys2Proof.Machine
end

