-- ==== Sys2Proof/Laws/Store.lean ====
section
/-!
SUPPORT. Laws of sparse maps: a read after a write gives the value written, a write leaves every other key, and every operation keeps
the canonical form.
-/
namespace Sys2Proof

variable {ν : Type}

theorem SMap.get_put (d : ν) (m : SMap ν) (k j : Nat) (v : ν) :
    SMap.get d (SMap.put k v m) j = if j = k then v else SMap.get d m j := by
  induction m with
  | nil => simp [SMap.put, SMap.get]
  | cons e m ih =>
    obtain ⟨a, w⟩ := e
    simp only [SMap.put]
    split
    · simp only [SMap.get]
    · split
      · subst_vars; simp only [SMap.get]; split <;> rfl
      · simp only [SMap.get, ih]
        split <;> split <;> first | rfl | (exfalso; omega)

theorem SMap.get_del (d : ν) (m : SMap ν) (k j : Nat) :
    SMap.get d (SMap.del k m) j = if j = k then d else SMap.get d m j := by
  induction m with
  | nil => simp [SMap.del, SMap.get]
  | cons e m ih =>
    obtain ⟨a, w⟩ := e
    simp only [SMap.del]
    split
    · subst_vars; simp only [SMap.get, ih]; split <;> rfl
    · simp only [SMap.get, ih]
      split <;> split <;> first | rfl | (exfalso; omega)

/-- A read after a write: the value written at its key, the old value at every other. -/
theorem SMap.get_set [DecidableEq ν] (d : ν) (m : SMap ν) (k j : Nat) (v : ν) :
    SMap.get d (SMap.set d m k v) j = if j = k then v else SMap.get d m j := by
  unfold SMap.set
  split
  · rw [SMap.get_del]; subst_vars; rfl
  · rw [SMap.get_put]

@[simp] theorem SMap.get_set_same [DecidableEq ν] (d : ν) (m : SMap ν) (k : Nat) (v : ν) :
    SMap.get d (SMap.set d m k v) k = v := by simp [SMap.get_set]

theorem SMap.get_set_ne [DecidableEq ν] (d : ν) (m : SMap ν) {k j : Nat} (v : ν) (h : j ≠ k) :
    SMap.get d (SMap.set d m k v) j = SMap.get d m j := by simp [SMap.get_set, h]

theorem SMap.wfFrom_mono [DecidableEq ν] (d : ν) {m : SMap ν} {lo lo' : Nat} (h : SMap.wfFrom d lo m = true) (hl : lo' ≤ lo) :
    SMap.wfFrom d lo' m = true := by
  cases m with
  | nil => rfl
  | cons e m => simp [SMap.wfFrom] at h ⊢; exact ⟨⟨by omega, h.1.2⟩, h.2⟩

theorem SMap.wfFrom_put [DecidableEq ν] (d : ν) (k : Nat) (v : ν) (hv : v ≠ d) :
    ∀ (m : SMap ν) (lo : Nat), SMap.wfFrom d lo m = true → lo ≤ k → SMap.wfFrom d lo (SMap.put k v m) = true := by
  intro m
  induction m with
  | nil => intro lo _ hk; simp [SMap.put, SMap.wfFrom, hk, hv]
  | cons e m ih =>
    obtain ⟨a, w⟩ := e
    intro lo h hk
    simp only [SMap.wfFrom, Bool.and_eq_true, decide_eq_true_eq] at h
    simp only [SMap.put]
    split
    · simp only [SMap.wfFrom, Bool.and_eq_true, decide_eq_true_eq]
      exact ⟨⟨hk, hv⟩, ⟨by omega, h.1.2⟩, h.2⟩
    · split
      · subst_vars; simp only [SMap.wfFrom, Bool.and_eq_true, decide_eq_true_eq]; exact ⟨⟨hk, hv⟩, h.2⟩
      · simp only [SMap.wfFrom, Bool.and_eq_true, decide_eq_true_eq]
        exact ⟨h.1, ih (a + 1) h.2 (by omega)⟩

theorem SMap.wfFrom_del [DecidableEq ν] (d : ν) (k : Nat) :
    ∀ (m : SMap ν) (lo : Nat), SMap.wfFrom d lo m = true → SMap.wfFrom d lo (SMap.del k m) = true := by
  intro m
  induction m with
  | nil => intro lo _; rfl
  | cons e m ih =>
    obtain ⟨a, w⟩ := e
    intro lo h
    simp only [SMap.wfFrom, Bool.and_eq_true, decide_eq_true_eq] at h
    simp only [SMap.del]
    split
    · exact ih lo (SMap.wfFrom_mono d h.2 (by omega))
    · simp only [SMap.wfFrom, Bool.and_eq_true, decide_eq_true_eq]; exact ⟨h.1, ih _ h.2⟩

/-- A write keeps the canonical form. -/
theorem SMap.wf_set [DecidableEq ν] (d : ν) (m : SMap ν) (k : Nat) (v : ν) (h : SMap.wf d m = true) :
    SMap.wf d (SMap.set d m k v) = true := by
  unfold SMap.set SMap.wf at *
  split
  · exact SMap.wfFrom_del d k m 0 h
  · exact SMap.wfFrom_put d k v (by assumption) m 0 h (Nat.zero_le _)

theorem SMap.wfFrom_filter [DecidableEq ν] (d : ν) (p : Nat × ν → Bool) :
    ∀ (m : SMap ν) (lo : Nat), SMap.wfFrom d lo m = true → SMap.wfFrom d lo (m.filter p) = true := by
  intro m
  induction m with
  | nil => intro lo _; rfl
  | cons e m ih =>
    obtain ⟨a, w⟩ := e
    intro lo h
    simp only [SMap.wfFrom, Bool.and_eq_true, decide_eq_true_eq] at h
    simp only [List.filter]
    split
    · simp only [SMap.wfFrom, Bool.and_eq_true, decide_eq_true_eq]; exact ⟨h.1, ih _ h.2⟩
    · exact ih lo (SMap.wfFrom_mono d h.2 (by omega))

/-- Taking out a range of keys keeps the canonical form. -/
theorem SMap.wf_wipe [DecidableEq ν] (d : ν) (p : Nat → Bool) (m : SMap ν) (h : SMap.wf d m = true) :
    SMap.wf d (SMap.wipe p m) = true := SMap.wfFrom_filter d _ m 0 h

theorem SMap.wf_nil [DecidableEq ν] (d : ν) : SMap.wf d ([] : SMap ν) = true := rfl

/-- Writing bytes keeps the canonical form. -/
theorem wf_writeBytes (bs : List Byte) : ∀ (m : SMap Byte) (a : Nat), SMap.wf 0 m = true → SMap.wf 0 (writeBytes m a bs) = true := by
  induction bs with
  | nil => intro m a h; exact h
  | cons b bs ih => intro m a h; exact ih _ _ (SMap.wf_set 0 m a b h)

/-- A byte after a write of bytes: the byte written where the address lies among them, the old byte elsewhere. -/
theorem get_writeBytes (bs : List Byte) : ∀ (m : SMap Byte) (a j : Nat),
    SMap.get 0 (writeBytes m a bs) j = if a ≤ j ∧ j < a + bs.length then bs.getD (j - a) 0 else SMap.get 0 m j := by
  induction bs with
  | nil => intro m a j; rw [if_neg (by simp only [List.length_nil]; omega)]; rfl
  | cons b bs ih =>
    intro m a j
    simp only [writeBytes, ih, List.length_cons]
    by_cases h1 : j = a
    · subst h1; rw [if_neg (by omega), if_pos ⟨Nat.le_refl _, by omega⟩]; simp
    · by_cases h2 : a + 1 ≤ j ∧ j < a + 1 + bs.length
      · rw [if_pos h2, if_pos (by omega)]
        obtain ⟨n, rfl⟩ : ∃ n, j = a + 1 + n := ⟨j - (a + 1), by omega⟩
        have e1 : a + 1 + n - (a + 1) = n := by omega
        have e2 : a + 1 + n - a = n + 1 := by omega
        rw [e1, e2]; rfl
      · rw [if_neg h2, if_neg (by omega), SMap.get_set_ne 0 m b h1]

end Sys2Proof
end

