-- ==== Sys2Proof/Laws/Ops.lean ====
section
/-!
SUPPORT. Laws of the named operations: register fields, cores, counters, scalar registers, flags, and who reaches what.
-/
namespace Sys2Proof.Machine

/-! ### Register fields -/

/-- What a field reads as after a write of one: the value where they are the same field. -/
theorem State.rd_wr (s : State) (b : Nat) (f : Fld) (v i b' : Nat) (f' : Fld) (i' : Nat) :
    (s.wr b f v i).rd b' f' i' = if fkey b' f' i' = fkey b f i then (v % 2 ^ f.w ^^^ f.rst) ^^^ f'.rst else s.rd b' f' i' := by
  simp only [State.rd, State.wr, SMap.get_set]; split <;> rfl

@[simp] theorem State.rd_wr_same (s : State) (b : Nat) (f : Fld) (v i : Nat) : (s.wr b f v i).rd b f i = v % 2 ^ f.w := by
  rw [State.rd_wr, if_pos rfl, Nat.xor_assoc, Nat.xor_self, Nat.xor_zero]

/-- A write of a field leaves every field at another bit address. -/
theorem State.rd_wr_ne (s : State) {b : Nat} {f : Fld} {i b' : Nat} {f' : Fld} {i' : Nat} (v : Nat)
    (h : fkey b' f' i' ≠ fkey b f i) : (s.wr b f v i).rd b' f' i' = s.rd b' f' i' := by
  rw [State.rd_wr, if_neg h]

@[simp] theorem State.rd_onCore (s : State) (c : PCore) (g : CoreRec → CoreRec) (b : Nat) (f : Fld) (i : Nat) :
    (s.onCore c g).rd b f i = s.rd b f i := rfl

@[simp] theorem State.rd_emit (s : State) (o : Out) (b : Nat) (f : Fld) (i : Nat) : (s.emit o).rd b f i = s.rd b f i := rfl

/-- A register write keeps the canonical form of the register file. -/
theorem State.wf_wr (s : State) (b : Nat) (f : Fld) (v i : Nat) (h : SMap.wf 0 s.regs = true) :
    SMap.wf 0 (s.wr b f v i).regs = true := SMap.wf_set 0 s.regs _ _ h

/-- Returning a range of registers to reset keeps the canonical form. -/
theorem State.wf_resetRange (s : State) (lo hi : Nat) (k : Nat → Bool) (h : SMap.wf 0 s.regs = true) :
    SMap.wf 0 (s.resetRange lo hi k).regs = true := by
  have := SMap.wf_wipe 0 (fun x => decide (lo * 8 ≤ x) && decide (x < hi * 8) && !k x) s.regs h
  exact this

/-! ### Cores -/

@[simp] theorem vupd_get_same {α : Type} {n : Nat} (v : Vector α n) (i : Fin n) (f : α → α) : (vupd v i f)[i] = f v[i] := by
  simp [vupd]

theorem vupd_get_ne {α : Type} {n : Nat} (v : Vector α n) {i j : Fin n} (f : α → α) (h : j ≠ i) : (vupd v i f)[j] = v[j] := by
  have : i.val ≠ j.val := fun e => h (Fin.ext e.symm)
  simp [vupd, this]

@[simp] theorem State.core_wr (s : State) (b : Nat) (f : Fld) (v i : Nat) (c : PCore) : (s.wr b f v i).core c = s.core c := rfl

@[simp] theorem State.core_emit (s : State) (o : Out) (c : PCore) : (s.emit o).core c = s.core c := rfl

@[simp] theorem State.core_onCore (s : State) (c : PCore) (f : CoreRec → CoreRec) : (s.onCore c f).core c = f (s.core c) :=
  vupd_get_same s.cores c f

/-- Changing one core leaves every other. -/
theorem State.core_onCore_ne (s : State) {c d : PCore} (f : CoreRec → CoreRec) (h : d ≠ c) : (s.onCore c f).core d = s.core d :=
  vupd_get_ne s.cores f h

/-! ### Scalar registers and flags -/

/-- x0 reads as zero. -/
@[simp] theorem State.x_zero (s : State) (c : PCore) : s.x c 0 = 0 := rfl

/-- A write of x0 is discarded. -/
@[simp] theorem State.setX_zero (s : State) (c : PCore) (v : Word64) : s.setX c 0 v = s := rfl

/-- A scalar register other than x0 reads as what was written. -/
theorem State.x_setX (s : State) (c : PCore) {r : Nat} (v : Word64) (h : r ≠ 0) : (s.setX c r v).x c r = v := by
  have hv : v.toNat % 2 ^ 64 = v.toNat := Nat.mod_eq_of_lt v.isLt
  have : ((s.wr (coreBase c) F.SEQ_X_VALUE v.toNat r).rd (coreBase c) F.SEQ_X_VALUE r) = v.toNat := by
    rw [State.rd_wr_same]; exact hv
  simp [State.x, State.setX, h, this]

@[simp] theorem State.core_setX (s : State) (c d : PCore) (r : Nat) (v : Word64) : (s.setX c r v).core d = s.core d := by
  unfold State.setX; split <;> rfl

/-! ### Who reaches what -/

/-- Everything a host access to a core's slot can do: nothing before the host is ready or where the core does not answer, a
recorded refusal without the core's authority, and otherwise the access. -/
theorem State.asCore_cases (s : State) (f : Func) (c : PCore) (kind : AccKind) (addr : Nat) (k : State → State) :
    (s.hostReady = false ∧ s.asCore f c kind addr k = s) ∨
    (s.hostReady = true ∧ s.authority f ≠ some (s.partOf c) ∧ s.asCore f c kind addr k = s.authReject f kind addr) ∨
    (s.hostReady = true ∧ s.authority f = some (s.partOf c) ∧ s.answers c = false ∧ s.asCore f c kind addr k = s) ∨
    (s.hostReady = true ∧ s.authority f = some (s.partOf c) ∧ s.answers c = true ∧ s.asCore f c kind addr k = k s) := by
  unfold State.asCore
  cases hr : s.hostReady <;> simp
  by_cases ha : s.authority f = some (s.partOf c)
  · cases hs : s.answers c <;> simp [ha]
  · simp [ha]

/-- Everything a host access to a module-level block can do. -/
theorem State.asPF0_cases (s : State) (f : Func) (addr : Nat) (k : State → State) :
    (s.hostReady = false ∧ s.asPF0 f addr k = s) ∨
    (s.hostReady = true ∧ f.val ≠ 0 ∧ s.asPF0 f addr k = s.authReject f .register addr) ∨
    (s.hostReady = true ∧ f.val = 0 ∧ s.asPF0 f addr k = k s) := by
  unfold State.asPF0
  by_cases hr : s.hostReady = true
  · by_cases h : f.val = 0
    · exact .inr (.inr ⟨hr, h, by simp [hr, h]⟩)
    · exact .inr (.inl ⟨hr, h, by simp [hr, h]⟩)
  · exact .inl ⟨by simpa using hr, by simp [hr]⟩

end Sys2Proof.Machine
end

