-- ==== Sys2Proof/Laws/Memory.lean ====
section
/-!
SUPPORT. Laws of memory: every operation on HBM and on a scratchpad keeps the canonical form (`Memory.wf`), the reset memory has it, and what a
write of bytes leaves.
-/
namespace Sys2Proof.Machine

/-- A fold of steps that keep `g` keeps `g`. -/
theorem foldl_keeps {α β γ : Type} (g : β → γ) (f : β → α → β) (h : ∀ b a, g (f b a) = g b) (l : List α) :
    ∀ b, g (l.foldl f b) = g b := by
  induction l with
  | nil => intro b; rfl
  | cons a l ih => intro b; exact (ih (f b a)).trans (h b a)

/-- A fold of steps that keep a property keeps it. -/
theorem foldl_holds {α β : Type} (p : β → Prop) (f : β → α → β) (h : ∀ b a, p b → p (f b a)) (l : List α) :
    ∀ b, p b → p (l.foldl f b) := by
  induction l with
  | nil => intro b hb; exact hb
  | cons a l ih => intro b hb; exact ih _ (h b a hb)

/-! ### Sending and recording change no memory -/

@[simp] theorem State.mem_onCore (s : State) (c : PCore) (f : CoreRec → CoreRec) : (s.onCore c f).mem = s.mem := rfl
@[simp] theorem State.mem_onMir (s : State) (p : Part) (f : MirRec → MirRec) : (s.onMir p f).mem = s.mem := rfl
@[simp] theorem State.mem_emit (s : State) (o : Out) : (s.emit o).mem = s.mem := rfl
@[simp] theorem State.mem_count (s : State) (b : Nat) (f : Fld) (n i : Nat) : (s.count b f n i).mem = s.mem := rfl
@[simp] theorem State.mem_sat (s : State) (b : Nat) (f : Fld) (n i : Nat) : (s.sat b f n i).mem = s.mem := rfl

/-- A vector that is sent, or kept pending, changes nothing but the outside's list and the pending bits. -/
@[simp] theorem State.mem_msix (s : State) (f : Func) (v : Nat) : (s.msix f v).mem = s.mem := by
  unfold State.msix; dsimp only; split <;> (try split) <;> rfl

@[simp] theorem State.cores_msix (s : State) (f : Func) (v : Nat) : (s.msix f v).cores = s.cores := by
  unfold State.msix; dsimp only; split <;> (try split) <;> rfl

@[simp] theorem State.mem_replayShow (s : State) (k : Stack) : (s.replayShow k).mem = s.mem := by
  unfold State.replayShow; dsimp only; split <;> rfl

@[simp] theorem State.cores_replayShow (s : State) (k : Stack) : (s.replayShow k).cores = s.cores := by
  unfold State.replayShow; dsimp only; split <;> rfl

@[simp] theorem State.memReqs_replayShow (s : State) (k : Stack) : (s.replayShow k).memReqs = s.memReqs := by
  unfold State.replayShow; dsimp only; split <;> rfl

/-- Everything a request that reaches a picot can do: it takes its arrival position, or waits at its channel (R253, R254). -/
theorem State.accept_cases (s : State) (k : Stack) (r : MemReq) :
    (s.accept k r).mem = s.mem ∧ (s.accept k r).cores = s.cores ∧
      (((s.accept k r).memReqs = s.memReqs ∧ ((s.stopped k).contains (r.channel k) || s.queueFull k r) = true) ∨
        ∃ j, (s.accept k r).memReqs = vupd s.memReqs k fun l => l.insertIdx (l.length - (s.inCycle k).length + j) r) := by
  unfold State.accept
  split
  · exact ⟨rfl, rfl, .inl ⟨rfl, ‹_›⟩⟩
  · exact ⟨rfl, rfl, .inr ⟨_, rfl⟩⟩

/-- A request that reaches a picot with no channel stopped, room in its queue and nothing else in its cycle goes behind all others (R253). -/
theorem State.memReqs_accept (s : State) (k : Stack) (r : MemReq) (h : s.Accepts k r) :
    (s.accept k r).memReqs = vupd s.memReqs k fun l => l ++ [r] := by
  obtain ⟨hw, hf, hc⟩ := h
  have hs : s.stopped k = [] := by unfold State.stopped; exact (congrArg _ hw).trans rfl
  have hn : ((s.stopped k).contains (r.channel k) || s.queueFull k r) = false := by rw [hs, hf]; rfl
  unfold State.accept
  rw [hn]
  simp only [State.place, hc, Bool.false_eq_true, if_false, List.takeWhile_nil, List.length_nil, Nat.sub_zero, Nat.add_zero]
  congr 1
  funext l
  exact List.insertIdx_length_self

/-- Everything a request to a picot can do: no stack holds its address, or it reaches the picot of the stack that does (R255). -/
theorem State.memSend_cases (s : State) (r : MemReq) :
    (s.stackOf r.addr = none ∧ s.memSend r = s) ∨
    (∃ k, s.stackOf r.addr = some k ∧ (s.memSend r).memReqs = (s.accept k r).memReqs ∧
      (s.memSend r).mem = s.mem ∧ (s.memSend r).cores = s.cores) := by
  unfold State.memSend
  generalize s.stackOf r.addr = o
  cases o with
  | none => exact .inl ⟨rfl, rfl⟩
  | some k =>
    have h := s.accept_cases k r
    exact .inr ⟨k, rfl, by simp, by simp [h.1], by simp [h.2.1]⟩

/-! ### The bytes of HBM -/

@[simp] theorem State.bytes_markLine (s : State) (l : Nat) (b : Bool) : (s.markLine l b).mem.bytes = s.mem.bytes := by
  unfold State.markLine; generalize s.hbmKey (l * 64) = o; cases o <;> rfl

@[simp] theorem State.bytes_markDirty (s : State) (g : Nat) : (s.markDirty g).mem.bytes = s.mem.bytes := by
  unfold State.markDirty; dsimp only; split <;> rfl

@[simp] theorem State.bytes_epochFail (s : State) (p : Part) (st : Nat) : (s.epochFail p st).mem.bytes = s.mem.bytes := by
  unfold State.epochFail
  dsimp only
  split
  · rfl
  · split <;> simp <;> rfl

@[simp] theorem State.bytes_captureFor (s : State) (l : Nat) (p : Part) : (s.captureFor l p).mem.bytes = s.mem.bytes := by
  unfold State.captureFor
  generalize s.locate (l * 64) = q
  cases q with
  | none => rfl
  | some k => dsimp only; split <;> simp

@[simp] theorem State.bytes_capture (s : State) (l : Nat) : (s.capture l).mem.bytes = s.mem.bytes :=
  foldl_keeps (fun t : State => t.mem.bytes) _ (fun b p => State.bytes_captureFor b l p) _ s

/-- Writing the array keeps the canonical form. -/
theorem State.wf_hbmRaw (s : State) (a : Nat) (bs : List Byte) (p : Bool) (h : Memory.wf s.mem.bytes) :
    Memory.wf (s.hbmRaw a bs p).mem.bytes := by
  unfold State.hbmRaw
  rw [foldl_keeps (fun t : State => t.mem.bytes) _ (fun b l => by split <;> (try split) <;> simp)]
  exact foldl_holds (fun m => Memory.wf m) _ (fun m x hm => by
    dsimp only
    generalize s.hbmKey _ = o
    cases o with
    | none => exact hm
    | some k => exact SMap.wf_set _ _ _ _ hm) _ _ h

/-- A picot's write keeps the canonical form. -/
theorem State.wf_hbmWrite (s : State) (a : Nat) (bs : List Byte) (p : Bool) (h : Memory.wf s.mem.bytes) :
    Memory.wf (s.hbmWrite a bs p).mem.bytes := by
  unfold State.hbmWrite
  dsimp only
  rw [foldl_keeps (fun t : State => t.mem.bytes) _ (fun b g => by simp)]
  apply State.wf_hbmRaw
  rw [foldl_keeps (fun t : State => t.mem.bytes) _ (fun b g => by simp)]
  exact h

@[simp] theorem State.bytes_captureLines (s : State) (first n : Nat) : (s.captureLines first n).mem.bytes = s.mem.bytes :=
  foldl_keeps (fun t : State => t.mem.bytes) _ (fun b i => State.bytes_capture b (first + i)) _ s

/-- Zeroing a page keeps the canonical form. -/
theorem State.wf_zeroPage (s : State) (g : Nat) (h : Memory.wf s.mem.bytes) : Memory.wf (s.zeroPage g).mem.bytes := by
  unfold State.zeroPage
  dsimp only
  apply SMap.wf_wipe
  split
  · rw [State.bytes_captureLines]; exact h
  · exact h

/-! ### Scratchpads -/

@[simp] theorem State.spad_breakGuards (s : State) (c d : PCore) (off n : Nat) :
    ((s.breakGuards c off n).core d).spad = (s.core d).spad := by
  unfold State.breakGuards
  refine foldl_keeps (fun t : State => (t.core d).spad) _ (fun b e => ?_) _ s
  split
  · dsimp only
    by_cases hd : d = c
    · subst hd; split <;> simp [State.sat]
    · split <;> simp [State.sat, State.core_onCore_ne _ _ hd]
  · rfl

/-- Writing bytes into a scratchpad keeps the canonical form. -/
theorem wf_spad_write (r : CoreRec) (off : Nat) (bs : List Byte) (h : Memory.wf r.spad) : Memory.wf (writeBytes r.spad off bs) :=
  wf_writeBytes bs r.spad off h

/-! ### Reset -/

/-- The memory that reset leaves lists nothing and is in canonical form; so is every scratchpad. -/
theorem wf_reset : Memory.wf State.reset.mem.bytes ∧ ∀ c : PCore, Memory.wf (State.reset.core c).spad := by
  refine ⟨rfl, fun c => ?_⟩
  simp [State.core, State.reset, CoreRec.reset, Memory.wf, SMap.wf, SMap.wfFrom]

end Sys2Proof.Machine
end

