-- ==== Sys2Proof/Laws/Sequencer.lean ====
section
/-!
SUPPORT. Laws of the sequencer's shared operations: everything that executing an S-family word can do, and what counting a fetch, going to the next
index, and continuing at an index leave.
-/
namespace Sys2Proof.Machine

/-- Everything `execSeq` can do: nothing, a skip, an instruction whose predicate fails, a hold on RD, a hold on full queues, or the
instruction. -/
theorem State.execSeq_cases (s : State) (c : PCore) (op : Nat) (run : State → IWord → State) (held : IWord → Bool) :
    ((s.seqReady c = false ∨ opcodeOf (s.fetch c) ≠ op ∨ classOf (s.fetch c) ≠ 0) ∧ s.execSeq c op run held = s) ∨
    (s.seqReady c = true ∧ opcodeOf (s.fetch c) = op ∧ classOf (s.fetch c) = 0 ∧
      ((fetchCheck (s.fetch c) ≠ 0 ∧ s.execSeq c op run held =
          ((s.countFetch c).advance c 1).skip c 0 (s.fetch c) (s.iaddr c) (fetchCheck (s.fetch c))) ∨
       (fetchCheck (s.fetch c) = 0 ∧ s.predOk c (s.fetch c) = false ∧ s.execSeq c op run held = (s.countFetch c).advance c 1) ∨
       (fetchCheck (s.fetch c) = 0 ∧ s.predOk c (s.fetch c) = true ∧ (writesRd op && regHeld (s.core c) (rdOf (s.fetch c))) = true ∧
          s.execSeq c op run held = s.wr (coreBase c) F.SEQ_STATUS_BLOCK 5) ∨
       (s.Executes c op (s.fetch c) ∧ held (s.fetch c) = true ∧ s.execSeq c op run held = s.wr (coreBase c) F.SEQ_STATUS_BLOCK 3) ∨
       (s.Executes c op (s.fetch c) ∧ held (s.fetch c) = false ∧ s.execSeq c op run held = run (s.countFetch c) (s.fetch c)))) := by
  unfold State.execSeq
  dsimp only
  generalize hw : s.fetch c = w
  by_cases h1 : s.seqReady c = true
  · by_cases h2 : opcodeOf w = op
    · by_cases h3 : classOf w = 0
      · refine .inr ⟨h1, h2, h3, ?_⟩
        by_cases h4 : fetchCheck w = 0
        · by_cases h5 : s.predOk c w = true
          · by_cases h6 : (writesRd op && regHeld (s.core c) (rdOf w)) = true
            · exact .inr (.inr (.inl ⟨h4, h5, h6, by simp [h1, h2, h3, h4, h5, h6]⟩))
            · have e : s.Executes c op w := ⟨h1, hw, h2, h3, h4, h5, by simpa using h6⟩
              by_cases h7 : held w = true
              · refine .inr (.inr (.inr (.inl ⟨e, h7, ?_⟩)))
                rw [if_neg (by simp [h1, h2, h3]), if_neg (by simp [h4]), if_neg (by simp [h5]), if_neg h6, if_pos h7]
              · refine .inr (.inr (.inr (.inr ⟨e, by simpa using h7, ?_⟩)))
                rw [if_neg (by simp [h1, h2, h3]), if_neg (by simp [h4]), if_neg (by simp [h5]), if_neg h6, if_neg h7]
          · exact .inr (.inl ⟨h4, by simpa using h5, by simp [h1, h2, h3, h4, h5]⟩)
        · exact .inl ⟨h4, by simp [h1, h2, h3, h4]⟩
      · exact .inl ⟨.inr (.inr h3), by simp [h3]⟩
    · exact .inl ⟨.inr (.inl h2), by simp [h2]⟩
  · exact .inl ⟨.inl (by simpa using h1), by simp [h1]⟩

/-- A word that executes, and that no full queue holds, runs its instruction on the state that has counted the fetch. -/
theorem State.execSeq_run {s : State} {c : PCore} {op : Nat} {w : IWord} (h : s.Executes c op w) (run : State → IWord → State)
    {held : IWord → Bool} (hh : held w = false := by rfl) : s.execSeq c op run held = run (s.countFetch c) w := by
  obtain ⟨h1, h2, h3, h4, h5, h6, h7⟩ := h
  unfold State.execSeq
  dsimp only
  rw [h2, if_neg (by simp [h1, h3, h4]), if_neg (by simp [h5]), if_neg (by simp [h6]), if_neg (by simp [h7]), if_neg (by simp [hh])]

/-! ### Fields of one core's sequencer lie apart -/

/-- A write of a field at another bit address leaves a scalar register. -/
theorem State.x_wr_ne (s : State) (b : Nat) (f : Fld) (v i : Nat) (c : PCore) (r : Nat)
    (h : fkey (coreBase c) F.SEQ_X_VALUE r ≠ fkey b f i) : (s.wr b f v i).x c r = s.x c r := by
  unfold State.x; rw [State.rd_wr_ne _ _ h]

/-- A write of a field at another bit address leaves a flag. -/
theorem State.flag_wr_ne (s : State) (b : Nat) (f : Fld) (v i : Nat) (c : PCore) (k : Nat)
    (h : fkey (coreBase c) F.SEQ_FLAG_VALUE k ≠ fkey b f i) : (s.wr b f v i).flag c k = s.flag c k := State.rd_wr_ne _ _ h

@[simp] theorem State.x_onCore (s : State) (d : PCore) (g : CoreRec → CoreRec) (c : PCore) (r : Nat) : (s.onCore d g).x c r = s.x c r := rfl
@[simp] theorem State.flag_onCore (s : State) (d : PCore) (g : CoreRec → CoreRec) (c : PCore) (k : Nat) :
    (s.onCore d g).flag c k = s.flag c k := rfl

@[simp] theorem State.x_countFetch (s : State) (c : PCore) (r : Nat) : (s.countFetch c).x c r = s.x c r := by
  unfold State.countFetch State.count
  exact State.x_wr_ne _ _ _ _ _ _ _ (by simp only [fkey, F.SEQ_X_VALUE, F.SEQ_FETCH_COUNT]; omega)

@[simp] theorem State.x_advance (s : State) (c : PCore) (n r : Nat) : (s.advance c n).x c r = s.x c r := by
  unfold State.advance
  dsimp only
  rw [State.x_onCore]
  split
  · exact State.x_wr_ne _ _ _ _ _ _ _ (by simp only [fkey, F.SEQ_X_VALUE, F.SEQ_STATUS_BLOCK]; omega)
  · rw [State.x_wr_ne _ _ _ _ _ _ _ (by simp only [fkey, F.SEQ_X_VALUE, F.SEQ_STATUS_PC]; omega)]
    exact State.x_wr_ne _ _ _ _ _ _ _ (by simp only [fkey, F.SEQ_X_VALUE, F.SEQ_STATUS_BLOCK]; omega)

@[simp] theorem State.mem_advance (s : State) (c : PCore) (n : Nat) : (s.advance c n).mem = s.mem := by
  unfold State.advance; dsimp only; split <;> rfl

@[simp] theorem State.mem_jump (s : State) (c : PCore) (t n : Nat) : (s.jump c t n).mem = s.mem := rfl

/-- Counting a fetch changes no core. -/
@[simp] theorem State.core_countFetch (s : State) (c d : PCore) : (s.countFetch c).core d = s.core d := rfl

/-- What `advance` changes of its core: when the next instruction may be taken, and whether the bank's end has been passed. -/
theorem State.core_advance (s : State) (c : PCore) (n : Nat) : ∃ r p, (s.advance c n).core c = { s.core c with readyAt := r, pastEnd := p } := by
  unfold State.advance
  dsimp only
  split <;> exact ⟨_, _, State.core_onCore _ _ _⟩

theorem State.core_advance_ne (s : State) {c d : PCore} (n : Nat) (h : d ≠ c) : (s.advance c n).core d = s.core d := by
  unfold State.advance
  dsimp only
  split <;> exact State.core_onCore_ne _ _ h

/-- The next index, but at the bank's last. -/
theorem State.pc_advance (s : State) (c : PCore) (n : Nat) (h : s.pc c < 8191) : (s.advance c n).pc c = s.pc c + 1 := by
  have e : ((s.wr (coreBase c) F.SEQ_STATUS_BLOCK 0).pc c) = s.pc c :=
    State.rd_wr_ne _ _ (by simp only [fkey, F.SEQ_STATUS_PC, F.SEQ_STATUS_BLOCK]; omega)
  unfold State.advance
  dsimp only
  rw [e, if_neg (by simp; omega)]
  show ((s.wr (coreBase c) F.SEQ_STATUS_BLOCK 0).wr (coreBase c) F.SEQ_STATUS_PC (s.pc c + 1)).rd (coreBase c) F.SEQ_STATUS_PC = _
  rw [State.rd_wr_same, Nat.mod_eq_of_lt (show s.pc c + 1 < 2 ^ F.SEQ_STATUS_PC.w by simp only [F.SEQ_STATUS_PC]; omega)]

/-! ### Queues -/

@[simp] theorem State.queue_popQ (s : State) (c : PCore) (q : Queue) : (s.popQ c q).queue c q = (s.queue c q).tail := by
  simp only [State.popQ, State.queue, State.core_onCore]; exact vupd_get_same _ _ _

theorem State.queue_popQ_ne (s : State) (c : PCore) {q r : Queue} (h : r ≠ q) : (s.popQ c q).queue c r = s.queue c r := by
  simp only [State.popQ, State.queue, State.core_onCore]; exact vupd_get_ne _ _ h

@[simp] theorem State.queue_pushQ (s : State) (c : PCore) (q : Queue) (i : QItem) : (s.pushQ c q i).queue c q = s.queue c q ++ [i] := by
  simp only [State.pushQ, State.queue, State.core_onCore]; exact vupd_get_same _ _ _

/-- What a queue hands its unit stands at its head. -/
theorem State.headInstr_some {s : State} {c : PCore} {q : Queue} {w : IWord} {ia : Nat} (h : s.headInstr c q = some (w, ia)) :
    s.seqState c = 1 ∧ (s.core c).headAt[q] ≤ s.cycle ∧ ∃ l, s.queue c q = .instr w ia :: l := by
  unfold State.headInstr at h
  split at h
  · rename_i hc
    split at h
    · rename_i hq
      cases h
      exact ⟨hc.1, hc.2, _, hq⟩
    · cases h
  · cases h

end Sys2Proof.Machine
end

