-- ==== Sys2Proof/Laws/Task.lean ====
section
/-!
SUPPORT. Laws of aborts and skips: they leave every memory as it is (R175, R194).
-/
namespace Sys2Proof.Machine

/-- The memories of the module: HBM, and each core's scratchpad, accumulators and instruction memory. -/
def State.memories (s : State) : MemRec × (PCore → SMap Byte × Vector (SMap AccWord) 4 × SMap IWord) :=
  (s.mem, fun c => ((s.core c).spad, (s.core c).acc, (s.core c).imem))

/-- Equal HBM and equal cores are equal memories. -/
theorem State.memories_congr {s t : State} (hm : t.mem = s.mem) (hc : t.cores = s.cores) : t.memories = s.memories := by
  unfold State.memories State.core; rw [hm, hc]

/-- A change of one core that keeps its memories keeps them all. -/
theorem State.memories_onCore (s : State) (c : PCore) (f : CoreRec → CoreRec)
    (h : ∀ r, ((f r).spad, (f r).acc, (f r).imem) = (r.spad, r.acc, r.imem)) : (s.onCore c f).memories = s.memories := by
  refine Prod.ext rfl (funext fun d => ?_)
  show (((s.onCore c f).core d).spad, ((s.onCore c f).core d).acc, ((s.onCore c f).core d).imem) = _
  by_cases e : d = c
  · subst e; rw [State.core_onCore]; exact h _
  · rw [State.core_onCore_ne _ _ e]; rfl

@[simp] theorem State.memories_wr (s : State) (b : Nat) (f : Fld) (v i : Nat) : (s.wr b f v i).memories = s.memories := rfl
@[simp] theorem State.memories_sat (s : State) (b : Nat) (f : Fld) (n i : Nat) : (s.sat b f n i).memories = s.memories := rfl
@[simp] theorem State.memories_count (s : State) (b : Nat) (f : Fld) (n i : Nat) : (s.count b f n i).memories = s.memories := rfl
@[simp] theorem State.memories_setOn (s : State) (b : Nat) (f : Fld) (i : Nat) : (s.setOn b f i).memories = s.memories := rfl
@[simp] theorem State.memories_wrBit (s : State) (b : Nat) (f : Fld) (k : Nat) (x : Bool) (i : Nat) :
    (s.wrBit b f k x i).memories = s.memories := rfl
@[simp] theorem State.memories_net (s : State) (n : NetRec) : ({ s with net := n } : State).memories = s.memories := rfl
@[simp] theorem State.memories_emit (s : State) (o : Out) : (s.emit o).memories = s.memories := rfl
@[simp] theorem State.memories_msix (s : State) (f : Func) (v : Nat) : (s.msix f v).memories = s.memories :=
  State.memories_congr (by simp) (by simp)

@[simp] theorem State.memories_quarBegin (s : State) (c : PCore) : (s.quarBegin c).memories = s.memories := by
  unfold State.quarBegin
  extract_lets due n
  split <;> rfl

@[simp] theorem State.memories_errCount (s : State) (k : Nat) : (s.errCount k).memories = s.memories := by
  unfold State.errCount
  split
  · dsimp only
    rw [apply_ite State.memories]
    simp
  · simp
  · simp
  · rfl

@[simp] theorem State.memories_logWrite (s : State) (r : ErrRec) : (s.logWrite r).memories = s.memories := by
  unfold State.logWrite
  dsimp only
  rw [apply_ite State.memories, State.memories_setOn, State.memories_wr, State.memories_wr, ite_self]
  exact foldl_keeps State.memories _ (by intro b i; rfl) _ s

@[simp] theorem State.memories_errLog (s : State) (r : ErrRec) : (s.errLog r).memories = s.memories := by
  unfold State.errLog
  dsimp only
  split
  · simp only [State.memories_wr, State.memories_setOn]
    exact (State.memories_errCount (s.logWrite r) r.cls).trans (State.memories_logWrite s r)
  · simp

/-- A skipped instruction's log entry changes no memory. -/
@[simp] theorem State.memories_logSkip (s : State) (c : PCore) (u : Nat) (w : IWord) (ia reason : Nat) :
    (s.logSkip c u w ia reason).memories = s.memories := by
  unfold State.logSkip; dsimp only; split <;> simp

@[simp] theorem State.memories_creditRefuse (s : State) (o : PCore) (m k : Nat) : (s.creditRefuse o m k).memories = s.memories := by
  unfold State.creditRefuse
  dsimp only
  split
  · generalize State.physOf _ k = q
    cases q <;> simp
  · simp

@[simp] theorem State.memories_closeWindow (s : State) (c : PCore) (w : Nat) : (s.closeWindow c w).memories = s.memories := by
  unfold State.closeWindow
  dsimp only
  split
  · rfl
  · rw [foldl_keeps State.memories _ (fun b q => by simp), State.memories_wr]
    refine (State.memories_onCore _ _ _ (by intro r; rfl)).trans ?_
    split <;> simp

@[simp] theorem State.memories_closeWindows (s : State) (c : PCore) : (s.closeWindows c).memories = s.memories :=
  foldl_keeps State.memories _ (fun b w => State.memories_closeWindow b c w) _ s

@[simp] theorem State.memories_disableRings (s : State) (c : PCore) : (s.disableRings c).memories = s.memories := by
  unfold State.disableRings
  refine (State.memories_onCore _ _ _ (by intro r; rfl)).trans ?_
  exact foldl_keeps State.memories _ (fun b w => by simp) _ s

@[simp] theorem State.memories_stopEngine (s : State) (c : PCore) (e : Eng) : (s.stopEngine c e).memories = s.memories := by
  unfold State.stopEngine
  dsimp only
  refine (State.memories_onCore _ _ _ (by intro r; rfl)).trans ?_
  split
  · rfl
  · rw [State.memories_wr, apply_ite State.memories, State.memories_wr, ite_self]

@[simp] theorem State.memories_stopDrain (s : State) (c : PCore) (e : Eng) : (s.stopDrain c e).memories = s.memories := by
  unfold State.stopDrain
  dsimp only
  refine (State.memories_onCore _ _ _ (by intro r; rfl)).trans ?_
  rw [State.memories_wr, foldl_keeps State.memories _ (fun b t => by simp)]
  split <;> simp

@[simp] theorem State.memories_stopBobbin (s : State) (c : PCore) (b : Bob) : (s.stopBobbin c b).memories = s.memories := by
  unfold State.stopBobbin
  refine (State.memories_onCore _ _ _ (by intro r; rfl)).trans ?_
  simp

@[simp] theorem State.memories_recordWaits (s : State) (c : PCore) : (s.recordWaits c).memories = s.memories := by
  unfold State.recordWaits
  dsimp only
  split
  · split <;> simp only [State.memories_wr] <;>
      (rw [foldl_keeps State.memories _ (by intro b w; split <;> rfl)]; rfl)
  · simp only [State.memories_wr]
    rw [foldl_keeps State.memories _ (by intro b w; split <;> rfl)]; rfl

/-- What a core records of an abort changes no memory. -/
@[simp] theorem State.memories_abortRecord (s : State) (cause : Nat) (who : Option (PCore × Nat)) (c : PCore) :
    (s.abortRecord cause who c).memories = s.memories := by
  unfold State.abortRecord
  dsimp only
  cases who with
  | none => simp
  | some k => dsimp only; rw [apply_ite State.memories]; simp

/-- A core that stops at an abort keeps its memories (R194). -/
@[simp] theorem State.memories_abortUnits (s : State) (c : PCore) : (s.abortUnits c).memories = s.memories := by
  unfold State.abortUnits
  dsimp only
  rw [State.memories_quarBegin, State.memories_disableRings, State.memories_closeWindows, foldl_keeps State.memories _ (by intro b k; simp),
    foldl_keeps State.memories _ (by intro b k; simp), State.memories_net]
  refine (State.memories_onCore _ _ _ (by intro r; rfl)).trans ?_
  simp

/-- A core's part of an abort changes no memory (R194). -/
@[simp] theorem State.memories_abortCore (s : State) (cause : Nat) (who : Option (PCore × Nat)) (c : PCore) :
    (s.abortCore cause who c).memories = s.memories := by
  unfold State.abortCore; simp

@[simp] theorem State.memories_cqVector (s : State) (p : Part) : (s.cqVector p).memories = s.memories := by
  unfold State.cqVector
  rw [apply_ite State.memories, apply_ite State.memories]
  simp

@[simp] theorem State.memories_cqWrite (s : State) (p : Part) (r : CqRec) : (s.cqWrite p r).memories = s.memories := by
  unfold State.cqWrite
  dsimp only
  generalize s.translate _ _ = o
  cases o with
  | none => simp
  | some x => dsimp only; rw [State.memories_cqVector, State.memories_wr]; rfl

@[simp] theorem State.memories_cqPost (s : State) (p k c v d : Nat) : (s.cqPost p k c v d).memories = s.memories := by
  unfold State.cqPost
  dsimp only
  split
  · split
    · rfl
    · split
      · simp
      · split <;> rfl
  · rfl

@[simp] theorem State.memories_abortReport (s : State) (p : Nat) : (s.abortReport p).memories = s.memories := by
  unfold State.abortReport
  split
  · split
    · split
      · rw [State.memories_cqPost]; rfl
      · rfl
    · rfl
  · rfl

/-- An abort of a task changes no memory (R194). -/
theorem State.memories_abortTask (s : State) (p cause : Nat) (who : Option (PCore × Nat)) (post : Bool) (silent : List PCore) :
    (s.abortTask p cause who post silent).memories = s.memories := by
  have h (t : State) (a : PartRec → PartRec) (g : MirRec → MirRec) : ((if h : p < 16 then
      { t with parts := vupd t.parts ⟨p, h⟩ a, mir := vupd t.mir ⟨p, h⟩ g } else t) : State).memories = t.memories := by split <;> rfl
  unfold State.abortTask
  dsimp only
  split
  · rfl
  · rw [State.memories_abortReport, State.memories_msix, State.memories_errLog]
    refine (h _ _ _).trans (foldl_keeps State.memories _ (by intro b c; rw [apply_ite State.memories]; simp) _ s)

/-- A skipped instruction changes no memory outside strict mode (R175). -/
theorem State.memories_skip (s : State) (c : PCore) (u : Nat) (w : IWord) (ia reason : Nat)
    (h : (s.logSkip c u w ia reason).on (coreBase c) F.SEQ_CTRL_STRICT = false) : (s.skip c u w ia reason).memories = s.memories := by
  unfold State.skip
  dsimp only
  rw [h]
  exact State.memories_logSkip s c u w ia reason

end Sys2Proof.Machine
end

