-- ==== Sys2Proof/Machine/HostRead.lean ====
section
/-!
DEFINITION. Host reads (R1, R7, R10, R98, R184, R195, R196, R340, R342). The command list has no row for a host read other than those of
device memory and of `MSE_NORMDATA0`: `State.hostRead` says what one does and what it completes with, and no command calls it (log entry 48).
-/
namespace Sys2Proof.Machine

/-- What a read does to the machine, the bytes it completes with, and whether they are poisoned (the EP bit, R342). -/
abbrev ReadResult := State × List Byte × Bool

/-- A read of `n` bytes that changes nothing and completes with zero (R10, R184, R195). -/
def State.readNone (s : State) (n : Nat) : ReadResult := (s, List.replicate n 0, false)

/-- A read of a core's slot or aperture under the authority that function `f` carries: refused, recorded and answered with zero outside it,
zero of a slot that does not answer (R184, R195, R342, R455). -/
def State.readCore (s : State) (f : Func) (c : PCore) (kind : AccKind) (addr n : Nat) (k : State → ReadResult) : ReadResult :=
  if !s.hostReady then s.readNone n
  else if s.authority f = some (s.partOf c) then (if s.answers c then k s else s.readNone n)
  else (s.authReject f kind addr).readNone n

/-- A read of an aperture: it completes with zero while the core is zero-filled (R196). -/
def State.readAperture (s : State) (f : Func) (c : PCore) (addr n : Nat) (k : State → ReadResult) : ReadResult :=
  s.readCore f c .apRead addr n fun s => if (s.core c).fillEnd.isSome then s.readNone n else k s

/-- A read of the scratchpad aperture: bytes beyond the scratchpad read as zero (R184). -/
def State.readSpad (s : State) (f : Func) (c : PCore) (off n : Nat) : ReadResult :=
  s.readAperture f c (0x800000000000 + c.val * 0x1000000 + off) n fun s =>
    let k := min n (spadSize - off)
    let x := s.spadTake c off k
    (x.1, x.2.1 ++ List.replicate (n - k) 0, x.2.2)

/-- A read of the accumulator debug aperture (R96 to R98). -/
def State.readAcc (s : State) (f : Func) (c : PCore) (off n : Nat) : ReadResult :=
  s.readAperture f c (0x800040000000 + c.val * 0x1000000 + off) n fun s => s.accTake c off n

/-- A read of the instruction-memory aperture (R124). -/
def State.readImem (s : State) (f : Func) (c : PCore) (off n : Nat) : ReadResult :=
  s.readAperture f c (0x900000000000 + c.val * 0x40000 + off) n fun s =>
    (s, (List.range n).map fun i => s.imemByte c (off + i), false)

/-- Whether a register of the module shows a largest wait, `NET_LATEMAX` and `BRD_CTLWAIT`: what they read as is free (R213, R307; log entry 8). -/
def largestWait (base : Nat) (r : RegDef) : Bool :=
  ((List.finRange 4).any fun d => decide (base = netBase d) && decide (r.off = R.NET_LATEMAX.off)) ||
    (List.finRange 24).any fun p => decide (base = brdBase p) && decide (r.off = R.BRD_CTLWAIT.off)

/-- One access to a register's instance: its value, and RC fields cleared; a narrow or misaligned one reads as zero and does nothing else
(R7, R10). -/
def State.readReg1 (s : State) (base : Nat) (r : RegDef) (i addr n : Nat) : ReadResult :=
  if !widthOk r addr n then s.readNone n
  else if largestWait base r then
    let x := s.readFree 16
    (x.1, leBytes n x.2, false)
  else (s.clearRC base r i, leBytes n (s.readReg base r i), false)

/-- A read of a core's control slot (R10, R145, R342). -/
def State.readSlot (s : State) (f : Func) (c : PCore) (addr n : Nat) : ReadResult :=
  s.readCore f c .register addr n fun s =>
    match slotReg c (addr - coreBase c) with
    | some (_, r, _) =>
      if widthOk r addr n then
        let x := s.slotGet c (addr - coreBase c)
        (x.1, leBytes n x.2, false)
      else s.readNone n
    | none => s.readNone n

/-- A read of a partition's doorbell page (R341, R342, R361). -/
def State.readDoor (s : State) (f : Func) (p : Part) (addr n : Nat) : ReadResult :=
  if !s.hostReady then s.readNone n
  else if !s.doorOk f p then (s.authReject f .register addr).readNone n
  else match regAt pageDb (addr - dbBase p) with
    | some (r, i) => s.readReg1 (dbBase p) r i addr n
    | none => s.readNone n

/-- A read that is not of a register: slot-table, route and multicast entries, and the readiness report; the staging and licence buffers are
WO (R221, R302, R305, R435, R447, R448). -/
def State.readTable (s : State) (addr n : Nat) : ReadResult :=
  if decide (netBase 0 ≤ addr ∧ addr < netBase 0 + 0x800000) && decide ((addr - netBase 0) / 0x100000 % 2 = 1) && decide (n = 4 ∧ addr % 4 = 0) then
    let off := addr % 0x100000
    (s, leBytes 4 (SMap.get 0 s.net.tables (entryKey ((addr - netBase 0) / 0x200000) (off / 0x10000) (off / 0x800 % 32) (off / 0x400 % 2)
      (off / 4 % 256))), false)
  else if routeBase ≤ addr ∧ addr < routeBase + 0x3FFF8 ∧ n = 4 ∧ addr % 4 = 0 then
    (s, leBytes 4 (SMap.get 0 s.routes ((addr - routeBase) / 4)), false)
  else if routeBase + 0x40000 ≤ addr ∧ addr < routeBase + 0x40800 ∧ n = 8 ∧ addr % 8 = 0 then
    (s, leBytes 8 (SMap.get 0 s.routes (65536 + (addr - routeBase - 0x40000) / 8)), false)
  else if secBase + 0x10000 ≤ addr ∧ addr < secBase + 0x11000 ∧ n = 8 ∧ addr % 8 = 0 then
    (s, (s.readiness.drop (addr - secBase - 0x10000)).take 8, false)
  else s.readNone n

/-- A read of a module-level register or table: PF0 alone; the security, licence and error pages in recovery too (R10, R342, R430). -/
def State.readModule (s : State) (f : Func) (addr n : Nat) : ReadResult :=
  let go (s : State) : ReadResult := match modReg addr with
    | some (base, r, i) => s.readReg1 base r i addr n
    | none => s.readTable addr n
  let sec := decide (errBase ≤ addr ∧ addr < errBase + 0x100000 ∨ secBase ≤ addr ∧ addr < licBase + 0x100000)
  if !(if sec then s.secReady else s.hostReady) then s.readNone n
  else if f.val = 0 then go s
  else (s.authReject f .register addr).readNone n

/-- HOST READ of `n` bytes at a local address of an aperture or of the register space (R7, R10, R341, R342). -/
def State.hostRead (s : State) (f : Func) (addr n : Nat) : ReadResult :=
  let slot (base size : Nat) : PCore := ⟨(addr - base) / size % 64, Nat.mod_lt _ (by omega)⟩
  if 0x800000000000 ≤ addr ∧ addr < 0x800040000000 then
    s.readSpad f (slot 0x800000000000 0x1000000) ((addr - 0x800000000000) % 0x1000000) n
  else if 0x800040000000 ≤ addr ∧ addr < 0x800080000000 then
    s.readAcc f (slot 0x800040000000 0x1000000) ((addr - 0x800040000000) % 0x1000000) n
  else if 0x900000000000 ≤ addr ∧ addr < 0x900001000000 then
    s.readImem f (slot 0x900000000000 0x40000) ((addr - 0x900000000000) % 0x40000) n
  else if coreBase 0 ≤ addr ∧ addr < coreBase 0 + 0x4000000 then s.readSlot f (slot (coreBase 0) 0x100000) addr n
  else if dbBase 0 ≤ addr ∧ addr < dbBase 0 + 0x100000 then
    s.readDoor f ⟨(addr - dbBase 0) / 0x10000 % 16, Nat.mod_lt _ (by omega)⟩ addr n
  else s.readModule f addr n

/-- A host read through a BAR; one that leads to nothing reads as zero (R341). -/
def State.barRead (s : State) (f : Func) (bar off n : Nat) : ReadResult :=
  match s.barPlace f bar off with
  | .addr a => s.hostRead f a n
  | .door p o => s.readDoor f p (dbBase p + o) n
  | .nothing => s.readNone n

/-! ### What configuration space and CDAT report (R337, R340, R341, R350, R355) -/

/-- The features of CXL 3.1 that R337 names, and any other. -/
inductive CxlFeature where
  | flit68 | flit256 | latencyOptimised | rate64 | rate32 | lowerRates | io | cache | mem | hdmDb | hdmH | hdmD | backInvalidate | singleLogicalDevice
  | multiLogicalDevice | srIov | hierarchyRouting | portRouting | ide | spdm | ideKeyManagement | securityProtocol | conventionalReset | flr | cxlReset
  | memoryClear
  | other (n : Nat)
  deriving DecidableEq, Repr

/-- The features that the port has (R337). -/
def cxlFeatures : List CxlFeature :=
  [.flit256, .latencyOptimised, .rate64, .rate32, .io, .cache, .mem, .hdmDb, .backInvalidate, .singleLogicalDevice, .srIov, .hierarchyRouting, .ide,
    .spdm, .ideKeyManagement, .conventionalReset, .flr, .cxlReset]

/-- A feature's capability bit: one that the port does not have reads as zero (R337). -/
def featureBit (x : CxlFeature) : Nat := if cxlFeatures.contains x then 1 else 0

/-- The DOE instances (R337). -/
inductive DoeKind where
  | spdm | securedSpdm | cdat
  deriving DecidableEq, Repr

/-- A base address register: its number, its size, and whether it is prefetchable; every one is 64 bits wide (R341). -/
structure BarDef where
  num      : Nat
  size     : Nat
  prefetch : Bool
  deriving DecidableEq, Repr

/-- The SR-IOV capability of PF0 (R340). -/
structure SrIov where
  totalVFs : Nat
  firstVF  : Nat
  stride   : Nat
  vfDevice : Nat
  deriving DecidableEq, Repr

/-- What the configuration space of a function reports: identity, BARs, MSI-X vectors, and of PF0 SR-IOV and the DOE instances. -/
structure FuncConfig where
  vendor    : Nat
  device    : Nat
  classCode : Nat
  revision  : Nat
  bars      : List BarDef
  vectors   : Nat
  srIov     : Option SrIov
  doe       : List DoeKind
  deriving DecidableEq, Repr

/-- The SR-IOV capability's values (R340). -/
def srIovCap : SrIov := ⟨16, 1, 1, 0x4821⟩

/-- The configuration space of a function (R1, R337, R340, R341, R355). -/
def configOf (f : Func) : FuncConfig :=
  if f.val = 0 then
    ⟨0x1F9C, 0x4820, 0x120000, 0xA0, [⟨0, 0x20000000, false⟩, ⟨2, 0x100000000, true⟩, ⟨4, 0x10000, false⟩], 128, some srIovCap,
      [.spdm, .securedSpdm, .cdat]⟩
  else
    ⟨0x1F9C, srIovCap.vfDevice, 0x120000, 0xA0, [⟨0, 0x10000, false⟩, ⟨2, 0x100000000, true⟩, ⟨4, 0x4000000, false⟩], 120, none, []⟩

/-- The routing ID of a function, where PF0 has `pf` (R340). -/
def routingId (pf : Nat) (f : Func) : Nat := if f.val = 0 then pf else pf + srIovCap.firstVF + (f.val - 1) * srIovCap.stride

/-- What a configuration request finds: none is Configuration Request Retry Status, before step 6 (R421), nothing at all without a link (R338), PF0
alone in recovery (R430), a VF where SR-IOV enables it (R355). -/
def State.configRead (s : State) (f : Func) : Option FuncConfig :=
  if s.doeOpen && (decide (f.val = 0) || (s.inService && s.vfEnable)) then some (configOf f) else none

/-- A DSMAS entry of CDAT with the latency and bandwidth of its range: base, length, nanoseconds, and MB/s in each direction (R350). -/
structure Dsmas where
  base      : Nat
  length    : Nat
  readNs    : Nat
  writeNs   : Nat
  bandwidth : Nat
  deriving DecidableEq, Repr

/-- The one DSMAS entry, for the HDM range: the mapped capacity (R249, R344, R350). -/
def State.cdat (s : State) : Dsmas :=
  ⟨0, ((List.finRange 20).filter fun k => s.rdBit mmemBase F.HBM_MAP_STACKS_UP k.val).length * 2 ^ 36, 750, 800, 56000⟩

end Sys2Proof.Machine
end

