-- ==== Sys2Proof/WellFormed.lean ====
section
/-!
DEFINITION. Which operands a command can carry: the widths and lengths of what reaches the module from outside, where an
operand's type alone does not say them (`Instr.wf`). `exec` answers every command; these checks say which ones the outside can send.
-/
namespace Sys2Proof

/-- A flit's header fields fit their places and its payload is 240 B (R289). -/
def BFlit.wf (f : BFlit) : Bool :=
  decide (f.kind < 4) && decide (f.cls < 4) && decide (f.seq < 2 ^ 16) && decide (f.ack < 2 ^ 16) && decide (f.payload.length = 240)

/-- A cable end is copper or optical, and its last host's receptacle exists (R308, R311); or it has no secure element, and so none of what that
holds (R309, R316). -/
def CableEnd.wf (e : CableEnd) : Bool :=
  ((decide (e.kind = 1) || decide (e.kind = 2)) && decide (e.matings < 2 ^ 16) && decide (e.hours < 2 ^ 32) && decide (e.host.2 < 12)) ||
    decide (e = ⟨0, 0, false, 0, 0, (0, 0), false⟩)

/-- An address within the module and an access of 1, 2, 4 or 8 bytes (R10); a vector of a function (R355); the page tables of a
partition as ranges that hold something (R226). -/
def RegTarget.wf : RegTarget → Bool
  | .reg addr bytes => decide (addr < 2 ^ 48) && [1, 2, 4, 8].contains bytes
  | .bar b off bytes => [0, 2, 4].contains b && decide (off < 2 ^ 32) && [1, 2, 4, 8].contains bytes
  | .msix _ _ => true
  | .vector n _ => decide (n < 128)
  | .vfEnable _ => true
  | .biEnable _ => true
  | .pages _ es => es.all fun e => decide (e.1 < 2 ^ 48) && decide (e.2.1 ≠ 0)

/-- The masks of what fails at bring-up name units of the module (R421 to R423). -/
def BootTest.wf (t : BootTest) : Bool :=
  (t.cxl.all fun o => decide (o.width ≤ 4)) && decide (t.cores < 2 ^ 64) && decide (t.stackBad < 2 ^ 20) && decide (t.bridges < 2 ^ 4) && decide (t.dies < 2 ^ 4)

/-- Certificate slots are 0 to 7 (R441). -/
def SpdmReq.wf : SpdmReq → Bool
  | .getCertificate slot => decide (slot < 8)
  | .challenge slot => decide (slot < 8)
  | .getMeasurements slot _ _ => decide (slot < 8)
  | .keyExchange slot _ => decide (slot < 8)
  | .getVersion => true
  | .getCapabilities => true
  | .negotiate => true
  | .getDigests => true
  | .endSession _ => true
  | .heartbeat _ => true
  | .keyUpdate _ => true
  | .ideKeys _ _ => true

/-- Readings of four dies, of a stack that exists, and of 33 rails (R460, R472). -/
def Readings.wf (r : Readings) : Bool := decide (r.tj.length = 4) && decide (r.stack < 20) && decide (r.rails.length = 33)

/-- A class message has a class byte, a module identity, a 64-bit serial and a 32-byte nonce (R451). -/
def ClassMsg.wf (m : ClassMsg) : Bool :=
  decide (m.cls < 256) && decide (m.modId < 2 ^ 16) && decide (m.serial < 2 ^ 64) && decide (m.nonce < 2 ^ 256)

/-- Whether the outside can send a command: its free operands have the widths and lengths the spec gives them. -/
def Instr.wf : Instr → Bool
  | .nop _ => true
  | .add _ => true
  | .sub _ => true
  | .and _ => true
  | .or _ => true
  | .xor _ => true
  | .shl _ => true
  | .shr _ => true
  | .sra _ => true
  | .mul _ => true
  | .addi _ => true
  | .li _ => true
  | .cmp _ => true
  | .cmpi _ => true
  | .br _ => true
  | .jal _ => true
  | .jr _ => true
  | .ld _ => true
  | .st _ => true
  | .rdsys _ => true
  | .rdflag _ => true
  | .qwait _ => true
  | .qwaitSatisfied _ => true
  | .swapi _ => true
  | .swapiSwap _ => true
  | .endTask _ => true
  | .endComplete _ => true
  | .fetchPastBankEnd _ => true
  | .wait _ _ => true
  | .waitc _ _ => true
  | .waitSatisfied _ _ => true
  | .waitTimeout _ _ => true
  | .signal _ _ => true
  | .remoteSignalArrival _ => true
  | .release _ _ => true
  | .cut _ => true
  | .cutComplete _ => true
  | .cutTimeout _ _ => true
  | .deadlockDeclare _ => true
  | .taskAbort _ _ => true
  | .pass _ _ => true
  | .passFold _ _ _ => true
  | .passFault _ _ _ _ _ _ => true
  | .loadw _ _ => true
  | .loadwFrontStart _ _ => true
  | .close _ _ => true
  | .drain _ _ => true
  | .opePreempt _ _ _ => true
  | .enginePreemptBoundary _ _ => true
  | .opeResume _ _ _ => true
  | .engineIdleQuarantine _ _ => true
  | .knownAnswerPass _ _ _ => true
  | .drainRequestBegin _ _ => true
  | .scaleRecordReadReturn _ _ _ => true
  | .drainRowRead _ _ => true
  | .drainRequestEnd _ _ => true
  | .drainProfileWrite _ _ _ _ _ _ => true
  | .vadd _ => true
  | .vsub _ => true
  | .vmul _ => true
  | .vfma _ => true
  | .vmax _ => true
  | .vmin _ => true
  | .vabs _ => true
  | .vneg _ => true
  | .vexp _ => true
  | .vln _ => true
  | .vrcp _ => true
  | .vrsq _ => true
  | .vcvt _ => true
  | .vred _ => true
  | .vrng _ => true
  | .bxfer _ _ => true
  | .bxferDispatch _ _ => true
  | .bcopy _ _ => true
  | .ringSlotReserve _ _ => true
  | .bobbinRequestIssue _ _ => true
  | .bobbinRequestComplete _ _ tag host _ => decide (tag < 512) && decide (host.length ≤ 512)
  | .transferComplete _ _ _ => true
  | .mopRegionAdd _ _ => true
  | .mopRegionMax _ _ => true
  | .mopRegionMin _ _ => true
  | .mopOptimiserStep _ _ => true
  | .mopNormAccumulation _ _ => true
  | .mopZeroFill _ _ => true
  | .mopNormFetch _ _ => true
  | .scommit _ _ => true
  | .matom _ _ => true
  | .nsend _ => true
  | .nput _ => true
  | .nputVerdictReturn _ => true
  | .ncredit _ => true
  | .wopen _ => true
  | .wclose _ => true
  | .windowDrainEnd _ _ => true
  | .windowWriteRequest _ => true
  | .creditRequestArrival _ => true
  | .sinkDelivery _ => true
  | .remoteScratchpadRead _ _ tag => decide (tag < 512)
  | .seqGo _ _ => true
  | .seqStop _ _ => true
  | .seqResume _ _ => true
  | .seqFlagsig _ _ _ => true
  | .imemHostWrite _ _ off data => decide (off.toNat + data.length ≤ 2 ^ 18)
  | .scratchpadApertureWrite _ _ off data => decide (off.toNat + data.length ≤ 2 ^ 24)
  | .accApertureWrite _ _ off data => decide (off.toNat + data.length ≤ 2 ^ 24)
  | .registerWrite _ t _ => t.wf
  | .bobCtrlWrite _ _ _ _ => true
  | .bobAllotWrite _ _ _ _ => true
  | .bobRingCfgWrite _ _ _ _ => true
  | .bobRegWrite _ _ _ _ _ => true
  | .prickingCommit _ _ _ => true
  | .prickingSwitch => true
  | .netFrameWrite _ _ => true
  | .frameLengthChange => true
  | .networkSlot _ => true
  | .frameSuppress => true
  | .bridgeFlitResend _ _ => true
  | .stackResponseSlot _ _ => true
  | .picotRequestApply _ _ => true
  | .atomicApply _ => true
  | .regionPartApply _ => true
  | .scaleRecordUpdate _ => true
  | .scaleCommitApply _ => true
  | .normUpdate _ => true
  | .mseNormdataRead _ => true
  | .mseOwncmdGo _ _ => true
  | .ownerPageComplete => true
  | .hbmMapWrite _ _ => true
  | .hbmPatrolRead _ _ => true
  | .hbmRefresh _ _ => true
  | .pageRetirementStart _ _ => true
  | .retirementLineCopy _ => true
  | .brideFlitReceive _ f _ _ => f.wf
  | .nakReceive _ _ _ => true
  | .nakResendTimer _ _ => true
  | .linkMgmtFlitTimer _ => true
  | .laneBerWindow _ errors bits => decide (errors.length = 8) && errors.all fun e => decide (e ≤ bits)
  | .portEnableWrite _ _ _ => true
  | .hostRetrain _ _ => true
  | .trainingWindowEnd _ m _ => decide (m.errors.length = 8) && (m.errors.all fun e => decide (e ≤ m.bits)) && decide (m.fails ≤ m.flits)
  | .brdModidLock _ _ => true
  | .packetForward _ _ => true
  | .writePacket _ => true
  | .readRequestPacket _ => true
  | .atomicPacket _ => true
  | .windowWritePacket _ seq => decide (seq < 2 ^ 32)
  | .readResponsePacket _ => true
  | .completionPacket _ => true
  | .remoteResponseTimeout _ _ tag => decide (tag < 512)
  | .creditRequestPacket _ _ _ bytes _ _ => decide (bytes < 2 ^ 32)
  | .creditGrantPacket _ _ _ => true
  | .multicastPacket _ => true
  | .multicastPacketForm _ => true
  | .brdTxmapWrite _ _ _ _ => true
  | .multicastExpel _ _ => true
  | .detachedNotice _ => true
  | .detachedApply _ => true
  | .expelledClear _ _ _ => true
  | .barrierConfigWrite _ _ _ => true
  | .barrierArrive _ _ _ => true
  | .barrierArrivePacket _ => true
  | .barrierReleasePacket _ => true
  | .cableInsertion _ e => e.wf
  | .cableRemoval _ => true
  | .cableHour _ => true
  | .cxlMemRead _ _ _ => true
  | .cxlMemWrite _ addr data _ => !data.isEmpty && decide (addr % 64 + data.length ≤ 64)
  | .biSnoopResponse _ data => (match data with | some bs => decide (bs.length = 64) | none => true)
  | .biSnoopTimeout _ => true
  | .hostSnoop _ _ => true
  | .cxlResponseTimeout _ _ tag => decide (tag < 512)
  | .hdmDecoderCommit _ => true
  | .ideIntegrityFailure _ => true
  | .doorbellCount _ _ _ => true
  | .doorbellGo _ _ _ => true
  | .cqCfgWrite _ _ _ => true
  | .cqHeadWrite _ _ _ => true
  | .cxlPost _ _ => true
  | .flrVf _ => true
  | .flrPf0 => true
  | .cxlReset => true
  | .cxlLinkDown => true
  | .partitionForm _ _ _ => true
  | .partitionMove _ _ _ => true
  | .partitionDissolve _ _ => true
  | .resetCore _ _ => true
  | .resetCluster _ _ => true
  | .resetPartition _ _ => true
  | .resetModule _ => true
  | .coreResetComplete _ => true
  | .partitionResetComplete _ => true
  | .selfTestStart _ => true
  | .selfTestEnd _ _ => true
  | .spareTake _ => true
  | .scratchpadPatrol _ _ => true
  | .laneMarginCheck _ _ _ => true
  | .errorHourRollover => true
  | .mirrorEnable _ _ _ store => decide (store < 2 ^ 16)
  | .mirrorDisable _ _ => true
  | .mirrorStoreWrite _ _ _ => true
  | .granuleSend _ _ => true
  | .manifestSend _ => true
  | .mirrorPageData _ => true
  | .mirrorPageDigest _ => true
  | .mirrorManifestChunk _ => true
  | .mirrorEpochStatus _ => true
  | .mirrorAckTimeout _ => true
  | .mirrorRelease _ _ => true
  | .mirrorReleasePacket _ => true
  | .mirrorRestore _ _ _ _ _ => true
  | .restoreRequestPacket _ => true
  | .fillArm _ _ _ _ => true
  | .fillGo _ _ _ => true
  | .fillStop _ => true
  | .fillPageConfirm _ => true
  | .fillComplete _ => true
  | .fillRouteTimeout _ _ => true
  | .bringUpStart t => t.wf
  | .aliasKeyReady => true
  | .spdmRequest _ r => r.wf
  | .fwWrite _ _ _ => true
  | .fwVerify _ _ => true
  | .fwActivate _ => true
  | .commitSvn _ => true
  | .fwPrefer _ _ => true
  | .clearRepair _ _ => true
  | .licenceInstall _ _ => true
  | .licenceRemove _ _ _ => true
  | .powerInputApply _ _ _ => true
  | .perstNAssert => true
  | .inputUndervoltage _ => true
  | .referenceClockLoss _ => true
  | .railWarning _ => true
  | .railWarningEnd => true
  | .railFault _ _ => true
  | .governorInterval _ r => r.wf
  | .governorWindowEnd _ => true
  | .thermalTrip _ _ _ _ => true
  | .strapChange _ => true
  | .classNonce => true
  | .classConfirm m => m.wf
  | .classSettleTimeout => true
  | .clusterPowerOff _ _ => true
  | .clusterPowerOn _ _ => true
  | .domainRampComplete _ => true
  | .linkComplexDomainSwitch _ => true
  | .mirrorIncompleteTimeout _ => true
  | .restoreAnswerTimeout _ => true
  | .fillPageSend _ => true
  | .fillCompleteAnswer _ => true
  | .zeroFillComplete => true
  | .bringUpReady => true
  | .referenceClockRestored t => t.wf
  | .junctionCooled t => t.wf
  | .stackLost _ => true
  | .controlProcessorFault _ => true

end Sys2Proof
end

