-- ==== Sys2Proof/Tests/Slice0.lean ====
section
/-!
SUPPORT. Small tests, and for each statement with hypotheses a state and operands that meet them.
-/
namespace Sys2Proof.Tests
set_option Elab.async false
set_option synthInstance.maxSize 2000
set_option synthInstance.maxHeartbeats 200000
open Sys2Proof Sys2Proof.Machine

/-- A module that serves: BOOTSTATE 2, every domain on, every stack mapped. -/
def up : State :=
  ((State.reset.wr secBase F.SEC_STATUS_BOOTSTATE 2).wr pwrBase F.PWR_PDSTAT_ON (2 ^ 44 - 1)).wr mmemBase F.HBM_MAP_STACKS_UP (2 ^ 20 - 1)

/-- An instruction word of an opcode, a class and operand bits. -/
def word (op cls f : Nat) : IWord := BitVec.ofNat 128 (op * 2 ^ 120 + cls * 2 ^ 116 + f)

/-- A class-0 word: RD, RS1, RS2 and IMM. -/
def sword (op rd rs1 rs2 imm : Nat) : IWord := word op 0 (rd * 2 ^ 107 + rs1 * 2 ^ 102 + rs2 * 2 ^ 97 + imm)

/-- `up` with core 1 running and a word at its program counter. -/
def run (w : IWord) : State := (up.wr (coreBase 1) F.SEQ_STATUS_STATE 1).onCore 1 fun r => { r with imem := [(0, w)] }

/-- `up` with core 1 running and a word at the head of one of its queues. -/
def head (q : Queue) (w : IWord) : State := (run 0).onCore 1 fun r => { r with queues := vupd r.queues q fun _ => [.instr w 0] }

/-- The state after a command. -/
def nx (i : Instr) (s : State) : State :=
  match exec i s with
  | .next t => t
  | _ => s

/-! ### The spec's worked examples -/

/-- No word spells a command: the table gives no row bits. -/
theorem test_no_word (n w : Nat) : decodeTableWord n w = none := rfl

/-- The BF16 pass of ch. 06's worked example, with K = 4,100. -/
def badPass : IWord := BitVec.ofNat 128 (0x4030033584040401 * 2 ^ 64 + 0x0850000000000000)

/-- The seventh skip since the counter was read: the third doubleword of its log entry is 0x0000_0007_00C2_4200. -/
theorem test_pass_refused :
    let s := ((up.wr (coreBase 1) F.SEQ_STATUS_STATE 1).wr (coreBase 1) F.SEQ_ILLCNT_COUNT 6).onCore 1 fun r =>
      { r with queues := vupd r.queues 2 fun _ => [.instr badPass 0x200] }
    let t := nx (.pass 1 2) s
    let b := coreBase 1
    t.rd b F.SEQ_ILLOG_IADDR 0 + t.rd b F.SEQ_ILLOG_REASON 0 * 2 ^ 14 + t.rd b F.SEQ_ILLOG_UNIT 0 * 2 ^ 22 + t.rd b F.SEQ_ILLOG_SEQNO 0 * 2 ^ 32
      = 0x0000000700C24200 := by decide +kernel

/-- The cancellation of ch. 03: an E4M3 by E5M2 pass with MX scales over K = 32 leaves 0x3FB6_8000_0000. -/
theorem test_cancellation :
    let p : PassF := { passF 0 with fa := 5, fb := 6, scales := 2, m := 1, n := 1, k := 32, init := true }
    passCell p (0x78 :: List.replicate 30 0x03 ++ [0xF8]) (0x64 :: List.replicate 30 0x08 ++ [0x64]) (fun _ => 0x85) (fun _ => 0x85)
      = 0x3FB680000000 := by decide +kernel

/-- With T = 2^28 the tile of ch. 03's second table ends at 22 × 2^-8: one bit is lost. -/
theorem test_fold_loses_a_bit :
    let p := passF 0
    let t (neg : Bool) : AccWord := BitVec.ofNat 48 (Fmt.rne 2 (.fin neg 1 28))
    foldWord p (foldWord p (t false) 0x3FB680000000) (t true) = BitVec.ofNat 48 (Fmt.rne 2 (.fin false 22 (-8))) := by decide +kernel

/-- SCALE of ch. 03's record example: 0x78 with MARGIN 0, 0x79 with MARGIN 1 (h = 3.0, E4M3). -/
theorem test_next_scale :
    let r (margin : Nat) : ScaleRec := ⟨[0x4020, 0x4040, 0x4030], 0x7F, 5, margin, 2, 3, true, false, 0⟩
    ((r 0).nextScale, (r 1).nextScale) = (0x78, 0x79) := by decide +kernel

/-- Logical cores of ch. 00's example: physical core 10 is logical core 9 where die 0 disables core 9. -/
theorem test_logical_core :
    let s := { up with disabled := vupd up.disabled 0 fun _ => 9 }
    (s.logicalOf 8, s.logicalOf 9, s.logicalOf 10, s.physOf 9) = (some 8, none, some 9, some 10) := by decide +kernel

/-- Where the two addresses of ch. 10's example lie, with N = 8. -/
theorem test_where_an_address_lies :
    let s := up.wr mmemBase F.HBM_MAP_DIELOCAL 8
    (s.locate 0x1234567890, s.locate 0x12C00005123) = (some (3, 0xE9045890), some (10, 0xE00001123)) := by decide +kernel

/-- The position of ch. 11's draw: step 1,234 of layer 17, tile 5, element 394. -/
theorem test_draw_position : (RngPos.mk 394 5 17 1234).words = (0x18A, 5, 0x004D2011, 0) := by decide

/-- The abort record of ch. 14: bytes 0 to 7. -/
theorem test_abort_record : leNat ((cqBytes ⟨2, 4, 2, 0⟩ true 0).take 8) = 0x0000000200040102 := by decide +kernel

/-- The doorbell of ch. 14: COUNT 1 to flag 9 of logical core 12, and GO. -/
theorem test_doorbell :
    let c := (up.physOf 12).getD 0
    let t := nx (.doorbellGo 0 0 0x1000124C) (up.setFlag c 9 3)
    (t.flag c 9, t.seqState c) = (4, 1) := by decide +kernel

/-- The record of ch. 16's residue mismatch: its second and third doublewords. -/
theorem test_error_record :
    ((errRec 2 0x1 (engId 10 2) (0x46 + 0x21 * 256 + 0x46 * 65536) 0 0x03 0x2 3).words 0 57).drop 1 =
      [0x00462146002A0102, 0x0000003903020300, 0] := by decide +kernel

/-- The report entry of ch. 18's port 7, up at four lanes, is 0x01ED. -/
theorem test_port_entry :
    let s := ((up.wr (brdBase 7) F.BRD_STATUS_STATE 2).wr (brdBase 7) F.BRD_STATUS_WIDTH 3).wr (brdBase 7) F.BRD_STATUS_LANES 0x0F
    leNat (rptEntry (s.rptPort 7).1 (s.rptPort 7).2) = 0x01ED := by decide +kernel

/-- A host read of a core's status in its own width shows STATE 1; a narrow one reads as zero (R10). -/
theorem test_host_read_width :
    let s := up.wr (coreBase 1) F.SEQ_STATUS_STATE 1
    let a := coreBase 1 + R.SEQ_STATUS.off
    ((s.hostRead 0 a 8).2.1.take 1, (s.hostRead 0 a 4).2.1) = ([1], [0, 0, 0, 0]) := by decide +kernel

/-- What the configuration spaces report: the Revision ID is 0xA0, the VFs' Device ID 0x4821, and VF 16 stands at PF0's routing ID plus 16 (R1,
R340). -/
theorem test_configuration :
    (configOf 0).revision = 0xA0 ∧ (configOf 16).revision = 0xA0 ∧ (configOf 0).device = 0x4820 ∧ (configOf 16).device = 0x4821 ∧
      routingId 0x100 16 = 0x110 := by decide

/-- SHA-512 of "abc" as FIPS 180-4 gives it, and the second test case of RFC 4231 for HMAC-SHA-512; digests and keys are little-endian (log entry 25). -/
theorem test_sha512 :
    (leBytes 64 (sha512 [0x61, 0x62, 0x63])).take 8 = [0xDD, 0xAF, 0x35, 0xA1, 0x93, 0x61, 0x7A, 0xBA] ∧
      (leBytes 64 (hmac512 [0x4A, 0x65, 0x66, 0x65] ([0x77, 0x68, 0x61, 0x74, 0x20, 0x64, 0x6F, 0x20, 0x79, 0x61, 0x20, 0x77, 0x61, 0x6E, 0x74, 0x20,
        0x66, 0x6F, 0x72, 0x20, 0x6E, 0x6F, 0x74, 0x68, 0x69, 0x6E, 0x67, 0x3F]))).take 8 = [0x16, 0x4B, 0x7A, 0x7B, 0xFC, 0xF8, 0x19, 0xE2] := by
  decide +kernel

/-! ### Commands the outside cannot send -/

/-- A flit, a cable end, a boot test, readings and a class message that are well formed. -/
def okFlit : BFlit := ⟨0, 0, 0, 0, false, List.replicate 240 0⟩
@[inherit_doc okFlit] def okEnd : CableEnd := ⟨1, 1, true, 0, 0, (0, 0), false⟩
@[inherit_doc okFlit] def okBoot : BootTest := ⟨true, true, none, 0, 0, 0, 0, []⟩
@[inherit_doc okFlit] def okReads : Readings := ⟨0, 0, 0, [0, 0, 0, 0], 0, 0, List.replicate 33 (0, 0, 0)⟩
@[inherit_doc okFlit] def okMsg : ClassMsg := ⟨0, 0, 0, 0, [], []⟩

/-- They are accepted. -/
theorem test_well_formed_accepted :
    ∀ i ∈ ([.brideFlitReceive 0 okFlit (0, 0) true, .cableInsertion 0 okEnd, .bringUpStart okBoot,
      .governorInterval ⟨0, 0, 0, 0⟩ okReads, .classConfirm okMsg, .cxlMemWrite 0 0 [0] false] : List Instr), i.wf = true := by
  decide +kernel

/-- Each check on the widths and lengths of a transfer's or an access's operands refuses a command that breaks it alone. -/
theorem test_ill_formed_access :
    ∀ i ∈ ([.bobbinRequestComplete 0 0 512 [] false, .bobbinRequestComplete 0 0 0 (List.replicate 513 0) false,
      .remoteScratchpadRead 0 0 512, .imemHostWrite 0 0 0x3FFFF [0, 0], .scratchpadApertureWrite 0 0 0xFFFFFF [0, 0],
      .accApertureWrite 0 0 0xFFFFFF [0, 0], .registerWrite 0 (.reg (2 ^ 48) 4) 0, .registerWrite 0 (.reg 0 3) 0,
      .registerWrite 0 (.vector 128 false) 0, .registerWrite 0 (.bar 1 0 4) 0, .registerWrite 0 (.bar 0 (2 ^ 32) 4) 0, .registerWrite 0 (.pages 0 [(2 ^ 48, 1, 0, false)]) 0,
      .registerWrite 0 (.pages 0 [(0, 0, 0, false)]) 0, .windowWritePacket 0 (2 ^ 32), .remoteResponseTimeout 0 0 512,
      .creditRequestPacket 0 0 0 (2 ^ 32) 0 0, .cxlMemWrite 0 0 [] false, .cxlMemWrite 0 63 [0, 0] false,
      .biSnoopResponse 0 (some [0]), .cxlResponseTimeout 0 0 512, .mirrorEnable 0 0 0 (2 ^ 16)] : List Instr), i.wf = false := by
  decide +kernel

/-- The same for flits, cable ends and what the platform sends. -/
theorem test_ill_formed_platform :
    ∀ i ∈ ([.brideFlitReceive 0 { okFlit with kind := 4 } (0, 0) true, .brideFlitReceive 0 { okFlit with cls := 4 } (0, 0) true,
      .brideFlitReceive 0 { okFlit with seq := 2 ^ 16 } (0, 0) true, .brideFlitReceive 0 { okFlit with ack := 2 ^ 16 } (0, 0) true,
      .brideFlitReceive 0 { okFlit with payload := [] } (0, 0) true, .laneBerWindow 0 [] 0, .laneBerWindow 0 [0, 0, 0, 0, 0, 0, 0, 1] 0,
      .trainingWindowEnd 0 ⟨[0], 0, 0, 0, 0⟩ true, .trainingWindowEnd 0 ⟨List.replicate 8 0, 0, 1, 0, 0⟩ true,
      .cableInsertion 0 { okEnd with kind := 3 }, .cableInsertion 0 { okEnd with kind := 0 }, .cableInsertion 0 { okEnd with matings := 2 ^ 16 },
      .cableInsertion 0 { okEnd with hours := 2 ^ 32 }, .cableInsertion 0 { okEnd with host := (0, 12) },
      .bringUpStart { okBoot with cxl := some ⟨5, true, true, true, true⟩ }, .bringUpStart { okBoot with cores := 2 ^ 64 }, .bringUpStart { okBoot with stackBad := 2 ^ 20 },
      .referenceClockRestored { okBoot with bridges := 16 }, .junctionCooled { okBoot with dies := 16 },
      .spdmRequest true (.getCertificate 8), .spdmRequest true (.challenge 8), .spdmRequest true (.getMeasurements 8 0 true),
      .spdmRequest true (.keyExchange 8 0), .governorInterval ⟨0, 0, 0, 0⟩ { okReads with tj := [] },
      .governorInterval ⟨0, 0, 0, 0⟩ { okReads with stack := 20 }, .governorInterval ⟨0, 0, 0, 0⟩ { okReads with rails := [] },
      .classConfirm { okMsg with cls := 256 }, .classConfirm { okMsg with modId := 2 ^ 16 },
      .classConfirm { okMsg with serial := 2 ^ 64 }, .classConfirm { okMsg with nonce := 2 ^ 256 }] : List Instr), i.wf = false := by
  decide +kernel

/-! ### What meets the premises of the statements -/

/-! ### What meets the premises of the statements -/

/-- The premises of `Obligations.ScalarResults` are met. -/
theorem witness_scalarResults :
    ∃ (c : PCore) (s : State) (w : IWord), ∃ e ∈ scalarOps c, s.Executes c e.2.1 w :=
  ⟨1, run (sword 1 2 3 4 0), sword 1 2 3 4 0, (.add 1, 0x01, fun a b _ => a + b), by simp [scalarOps], by decide⟩

/-- The premises of `Obligations.ScalarReads` are met, clause by clause. -/
theorem witness_scalarReads :
    (∃ (c : PCore) (s : State) (w : IWord), s.Executes c 0x00 w) ∧
    (∃ (c : PCore) (s : State) (w : IWord), s.Executes c 0x13 w) ∧
    (∃ (c : PCore) (s : State) (w : IWord), s.Executes c 0x14 w ∧ (immOf w).toNat ≤ 63) ∧
    (∃ (c : PCore) (s : State) (w : IWord), s.Executes c 0x11 w ∧ dwordOk (s.x c (rs1Of w) + immOf w).toNat = true ∧ s.Clean c (s.x c (rs1Of w) +
      immOf w).toNat 8) ∧
    (∃ (c : PCore) (s : State) (w : IWord), s.Executes c 0x0F w) ∧
    (∃ (c : PCore) (s : State) (w : IWord), s.Executes c 0x0C w) ∧
    (∃ (c : PCore) (s : State) (w : IWord), s.Executes c 0x0D w) ∧
    (∃ (c : PCore) (s : State) (w : IWord), s.Executes c 0x0E w) ∧
    (∃ (c : PCore) (s : State) (w : IWord), s.Executes c 0x10 w ∧ (s.x c (rs1Of w)).toNat ≤ 8191) :=
  ⟨⟨1, run 0, 0, by decide +kernel⟩,
   ⟨1, run (sword 0x13 2 0 0 1), sword 0x13 2 0 0 1, by decide +kernel⟩,
   ⟨1, run (sword 0x14 2 0 0 63), sword 0x14 2 0 0 63, by decide +kernel⟩,
   ⟨1, run (sword 0x11 2 0 0 (0xC00000 - 8)), sword 0x11 2 0 0 (0xC00000 - 8), by decide +kernel⟩,
   ⟨1, run (sword 0x0F 2 0 0 8191), sword 0x0F 2 0 0 8191, by decide +kernel⟩,
   ⟨1, run (sword 0x0C 0 3 4 0), sword 0x0C 0 3 4 0, by decide +kernel⟩,
   ⟨1, run (sword 0x0D 0 3 0 5), sword 0x0D 0 3 0 5, by decide +kernel⟩,
   ⟨1, run (sword 0x0E 0 0 0 8191), sword 0x0E 0 0 0 8191, by decide +kernel⟩,
   ⟨1, (run (sword 0x10 0 3 0 0)).setX 1 3 8191, sword 0x10 0 3 0 0, by decide +kernel⟩⟩

/-- The premises of `Obligations.StoreWrites` are met. -/
theorem witness_storeWrites :
    ∃ (c : PCore) (s : State) (w : IWord), s.Executes c 0x12 w ∧ dwordOk (s.x c (rs1Of w) + immOf w).toNat = true :=
  ⟨1, (run (sword 0x12 0 3 4 16)).setX 1 4 0x1122334455667788, sword 0x12 0 3 4 16, by decide +kernel⟩

/-- The premises of `Obligations.ScalarFrame` are met. -/
theorem witness_scalarFrame :
    ∃ (c : PCore) (s t : State) (w : IWord), ∃ e ∈ (.nop c, 0x00, fun a _ _ => a) :: scalarOps c, s.Executes c e.2.1 w ∧ exec e.1 s = .next t :=
  ⟨1, run 0, nx (.nop 1) (run 0), 0, (.nop 1, 0x00, fun a _ _ => a), by simp, by decide, rfl⟩

/-- The premises of `Obligations.SequencerWaits` are met, clause by clause. -/
theorem witness_sequencerWaits :
    (∃ (c : PCore) (s : State) (w : IWord), s.Executes c 0x15 w ∧ s.qlen c (rdOf w) ≤ (immOf w).toNat ∧ s.pc c < 8191) ∧
    (∃ (c : PCore) (s : State) (w : IWord), s.Executes c 0x15 w ∧ (immOf w).toNat < s.qlen c (rdOf w)) ∧
    (∃ (c : PCore) (s : State), s.seqState c = 1 ∧ s.rd (coreBase c) F.SEQ_STATUS_BLOCK = 2 ∧ s.qlen c (rdOf (s.fetch c)) ≤ (immOf (s.fetch c)).toNat
      ∧ s.pc c < 8191) ∧
    (∃ (c : PCore) (s : State) (w : IWord), s.Executes c 0x16 w) ∧
    (∃ (c : PCore) (s : State), s.seqState c = 1 ∧ s.rd (coreBase c) F.SEQ_STATUS_BLOCK = 4 ∧ s.queuesEmpty c = true) ∧
    (∃ (c : PCore) (s : State) (w : IWord), s.Executes c 0x17 w) ∧
    (∃ (c : PCore) (s : State), s.seqState c = 1 ∧ s.rd (coreBase c) F.SEQ_STATUS_BLOCK = 6 ∧ s.queuesEmpty c = true ∧ s.coreIdle c = true) :=
  ⟨⟨1, run (sword 0x15 2 0 0 0), sword 0x15 2 0 0 0, by decide +kernel⟩,
   ⟨1, (head 2 0).onCore 1 fun r => { r with imem := [(0, sword 0x15 2 0 0 0)] }, sword 0x15 2 0 0 0, by decide +kernel⟩,
   ⟨1, (run (sword 0x15 2 0 0 0)).wr (coreBase 1) F.SEQ_STATUS_BLOCK 2, by decide +kernel⟩,
   ⟨1, run (sword 0x16 0 0 0 7), sword 0x16 0 0 0 7, by decide +kernel⟩,
   ⟨1, (run (sword 0x16 0 0 0 7)).wr (coreBase 1) F.SEQ_STATUS_BLOCK 4, by decide +kernel⟩,
   ⟨1, run (sword 0x17 0 0 0 0), sword 0x17 0 0 0 0, by decide +kernel⟩,
   ⟨1, (run (sword 0x17 0 0 0 0)).wr (coreBase 1) F.SEQ_STATUS_BLOCK 6, by decide +kernel⟩⟩

def illegal : State := run (sword 0x0E 0 0 0 8192)

/-- The premises of `Obligations.IllegalIsSkipped` are met, clause by clause. -/
theorem witness_illegalIsSkipped :
    (∃ w : IWord, (opcodeOf w = 0x0E ∨ opcodeOf w = 0x0F ∨ opcodeOf w = 0x16) ∧ 8191 < (immOf w).toNat) ∧
    (∃ (c : PCore) (s : State) (w : IWord), ∃ e ∈ seqOps c, s.seqReady c = true ∧ s.fetch c = w ∧ opcodeOf w = e.2 ∧ classOf w = 0 ∧ fetchCheck w ≠ 0
      ∧ s.on (coreBase c) F.SEQ_CTRL_STRICT = false ∧ s.pc c < 8192 ∧ s.rd (coreBase c) F.SEQ_ILLPTR_NEXT < 32) ∧
    (∃ (c : PCore) (s : State) (w : IWord), s.Executes c 0x10 w ∧ 8191 < (s.x c (rs1Of w)).toNat ∧ s.on (coreBase c) F.SEQ_CTRL_STRICT = false ∧ s.pc
      c < 8192 ∧ s.rd (coreBase c) F.SEQ_ILLPTR_NEXT < 32) ∧
    (∃ (c : PCore) (s : State), s.seqState c = 1 ∧ (s.core c).pastEnd = true ∧ (s.core c).readyAt ≤ s.cycle) ∧
    (∃ (c : PCore) (s : State) (w : IWord), ∃ e ∈ [(Instr.ld c, 0x11), (.st c, 0x12)], s.Executes c e.2 w ∧ dwordOk (s.x c (rs1Of w) + immOf w).toNat
      = false ∧ s.on (coreBase c) F.SEQ_CTRL_STRICT = false ∧ s.pc c < 8192 ∧ s.rd (coreBase c) F.SEQ_ILLPTR_NEXT < 32) ∧
    (∃ (c : PCore) (s : State) (w : IWord), ∃ e ∈ seqOps c, s.seqReady c = true ∧ s.fetch c = w ∧ opcodeOf w = e.2 ∧ classOf w = 0 ∧ fetchCheck w ≠ 0
      ∧ s.on (coreBase c) F.SEQ_CTRL_STRICT = true ∧ s.rd (coreBase c) F.SEQ_ILLPTR_NEXT < 32) :=
  ⟨⟨sword 0x0E 0 0 0 8192, by decide, by decide⟩,
   ⟨1, illegal, sword 0x0E 0 0 0 8192, (.br 1, 0x0E), by simp [seqOps], by decide +kernel⟩,
   ⟨1, (run (sword 0x10 0 3 0 0)).setX 1 3 8192, sword 0x10 0 3 0 0, by decide +kernel⟩,
   ⟨1, (run 0).onCore 1 fun r => { r with pastEnd := true }, by decide +kernel⟩,
   ⟨1, run (sword 0x12 0 0 0 4), sword 0x12 0 0 0 4, (.st 1, 0x12), by simp, by decide +kernel⟩,
   ⟨1, illegal.setOn (coreBase 1) F.SEQ_CTRL_STRICT, sword 0x0E 0 0 0 8192, (.br 1, 0x0E), by simp [seqOps], by decide +kernel⟩⟩

def dead : State :=
  let s := run 0
  { s with parts := vupd s.parts 0 fun r => { r with declared := some 0 } }
def waits : State := ({ run 0 with cycle := 100 }).onCore 1 fun r => { r with waiters := [⟨0, false, 5, 1, 0, 100, 0⟩] }
def ringWaits : State := ({ run 0 with cycle := 2 ^ 30 }).onBob 1 1 fun r => { r with ringWait := some 3 }
def marker : State := ({ run 0 with cycle := 2 ^ 30 }).onCore 1 fun r => { r with queues := vupd r.queues 0 fun _ => [.marker 0 0] }

/-- The premises of `Obligations.AbortsTask` are met, clause by clause. -/
theorem witness_abortsTask :
    (∃ (c : PCore) (s : State), s.seqState c = 1 ∧ (s.core c).pastEnd = true ∧ (s.core c).readyAt ≤ s.cycle) ∧
    (∃ (p : Part) (n : Nat) (s : State), s.parts[p].declared = some n ∧ n ≤ s.cycle) ∧
    (∃ (c : PCore) (who : Fin 9) (s : State) (w : Waiter), ((s.seqState c = 1 ∨ s.seqState c = 2)) ∧ s.waiterAt c who = some w ∧ w.since + w.limit ≤
      s.cycle) ∧
    (∃ (c : PCore) (b : Bob) (r : Nat) (s : State), ((s.seqState c = 1 ∨ s.seqState c = 2)) ∧ s.waiterAt c ⟨5 + b.val, by omega⟩ = none ∧ (s.bob c
      b).ringWait = some r ∧ (s.core c).headAt[bobQueue b] + s.waitLimit c 0 ≤ s.cycle) ∧
    (∃ (c : PCore) (q : Queue) (s : State) (ep ia : Nat) (l : List QItem), s.queue c q = .marker ep ia :: l ∧ ((s.seqState c = 1 ∨ s.seqState c = 2))
      ∧ (s.core c).headAt[q] + s.waitLimit c 0 ≤ s.cycle) :=
  ⟨⟨1, (run 0).onCore 1 fun r => { r with pastEnd := true }, by decide +kernel⟩,
   ⟨0, 0, dead, by decide⟩,
   ⟨1, 0, waits, ⟨0, false, 5, 1, 0, 100, 0⟩, by decide +kernel⟩,
   ⟨1, 1, 3, ringWaits, by decide +kernel⟩,
   ⟨1, 0, marker, 0, 0, [], by decide +kernel⟩⟩

def window : State := ((run (word 0x21 0 (3 * 2 ^ 107 + 2 ^ 91))).wr (spdBase 1) F.SPD_WINOPEN_OPEN 4).wr (spdBase 1) F.SPD_WIN_A_COUNTER 3 2

/-- The premises of `Obligations.WaitTakes` are met, clause by clause. -/
theorem witness_waitTakes :
    (∃ (c : PCore) (who : Fin 9) (s : State) (w : IWord) (ia h : Nat), TakesSync s c who 0x20 w ia h ∧ ((∀ v ∈ (s.core c).waiters, ¬ (v.ctr = false ∧
      v.num = fieldOf w 106 6))) ∧ fieldOf w 90 16 ≤ s.flag c (fieldOf w 106 6) ∧ s.cycle < h + s.waitLimit c (fieldOf w 70 20)) ∧
    (∃ (c : PCore) (who : Fin 9) (s : State) (w : IWord) (ia h : Nat), TakesSync s c who 0x20 w ia h ∧ s.flag c (fieldOf w 106 6) < fieldOf w 90 16) ∧
    (∃ (c : PCore) (who : Fin 9) (s : State) (w : IWord) (ia h k : Nat), TakesSync s c who 0x21 w ia h ∧ s.counterWindow c (fieldOf w 107 5) = some k
      ∧ s.winOpen c k = true ∧ s.on (spdBase c) F.SPD_WIN_A_CREDIT k = false ∧ ((∀ v ∈ (s.core c).waiters, ¬ (v.ctr = true ∧ v.num = fieldOf w 107
      5))) ∧ fieldOf w 91 16 ≤ s.arrive c (fieldOf w 107 5) ∧ s.cycle < h + s.waitLimit c (fieldOf w 71 20)) ∧
    (∃ (c : PCore) (who : Fin 9) (s : State) (w : Waiter), s.waiterAt c who = some w ∧ s.seqState c = 1 ∧ s.grantable c w = true ∧ s.cycle < w.since +
      w.limit ∧ w.ctr = false ∧ w.num < 64) :=
  ⟨⟨1, 0, (run (word 0x20 0 (5 * 2 ^ 106 + 2 ^ 90))).setFlag 1 5 3, word 0x20 0 (5 * 2 ^ 106 + 2 ^ 90), 0, 0, Or.inl (by decide), by decide⟩,
   ⟨1, 0, run (word 0x20 0 (5 * 2 ^ 106 + 2 ^ 90)), word 0x20 0 (5 * 2 ^ 106 + 2 ^ 90), 0, 0, Or.inl (by decide), by decide⟩,
   ⟨1, 0, window.wr (spdBase 1) F.SPD_ARRIVE_COUNT 9 3, word 0x21 0 (3 * 2 ^ 107 + 2 ^ 91), 0, 0, 2, Or.inl (by decide), by decide⟩,
   ⟨1, 0, ({ waits with cycle := 99 }).setFlag 1 5 1, ⟨0, false, 5, 1, 0, 100, 0⟩, by decide +kernel⟩⟩

def cutting : State := (run 0).onCore 1 fun r => { r with queues := Vector.replicate 8 [.marker 1 0] }

/-- The premises of `Obligations.SignalReleaseCut` are met, clause by clause. -/
theorem witness_signalReleaseCut :
    (∃ (c : PCore) (who : Fin 9) (s : State) (w : IWord) (ia h : Nat), TakesSync s c who 0x22 w ia h ∧ s.queueSettled c who = true ∧ ((fieldOf w 89 1
      = 0 ∨ s.physOf (fieldOf w 83 6) = some c)) ∧ s.FlagFits c (fieldOf w 106 6) (fieldOf w 90 16)) ∧
    (∃ (c d : PCore) (who : Fin 9) (s : State) (w : IWord) (ia h : Nat), TakesSync s c who 0x22 w ia h ∧ s.queueSettled c who = true ∧ fieldOf w 89 1
      = 1 ∧ s.physOf (fieldOf w 83 6) = some d ∧ s.partOf d = s.partOf c ∧ d ≠ c) ∧
    (∃ (i : Nat) (s : State) (m : SigMsg), s.sigs[i]? = some m ∧ s.sigFlows m = true ∧ s.TakesFlags m.core ∧ m.flag < 64 ∧ s.FlagFits m.core m.flag
      m.inc) ∧
    (∃ (i : Nat) (s : State) (m : SigMsg), s.sigs[i]? = some m ∧ s.sigFlows m = true ∧ ((4 ≤ s.seqState m.core ∨ s.inReset m.core = true))) ∧
    (∃ (c : PCore) (who : Fin 9) (s : State) (w : IWord) (ia h : Nat), TakesSync s c who 0x23 w ia h ∧ s.readsDone c who = true ∧ s.on (bobcBase c)
      F.BOB_RING_CFG_ENABLE (fieldOf w 108 4) = true ∧ fieldOf w 103 5 ≤ (s.rd (bobcBase c) F.BOB_RING_PTR_TAIL (fieldOf w 108 4) + 65536 - s.rd
      (bobcBase c) F.BOB_RING_PTR_HEAD (fieldOf w 108 4)) % 65536) ∧
    (∃ (c : PCore) (s : State) (w : IWord), s.Executes c 0x24 w ∧ fieldOf w 96 16 = s.rd mirBase F.MIR_EPOCH_NEXT (s.partOf c) % 65536 ∧ ((s.core
      c).queues.toList.any fun q => decide (q.length ≥ 64)) = false) ∧
    (∃ (p : Part) (s : State), s.cutReady p.val = true ∧ s.on mirBase F.MIR_CFG_EN p.val = false) ∧
    (∃ (p : Part) (s : State), s.cutReady p.val = true ∧ s.on mirBase F.MIR_CFG_EN p.val = true ∧ s.rd mirBase F.MIR_STATE_STATE p.val ≠ 5 ∧
      s.mir[p].epoch = none) :=
  ⟨⟨1, 0, (run (word 0x22 0 (63 * 2 ^ 106 + 2 ^ 90))).setFlag 1 63 65534, word 0x22 0 (63 * 2 ^ 106 + 2 ^ 90), 0, 0, Or.inl (by decide), by decide⟩,
   ⟨1, 2, 0, run (word 0x22 0 (5 * 2 ^ 106 + 2 ^ 90 + 2 ^ 89 + 2 ^ 83)), word 0x22 0 (5 * 2 ^ 106 + 2 ^ 90 + 2 ^ 89 + 2 ^ 83), 0, 0, Or.inl
     (by decide), by decide⟩,
   ⟨0, { run 0 with sigs := [⟨2, 1, 63, 65535, 0⟩] }, ⟨2, 1, 63, 65535, 0⟩, by decide +kernel⟩,
   ⟨0, ({ run 0 with sigs := [⟨2, 1, 63, 65535, 0⟩] }).wr (coreBase 1) F.SEQ_STATUS_STATE 4, ⟨2, 1, 63, 65535, 0⟩, by decide +kernel⟩,
   ⟨1, 0, ((run (word 0x23 0 (15 * 2 ^ 108 + 2 ^ 103))).setOn (bobcBase 1) F.BOB_RING_CFG_ENABLE 15).wr (bobcBase 1) F.BOB_RING_PTR_TAIL 1 15, word
     0x23 0 (15 * 2 ^ 108 + 2 ^ 103), 0, 0, Or.inl (by decide), by decide⟩,
   ⟨1, run (word 0x24 0 (2 ^ 96)), word 0x24 0 (2 ^ 96), by decide +kernel⟩,
   ⟨0, cutting, by decide +kernel⟩,
   ⟨0, cutting.setOn mirBase F.MIR_CFG_EN 0, by decide +kernel⟩⟩

/-- The premises of `Obligations.HostControlsSequencer` are met, clause by clause. -/
theorem witness_hostControlsSequencer :
    (∃ (f : Func) (c : PCore) (s : State), s.Reaches f c ∧ s.inReset c = false ∧ (s.core c).fillEnd = none ∧ s.underTest c = false ∧ ((s.seqState c =
      0 ∨ s.seqState c = 2 ∨ s.seqState c = 3))) ∧
    (∃ (f : Func) (c : PCore) (s : State), s.Reaches f c ∧ s.underTest c = true) ∧
    (∃ (f : Func) (c : PCore) (s : State), s.Reaches f c ∧ s.seqState c = 1) ∧
    (∃ (f : Func) (c : PCore) (s : State), s.Reaches f c ∧ s.seqState c = 2 ∧ s.inReset c = false) ∧
    (∃ (f : Func) (c : PCore) (v : BitVec 32) (s : State), s.Reaches f c ∧ s.TakesFlags c ∧ bits v.toNat 16 16 ≠ 0 ∧ s.FlagFits c (bits v.toNat 0 6)
      (bits v.toNat 16 16)) ∧
    (∃ (f : Func) (c : PCore) (s : State), s.Reaches f c ∧ s.underTest c = false ∧ ((s.seqState c = 1 ∨ 4 ≤ s.seqState c))) :=
  ⟨⟨0, 1, ((up.wr (coreBase 1) F.SEQ_STATUS_STATE 3).wr (coreBase 1) F.SEQ_START_PC 8191).wr (coreBase 1) F.SEQ_START_BANK 1, by decide +kernel⟩,
   ⟨0, 1, { run 0 with quar := [⟨2, 5, 0, 0, 0, 0, some 0, none, false, true⟩] }, by decide +kernel⟩,
   ⟨0, 1, run 0, by decide +kernel⟩,
   ⟨0, 1, (run 0).wr (coreBase 1) F.SEQ_STATUS_STATE 2, by decide +kernel⟩,
   ⟨0, 1, BitVec.ofNat 32 (0xFFFF003F), run 0, by decide +kernel⟩,
   ⟨0, 1, (run 0).wr (coreBase 1) F.SEQ_STATUS_STATE 4, by decide +kernel⟩⟩

def passWord : IWord := word 0x40 1 (0xA * 2 ^ 104 + 0xA * 2 ^ 100 + 15 * 2 ^ 96 + 2 ^ 95 + 2 * 2 ^ 83 + 2 * 2 ^ 75 + 16 * 2 ^ 62)
def loadWord : IWord := word 0x41 1 (0xA * 2 ^ 108 + 16 * 2 ^ 98 + 128 * 2 ^ 90)

/-- The premises of `Obligations.EngineQueue` are met, clause by clause. -/
theorem witness_engineQueue :
    (∃ (c : PCore) (e : Eng) (s : State) (w : IWord) (ia : Nat), s.AtHead c (eqOf e) 0x40 w ia ∧ PassLegal s c e w ∧ PassMayStart s c e w) ∧
    (∃ (c : PCore) (e : Eng) (s : State) (w : IWord) (ia : Nat), s.AtHead c (eqOf e) 0x41 w ia ∧ ((s.engState c e = 0 ∨ s.engState c e = 7)) ∧
      LoadLegal s c w) ∧
    (∃ (c : PCore) (e : Eng) (s : State) (l : PendingLoad) (ls : List PendingLoad), (s.eng c e).loads = l :: ls ∧ ((s.engState c e = 0 ∨ s.engState c
      e = 7)) ∧ l.earliest ≤ s.cycle ∧ (s.eng c e).floor ≤ s.cycle ∧ ((∀ f, (s.eng c e).front = some f → f + 128 ≤ s.cycle)) ∧ ((∀ v < l.opnd.vecs, ∀
      k ∈ vectorLines l.opnd.base l.opnd.pitch l.opnd.w l.opnd.tr v l.opnd.elems, SMap.get false (s.core c).spadPois k = false ∧ ∀ b ∈ (s.core
      c).spadBad, b.2 = true → b.1 / 8 ≠ k)) ∧ ((loadTW l.word = true → l.arrived < (s.eng c e).bufW → (s.eng c e).bufW + stagingOf (loadFmt l.word) ≤
      s.cycle))) ∧
    (∃ (c : PCore) (e : Eng) (s : State) (w : IWord) (ia : Nat), s.AtHead c (eqOf e) 0x42 w ia ∧ s.engState c e ≠ 5 ∧ s.engState c e ≠ 6 ∧ s.rdBit
      (accBase c e) F.ACC_SHADOW_BUSY_BUSY (drainTile w) = false ∧ s.drainFull c e = false) ∧
    (∃ (c : PCore) (e : Eng) (s : State) (w : IWord) (ia : Nat), s.AtHead c (eqOf e) 0x43 w ia ∧ s.engState c e ≠ 5 ∧ s.engState c e ≠ 6 ∧ s.drainFull
      c e = false) :=
  ⟨⟨1, 0, head 0 passWord, passWord, 0, by decide, ⟨by decide, ⟨.eight, by decide⟩, by decide⟩, ⟨by decide, by decide, by decide, by decide, by decide,
  (fun l h => by cases (h : none = some l)), by decide, by decide, by decide⟩⟩,
   ⟨1, 3, head 3 loadWord, loadWord, 0, by decide +kernel⟩,
   ⟨1, 3, (run 0).onEng 1 3 fun r => { r with loads := [⟨loadWord, ⟨0, 16, 8, false, 2, 4⟩, 0, 0, 0⟩] }, ⟨loadWord, ⟨0, 16, 8, false, 2, 4⟩, 0, 0, 0⟩,
     [], by decide, by decide, by decide, by decide, (fun f h => by cases (h : none = some f)), by decide +kernel, by decide⟩,
   ⟨1, 0, head 0 (word 0x42 1 (15 * 2 ^ 108)), word 0x42 1 (15 * 2 ^ 108), 0, by decide +kernel⟩,
   ⟨1, 0, head 0 (word 0x43 1 (15 * 2 ^ 108)), word 0x43 1 (15 * 2 ^ 108), 0, by decide +kernel⟩⟩

def taken : PassOps := ⟨⟨0, 8, 8, false, 2, 8⟩, ⟨0, 8, 8, false, 2, 8⟩, 0, 0, []⟩
def issued : Issued := ⟨passWord, 0, 0, 7, 128, 15, 0, [1, 2, 3, 4], taken, [], 8, none, false, false, false, 0, 0⟩
def passing : State := ({ run 0 with cycle := 7 + 48 + 128 - 1 }).onEng 1 0 fun r => { r with issued := [issued] }

/-- The premises of `Obligations.FoldWrites` are met. -/
theorem witness_foldWrites :
    ∃ (c : PCore) (e : Eng) (_err : Option (Fin 128 × Fin 128)) (s : State) (q : Issued) (l : List Issued), (s.eng c e).issued = q :: l ∧ q.injected =
      false ∧ q.poisonAt = none ∧ q.last + 48 + q.foldLen - 1 ≤ s.cycle ∧ ((∀ p ∈ l, s.cycle < p.last + 48)) ∧ (passF q.word).m ≤ 128 ∧ (passF
      q.word).n ≤ 128 :=
  ⟨1, 0, none, passing, issued, [], by decide +kernel⟩

def marked : Issued := ⟨passWord, 0, 0, 7, 128, 15, 0, [1, 2, 3, 4], taken, [], 8, some 64, false, false, false, 0, 0⟩

/-- The premises of `Obligations.EngineFaults` are met, clause by clause. -/
theorem witness_engineFaults :
    (∃ (c : PCore) (e : Eng) (s : State) (w : IWord) (ia : Nat), ∃ i ∈ [(Instr.pass c e, 0x40), (.loadw c e, 0x41), (.close c e, 0x42), (.drain c e,
      0x43)], s.AtHead c (eqOf e) i.2 w ia ∧ s.engState c e = 6) ∧
    (∃ (c : PCore) (e : Eng) (s : State) (n : Nat) (_k : PassErr) (_row _col : Fin 128) (q : Issued), (s.eng c e).issued[n]? = some q ∧ q.last + 29 ≤
      s.cycle ∧ s.cycle ≤ q.last + 32 ∧ q.poisonAt = none ∧ ((s.on (opeBase c e) F.OPE_CTRL_REPLAY = false ∨ q.replayed = true ∨ q.unguard = true))) ∧
    (∃ (c : PCore) (e : Eng) (s : State) (n : Nat) (_k : PassErr) (_row _col : Fin 128) (q : Issued), (s.eng c e).issued[n]? = some q ∧ q.last + 29 ≤
      s.cycle ∧ s.cycle ≤ q.last + 32 ∧ q.poisonAt = none ∧ s.on (opeBase c e) F.OPE_CTRL_REPLAY = true ∧ q.replayed = false ∧ q.unguard = false) ∧
    (∃ (c : PCore) (e : Eng) (s : State) (n : Nat) (_k : PassErr) (_row _col : Fin 128) (q : Issued) (a : Nat), (s.eng c e).issued[n]? = some q ∧
      q.last + 29 ≤ s.cycle ∧ s.cycle ≤ q.last + 32 ∧ q.poisonAt = some a) :=
  ⟨⟨1, 0, (head 0 passWord).wr (opeBase 1 0) F.OPE_STATUS_STATE 6, passWord, 0, (.pass 1 0, 0x40), by decide, by decide +kernel⟩,
   ⟨1, 0, { passing with cycle := 36 }, 0, .residue, 0, 127, issued, by decide⟩,
   ⟨1, 0, { passing with cycle := 36 }.setOn (opeBase 1 0) F.OPE_CTRL_REPLAY, 0, .residue, 0, 127, issued, by decide⟩,
   ⟨1, 0, ({ run 0 with cycle := 36 }).onEng 1 0 fun r => { r with issued := [marked] }, 0, .residue, 0, 127, marked, 64, by decide⟩⟩

/-- The premises of `Obligations.EngineStates` are met, clause by clause. -/
theorem witness_engineStates :
    (∃ (f : Func) (c : PCore) (e : Eng) (s : State), s.Reaches f c ∧ ((s.engState c e = 0 ∨ s.engState c e = 7))) ∧
    (∃ (f : Func) (c : PCore) (e : Eng) (s : State), s.Reaches f c ∧ s.engState c e = 5) ∧
    (∃ (c : PCore) (e : Eng) (s : State) (q : Nat), (s.eng c e).preemptAt = some q ∧ s.engState c e = 3 ∧ q ≤ s.cycle ∧ ((∀ l, (s.eng c e).lastE =
      some l → l + 1 ≤ s.cycle)) ∧ ((s.on (opeBase c e) F.OPE_CTRL_REPLAY = true → ∀ p ∈ (s.eng c e).issued, p.last + 32 < s.cycle))) ∧
    (∃ (f : Func) (c : PCore) (e : Eng) (s : State), s.Reaches f c ∧ ((s.engState c e = 3 ∨ s.engState c e = 4))) ∧
    (∃ (c : PCore) (e : Eng) (s : State) (d : DeferredTest), (s.eng c e).deferTest = some d ∧ (s.eng c e).issued = [] ∧ s.engState c e ≠ 6 ∧
      ((s.engIdle2048 c e = true ∨ s.taskEnded c = true))) ∧
    (∃ (c : PCore) (e : Eng) (s : State), s.engState c e = 6) ∧
    (∃ (c : PCore) (e : Eng) (s : State), s.on errBase F.ERR_CTRL_IST_EN = true ∧ s.engState c e = 0 ∧ s.engIdle2048 c e = true) ∧
    (∃ (c : PCore) (e : Eng) (s : State), s.engState c e = 7) ∧
    (∃ (c : PCore) (e : Eng) (s : State) (_row _col : Fin 128), s.engState c e = 7) ∧
    (∃ (c : PCore) (e : Eng) (s : State) (_row _col : Fin 128), s.engState c e ≠ 7 ∧ (s.eng c e).leftTest = true) :=
  ⟨⟨0, 1, 0, up, by decide +kernel⟩,
   ⟨0, 1, 0, up.wr (opeBase 1 0) F.OPE_STATUS_STATE 5, by decide +kernel⟩,
   ⟨1, 0, ((run 0).wr (opeBase 1 0) F.OPE_STATUS_STATE 3).onEng 1 0 fun r => { r with preemptAt := some 0 }, 0, by decide, by decide, by decide, (fun
     f h => by cases (h : none = some f)), by decide⟩,
   ⟨0, 1, 0, up.wr (opeBase 1 0) F.OPE_STATUS_STATE 4, by decide +kernel⟩,
   ⟨1, 0, ({ run 0 with cycle := 2048 }).onEng 1 0 fun r => { r with deferTest := some ⟨0, 1, 2⟩ }, ⟨0, 1, 2⟩, by decide⟩,
   ⟨1, 0, up.wr (opeBase 1 0) F.OPE_STATUS_STATE 6, by decide +kernel⟩,
   ⟨1, 0, ({ run 0 with cycle := 2048 }).setOn errBase F.ERR_CTRL_IST_EN, by decide +kernel⟩,
   ⟨1, 0, up.wr (opeBase 1 0) F.OPE_STATUS_STATE 7, by decide +kernel⟩,
   ⟨1, 0, up.wr (opeBase 1 0) F.OPE_STATUS_STATE 7, 127, 0, by decide +kernel⟩,
   ⟨1, 0, up.onEng 1 0 fun r => { r with leftTest := true }, 127, 0, by decide +kernel⟩⟩

def dword : IWord := word 0x42 1 (15 * 2 ^ 108 + 2 * 2 ^ 98)
def dreq : DrainReq := ⟨dword, 0, 15, 1⟩
def drun : DrainRun := ⟨dreq, [], 0, 0, 0, 0, 0, 0, 0, 98, 0, none, 0, 0, 0, 0, 0, 0, 0, false, false, false, 0⟩
def drains (f : DrainRec → DrainRec) : State := ({ run 0 with cycle := 99 }).onDrn 1 3 f
def answered (src : MemSrc) (data : List Byte) : State :=
  { drains fun r => { r with run := some drun } with memResps := vupd State.reset.memResps 19 fun _ => [⟨src, data, false, 0⟩] }
def scaled (row : Nat) : DrainRun := { drun with scale := some 0x7F, row := row }
def rowOut : RowOut := ⟨99, { scaled 2 with prof := [0, 0, 5, 1] }, 1, [0x11, 0x22], [], false⟩

/-- The premises of `Obligations.DrainUnit` are met, clause by clause. -/
theorem witness_drainUnit :
    (∃ (c : PCore) (e : Eng) (s : State) (r : DrainReq) (l : List DrainReq), (s.drn c e).queue = r :: l ∧ (s.drn c e).run = none ∧ s.pendingOf c e
      r.tile r.half = 0 ∧ SMap.get 0 (s.eng c e).halfFold (r.tile * 2 + r.half) ≤ s.cycle ∧ (((s.drn c e).lastRead = 0 ∨ (s.drn c e).lastRead <
      s.cycle)) ∧ ((r.fence = true → (s.drn c e).ended = [] ∧ (s.drn c e).emits = [] ∧ (s.drn c e).outs = [] ∧ (s.drn c e).allOut < s.cycle)) ∧
      DrainLegal s c e r (s.drainStart c e r)) ∧
    (∃ (c : PCore) (e : Eng) (k : Stack) (s : State) (p : MemResp) (d : DrainRun), (s.memResps[k].find? fun r => r.dst = .drain c.val e.val) = some p
      ∧ (s.drn c e).run = some d ∧ p.status = 0) ∧
    (∃ (c : PCore) (e : Eng) (s : State) (d : DrainRun), (s.drn c e).run = some d ∧ d.scale.isSome = true ∧ d.nextAt ≤ s.cycle ∧ d.row + 1 ≠
      d.req.rows) ∧
    (∃ (c : PCore) (e : Eng) (s : State) (d : DrainRun), (s.drn c e).run = some d ∧ d.scale.isSome = true ∧ d.nextAt ≤ s.cycle ∧ d.row + 1 =
      d.req.rows) ∧
    (∃ (c : PCore) (e : Eng) (s : State) (d : DrainRun) (l : List DrainRun), (s.drn c e).ended = d :: l ∧ d.outAt ≤ s.cycle ∧ ((∀ x ∈ (s.drn c
      e).outs, s.cycle < x.due)) ∧ ((d.poison = false → s.updatesFlow c d = true))) ∧
    (∃ (c : PCore) (e : Eng) (s : State) (d : DrainRun) (l : List DrainRun) (x : RowOut), (s.drn c e).ended = d :: l ∧ d.outAt ≤ s.cycle ∧ d.poison =
      true ∧ (s.drn c e).emits = [] ∧ (s.drn c e).outs = [x] ∧ x.due ≤ s.cycle ∧ (drnF x.run.prof).dest = 1 ∧ (drnF x.run.prof).scaleSrc ≠ 3 ∧ 8 ∣
      x.codes.length * (drnF x.run.prof).outBits) ∧
    (∃ (f : Func) (c : PCore) (e : Eng) (n : Fin 8) (k : Fin 5) (v : Word64) (s : State), s.Reaches f c ∧ (drnF ((s.profWords c e n.val).set k.val
      v.toNat)).legal = true) ∧
    (∃ (f : Func) (c : PCore) (e : Eng) (n : Fin 8) (k : Fin 5) (v : Word64) (s : State), s.Reaches f c ∧ (drnF ((s.profWords c e n.val).set k.val
      v.toNat)).legal = false) :=
  ⟨⟨1, 3, drains fun r => { r with queue := [dreq] }, dreq, [], by decide, by decide, by decide, by decide, by decide, by decide, ⟨by decide +kernel,
  by decide +kernel, by decide +kernel, by decide +kernel, by decide +kernel, by decide +kernel, by decide +kernel, by decide +kernel, fun h => absurd
  h (by decide +kernel)⟩⟩,
   ⟨1, 3, 19, answered (.drain 1 3) (List.replicate 64 0x7E), ⟨.drain 1 3, List.replicate 64 0x7E, false, 0⟩, drun, by decide +kernel⟩,
   ⟨1, 3, drains fun r => { r with run := some (scaled 0) }, scaled 0, by decide +kernel⟩,
   ⟨1, 3, drains fun r => { r with run := some (scaled 1) }, scaled 1, by decide +kernel⟩,
   ⟨1, 3, drains fun r => { r with ended := [scaled 2] }, scaled 2, [], by decide +kernel⟩,
   ⟨1, 3, drains fun r => { r with ended := [{ scaled 2 with poison := true }], outs := [rowOut] }, { scaled 2 with poison := true }, [], rowOut,
     by decide +kernel⟩,
   ⟨0, 1, 3, 7, 0, 0xCC000D, up, by decide +kernel⟩,
   ⟨0, 1, 3, 7, 2, 0xF, up, by decide +kernel⟩⟩

def vword (op : Nat) : IWord := word op 7 (5 * 2 ^ 87 + 2 ^ 83 + 2 ^ 79)

/-- The premises of `Obligations.VectorResults` are met, clause by clause. -/
theorem witness_vectorResults :
    (∃ (c : PCore) (s : State) (w : IWord) (ia : Nat), ∃ i ∈ vectorOps c, s.AtHead c 6 i.2 w ia ∧ VecLegal s (s.vecF c w)) ∧
    (∃ (c : PCore) (s : State) (w : IWord) (ia : Nat), s.AtHead c 6 0x6D w ia ∧ VecLegal s (s.vecF c w)) :=
  ⟨⟨1, (head 6 (vword 0x60)).setX 1 5 1, vword 0x60, 0, (.vadd 1, 0x60), by simp [vectorOps], by decide +kernel⟩,
   ⟨1, (head 6 (vword 0x6D)).setX 1 5 1, vword 0x6D, 0, by decide +kernel⟩⟩

/-- The premises of `Obligations.WindowsOpenAndClose` are met, clause by clause. -/
theorem witness_windowsOpenAndClose :
    (∃ (c : PCore) (s : State) (w : IWord) (ia : Nat), s.AtHead c 7 0xA3 w ia ∧ s.sendWaits c = false ∧ 64 ∣ bits (s.x c (fieldOf w 103 5)).toNat 0 32
      ∧ bits (s.x c (fieldOf w 103 5)).toNat 32 32 ≠ 0 ∧ 64 ∣ bits (s.x c (fieldOf w 103 5)).toNat 32 32 ∧ spadFits (bits (s.x c (fieldOf w 103
      5)).toNat 0 32) (bits (s.x c (fieldOf w 103 5)).toNat 32 32) = true ∧ s.winOpen c (fieldOf w 108 4) = false ∧ s.winDraining c (fieldOf w 108 4)
      = false ∧ s.counterWindow c (fieldOf w 98 5) = none ∧ s.overlapsOpen c (bits (s.x c (fieldOf w 103 5)).toNat 0 32) (bits (s.x c (fieldOf w 103
      5)).toNat 32 32) = false) ∧
    (∃ (c : PCore) (s : State) (w : IWord) (ia : Nat), s.AtHead c 7 0xA4 w ia ∧ s.sendWaits c = false ∧ s.winOpen c (fieldOf w 108 4) = true) ∧
    (∃ (c : PCore) (w : Fin 16) (s : State), s.winDraining c w.val = true ∧ ((s.core c).landing.any fun l => l.1 = w.val) = false) :=
  ⟨⟨1, (head 7 (word 0xA3 8 (15 * 2 ^ 108 + 2 ^ 103 + 31 * 2 ^ 98))).setX 1 1 (BitVec.ofNat 64 (64 * 2 ^ 32 + (0xC00000 - 64))), word 0xA3 8 (15 * 2 ^
  108 + 2 ^ 103 + 31 * 2 ^ 98), 0, by decide +kernel⟩,
   ⟨1, (head 7 (word 0xA4 8 (15 * 2 ^ 108))).wrBit (spdBase 1) F.SPD_WINOPEN_OPEN 15 true, word 0xA4 8 (15 * 2 ^ 108), 0, by decide +kernel⟩,
   ⟨63, 15, up.wrBit (spdBase 63) F.SPD_WINOPEN_DRAINING 15 true, by decide +kernel⟩⟩

def sends : State :=
  let s := ((head 7 (word 0xA0 8 (4095 * 2 ^ 100 + 2 ^ 95 + 2 * 2 ^ 90))).setX 1 1 (BitVec.ofNat 64 (0xC00000 - 128))).setX 1 2 128
  (s.wr (coreBase 1) F.NET_STREAM_ROLE 2 255).wr (coreBase 1) F.NET_STREAM_STREAM 4095 255
def puts : State := (head 7 (word 0xA1 8 (2 * 2 ^ 102 + 59 * 2 ^ 96 + 15 * 2 ^ 92))).setX 1 2 64
def putOp : NetOp := { NetOp.new 0 0 0 0 0 0 0 with isPut := true }
def lends : State :=
  (((up.wrBit (spdBase 63) F.SPD_WINOPEN_OPEN 15 true).wr (spdBase 63) F.SPD_WIN_A_LEN 128 15).setOn (spdBase 63) F.SPD_WIN_A_CREDIT 15).wr
    (spdBase 63) F.SPD_WIN_B_POOL 128 15
def opened : State := (up.wrBit (spdBase 63) F.SPD_WINOPEN_OPEN 15 true).wr (spdBase 63) F.SPD_WIN_A_LEN 128 15
def landed (lane stream : Nat) : DstFlit := ⟨3, 15, lane, stream, 0, ⟨true, false, false, List.replicate 128 1⟩, []⟩
def sinks : State :=
  let s := ((opened.wr (coreBase 63) F.NET_STREAM_ROLE 3 255).wr (coreBase 63) F.NET_STREAM_STREAM 4095 255).wr (coreBase 63) F.NET_STREAM_WINDOW 15 255
  { s with net := { s.net with dst := [landed 8 4095] } }
def request (src dst : Place) : BobReq := ⟨0, 0, 255, src, dst, (0, 0), 64, [], 0, none, false, false, 0, false, 0, [], []⟩
def asks (q : BobReq) : State := (run 0).onBob 1 1 fun r => { r with reqs := [q] }

/-- The premises of `Obligations.NetworkPort` are met, clause by clause. -/
theorem witness_networkPort :
    (∃ (c : PCore) (s : State) (w : IWord) (ia : Nat), s.AtHead c 7 0xA0 w ia ∧ s.sendWaits c = false ∧ s.txCredit (fieldOf w 100 12) = true ∧ s.x32 c
      w 90 ≠ 0 ∧ 128 ∣ s.x32 c w 90 ∧ spadFits (s.x32 c w 95) (s.x32 c w 90) = true ∧ s.streamBound c (fieldOf w 100 12) 2 0 = true) ∧
    (∃ (c d : PCore) (s : State) (w : IWord) (ia : Nat), s.AtHead c 7 0xA1 w ia ∧ s.sendWaits c = false ∧ s.physOf (fieldOf w 96 6) = some d ∧
      s.partOf d = s.partOf c ∧ s.x32 c w 102 ≠ 0 ∧ 64 ∣ s.x32 c w 102 ∧ spadFits (s.x32 c w 107) (s.x32 c w 102) = true ∧ ((fieldOf w 64 1 = 1 → 16 ∣
      s.x32 c w 59 ∧ spadFits (s.x32 c w 59) 16 = true))) ∧
    (∃ (c : PCore) (s : State) (o : NetOp), ((s.core c).netOps.find? fun o => o.isPut && decide (o.done = o.total)) = some o) ∧
    (∃ (c d : PCore) (s : State) (w : IWord) (ia : Nat), s.AtHead c 7 0xA2 w ia ∧ s.sendWaits c = false ∧ s.physOf (fieldOf w 106 6) = some d ∧
      s.partOf d = s.partOf c) ∧
    (∃ (i : Nat) (s : State) (d : PCore) (q : CreditReq), s.creditMs[i]? = some (d, q) ∧ s.reachesCore (if q.srcM = 0xFFFF then ((s.physOf
      q.srcC).getD d).val else d.val) d = true ∧ CreditGoes s d q) ∧
    (∃ (i : Nat) (s : State) (d : PCore) (q : CreditReq), s.creditMs[i]? = some (d, q) ∧ s.reachesCore (if q.srcM = 0xFFFF then ((s.physOf
      q.srcC).getD d).val else d.val) d = true ∧ s.winOpen d q.win = false) ∧
    (∃ (i : Nat) (s : State) (q : WinReq), s.winReqs[i]? = some q ∧ ((s.winReqs.take i).any (q.sameUnit ·)) = false ∧ s.reachesCore q.from_ q.target =
      true ∧ WinAccepts s q.target q.win q.gen q.off q.srcM q.srcC q.seq q.data) ∧
    (∃ (i : Nat) (s : State) (q : WinReq), s.winReqs[i]? = some q ∧ ((s.winReqs.take i).any (q.sameUnit ·)) = false ∧ s.reachesCore q.from_ q.target =
      true ∧ s.inReset q.target = false ∧ s.partInReset (s.partOf q.target) = false ∧ ((∀ r ∈ (s.core q.target).refused, ¬ (r.1 = q.srcM * 64 + q.srcC
      ∧ r.2.1 = q.seq * 16 + q.win))) ∧ 1 ≤ (s.rd (spdBase q.target) F.SPD_WIN_B_GEN q.win + 65536 - q.gen % 65536) % 65536 ∧ (s.rd (spdBase q.target)
      F.SPD_WIN_B_GEN q.win + 65536 - q.gen % 65536) % 65536 ≤ 32768) ∧
    (∃ (c : PCore) (s : State) (i w k : Nat) (x : DstFlit), s.portFlit c = some i ∧ s.net.dst[i]? = some x ∧ s.sinkWindow c x.stream = some w ∧ w < 16
      ∧ s.inReset c = false ∧ s.partInReset (s.partOf c) = false ∧ s.winOpen c w = true ∧ 64 ≤ s.rd (spdBase c) F.SPD_WIN_A_LEN w ∧ (s.core
      c).landing.length + 2 ≤ 64 ∧ s.rd (spdBase c) F.SPD_WIN_A_COUNTER w = k ∧ k < 32 ∧ ((s.arrive c k + 2 < 2 ^ 32 ∨ s.on (coreBase c)
      F.SEQ_CTRL_STRICT = false))) ∧
    (∃ (c : PCore) (s : State) (k : Nat) (x : DstFlit), s.portFlit c = some k ∧ s.net.dst[k]? = some x ∧ s.sinkWindow c x.stream = none) ∧
    (∃ (c d : PCore) (b : Bob) (s : State) (tag off len a n : Nat) (l : List (Place × Nat)) (q : BobReq), (((s.core c).bobs[b]).reqs.find? fun q =>
      q.tag = tag) = some q ∧ q.done = false ∧ q.unread = (.remSpad d.val off, len) :: l ∧ a = off + q.into ∧ n = min (64 - a % 64) (len - q.into)) :=
  ⟨⟨1, sends, word 0xA0 8 (4095 * 2 ^ 100 + 2 ^ 95 + 2 * 2 ^ 90), 0, by decide +kernel⟩,
   ⟨1, 63, puts, word 0xA1 8 (2 * 2 ^ 102 + 59 * 2 ^ 96 + 15 * 2 ^ 92), 0, by decide +kernel⟩,
   ⟨1, (run 0).onCore 1 fun r => { r with netOps := [putOp] }, putOp, by decide +kernel⟩,
   ⟨1, 63, head 7 (word 0xA2 8 (59 * 2 ^ 106 + 15 * 2 ^ 102)), word 0xA2 8 (59 * 2 ^ 106 + 15 * 2 ^ 102), 0, by decide +kernel⟩,
   ⟨0, { lends with creditMs := [(63, ⟨15, 64, 0xFFFF, 59, 3, 1⟩)] }, 63, ⟨15, 64, 0xFFFF, 59, 3, 1⟩, by decide +kernel⟩,
   ⟨0, { up with creditMs := [(63, ⟨15, 64, 5, 0, 0, 1⟩)] }, 63, ⟨15, 64, 5, 0, 0, 1⟩, by decide +kernel⟩,
   ⟨0, { opened with winReqs := [⟨.nput 63 0, 0xFFFF, 59, 0, 63, 15, 0, 64, List.replicate 64 7, false⟩] }, ⟨.nput 63 0, 0xFFFF, 59, 0, 63, 15, 0, 64,
     List.replicate 64 7, false⟩, by decide +kernel⟩,
   ⟨0, { up with winReqs := [⟨.nput 63 0, 0xFFFF, 59, 0, 63, 15, 65535, 0, [], false⟩] }, ⟨.nput 63 0, 0xFFFF, 59, 0, 63, 15, 65535, 0, [], false⟩,
     by decide +kernel⟩,
   ⟨63, sinks, 0, 15, 0, landed 8 4095, by decide +kernel⟩,
   ⟨63, { up with net := { up.net with dst := [landed 8 4095] } }, 0, landed 8 4095, by decide +kernel⟩,
   ⟨1, 63, 1, asks (request (.remSpad 63 0xBFFFC0) (.spad 0)), 255, 0xBFFFC0, 64, 0xBFFFC0, 64, [], request (.remSpad 63 0xBFFFC0) (.spad 0),
     by decide +kernel⟩⟩

def bxfers (w0 : Nat) : State :=
  let s := (head 5 (word 0x80 6 (2 ^ 107))).setX 1 1 (0xC00000 - 128)
  let s := ((s.wr (coreBase 1) F.NET_STREAM_ROLE 4 255).wr (coreBase 1) F.NET_STREAM_UNIT 1 255).setOn (bobcBase 1) F.BOB_ALLOT_VALID 31
  let s := (s.setOn (bobcBase 1) F.BOB_RING_CFG_ENABLE 15).wr (bobcBase 1) F.BOB_RING_CFG_PRODUCER 1 15
  (s.spadWrite 1 (0xC00000 - 128) (leBytes 8 w0) false).spadWrite 1 (0xC00000 - 104) (leBytes 8 512) false
def ringing : State :=
  ((bxfers (0x10 + 3 * 2 ^ 10 + 15 * 2 ^ 13)).wr (bobcBase 1) F.BOB_RING_CFG_NSLOTS 3 15).onBob 1 1 fun r => { r with ringWait := some 15 }

/-- The premises of `Obligations.TransfersEnter` are met, clause by clause. -/
theorem witness_transfersEnter :
    (∃ (c : PCore) (b : Bob) (s : State) (w : IWord) (ia n : Nat), s.AtHead c (bobQueue b) 0x80 w ia ∧ s.freeCtx c b = some n ∧ (s.bob c b).ringWait =
      none ∧ descFits (s.x32 c w 107) = true ∧ s.Clean c (s.x32 c w 107) 128 ∧ XferLegal s c b (s.descWords c (s.x32 c w 107)) (descF (s.descWords c
      (s.x32 c w 107))) ∧ (descF (s.descWords c (s.x32 c w 107))).dstSp ≠ 3) ∧
    (∃ (c : PCore) (b : Bob) (s : State) (w : IWord) (ia n r : Nat), s.AtHead c (bobQueue b) 0x80 w ia ∧ s.freeCtx c b = some n ∧ (s.bob c b).ringWait
      = none ∧ descFits (s.x32 c w 107) = true ∧ s.Clean c (s.x32 c w 107) 128 ∧ XferLegal s c b (s.descWords c (s.x32 c w 107)) (descF (s.descWords c
      (s.x32 c w 107))) ∧ (descF (s.descWords c (s.x32 c w 107))).dstSp = 3 ∧ (descF (s.descWords c (s.x32 c w 107))).ring = r ∧ s.ringRoom c r =
      false) ∧
    (∃ (c : PCore) (b : Bob) (s : State) (w : IWord) (ia n r m : Nat), s.AtHead c (bobQueue b) 0x80 w ia ∧ s.freeCtx c b = some n ∧ s.ringWaitOver c b
      = false ∧ descFits (s.x32 c w 107) = true ∧ s.Clean c (s.x32 c w 107) 128 ∧ XferLegal s c b (s.descWords c (s.x32 c w 107)) (descF (s.descWords
      c (s.x32 c w 107))) ∧ (descF (s.descWords c (s.x32 c w 107))).dstSp = 3 ∧ (descF (s.descWords c (s.x32 c w 107))).ring = r ∧ s.ringRoom c r =
      true ∧ (s.rd (bobcBase c) F.BOB_RING_PTR_TAIL r + s.rd (bobcBase c) F.BOB_RING_PTR_RSV r) % 65536 = m) :=
  ⟨⟨1, 1, bxfers 0x10, word 0x80 6 (2 ^ 107), 0, 0, by decide +kernel⟩,
   ⟨1, 1, bxfers (0x10 + 3 * 2 ^ 10 + 15 * 2 ^ 13), word 0x80 6 (2 ^ 107), 0, 0, 15, by decide +kernel⟩,
   ⟨1, 1, ringing, word 0x80 6 (2 ^ 107), 0, 0, 15, 0, by decide +kernel⟩⟩

def mops : State :=
  let s := (bxfers 5).spadWrite 1 (0xC00000 - 120) (leBytes 8 (0xFFFF * 2 ^ 48)) false
  s.onCore 1 fun r => { r with queues := vupd r.queues 5 fun _ => [.instr (word 0x90 6 (2 ^ 107)) 0] }

/-- The premises of `Obligations.OperationsEnter` are met, clause by clause. -/
theorem witness_operationsEnter :
    (∃ (c : PCore) (b : Bob) (s : State) (w : IWord) (ia n : Nat), s.AtHead c (bobQueue b) 0x81 w ia ∧ s.freeCtx c b = some n ∧ s.x32 c w 97 ≠ 0 ∧
      ((s.on (bobBase c b) F.BOB_COPYREC_EN = true → 32 ∣ s.rd (bobBase c b) F.BOB_COPYREC_OFFSET ∧ spadFits (s.rd (bobBase c b) F.BOB_COPYREC_OFFSET)
      32 = true))) ∧
    (∃ (c : PCore) (b : Bob) (s : State) (w : IWord) (ia n : Nat), ∃ i ∈ mopOps c b, s.AtHead c (bobQueue b) 0x90 w ia ∧ s.freeCtx c b = some n ∧
      descFits (s.x32 c w 107) = true ∧ (mopF (s.descWords c (s.x32 c w 107))).op = i.2 ∧ s.Clean c (s.x32 c w 107) 128 ∧ MopLegal s (s.partOf c)
      (s.descWords c (s.x32 c w 107)) (mopF (s.descWords c (s.x32 c w 107))) ∧ s.reqStream c b (mopF (s.descWords c (s.x32 c w 107))).stream = true) ∧
    (∃ (c : PCore) (b : Bob) (s : State) (w : IWord) (ia n : Nat), s.AtHead c (bobQueue b) 0x91 w ia ∧ s.freeCtx c b = some n) ∧
    (∃ (c : PCore) (b : Bob) (s : State) (w : IWord) (ia n pa : Nat), s.AtHead c (bobQueue b) 0x92 w ia ∧ s.freeCtx c b = some n ∧ mopFmtOk (fieldOf w
      110 2) (fieldOf w 106 4) = true ∧ matomAligned (fieldOf w 110 2) (fieldOf w 106 4) (s.x c (fieldOf w 101 5)).toNat = true ∧ ((s.isHere (s.x c
      (fieldOf w 101 5)).toNat = false ∨ s.resolve c (s.x c (fieldOf w 101 5)).toNat (atomicWidth (fieldOf w 110 2) (fieldOf w 106 4)) true = .at
      (.hbm pa)))) :=
  ⟨⟨1, 1, (head 5 (word 0x81 6 (5 * 2 ^ 97))).setX 1 5 1, word 0x81 6 (5 * 2 ^ 97), 0, 0, by decide +kernel⟩,
   ⟨1, 1, mops, word 0x90 6 (2 ^ 107), 0, 0, (.mopZeroFill 1 1, 5), by simp [mopOps], by decide +kernel⟩,
   ⟨1, 1, head 5 (word 0x91 6 0), word 0x91 6 0, 0, 0, by decide +kernel⟩,
   ⟨1, 1, (head 5 (word 0x92 6 (2 ^ 106 + 5 * 2 ^ 101))).setX 1 5 (BitVec.ofNat 64 (9 * 2 ^ 48)), word 0x92 6 (2 ^ 106 + 5 * 2 ^ 101), 0, 0, 0,
     by decide +kernel⟩⟩

def mapped : State := { run 0 with pages := vupd State.reset.pages 0 fun _ => [⟨0, 2 ^ 40, 0, false⟩] }
def xfer (kind : XferKind) (desc : List Nat) : Xfer := Xfer.new 7 3 0 0 kind desc 63 1 0 none
def carries (f : BobRec → BobRec) : State := mapped.onBob 1 1 f
def copyX : Xfer := xfer .copy [0xFFFF * 2 ^ 48 + 64, 0xFFFF * 2 ^ 48, 64, 0]
def copyReq (s : State) : BobReq :=
  s.newReq 1 copyX (.addr (0xFFFF * 2 ^ 48)) (.addr (0xFFFF * 2 ^ 48 + 64)) (srcPlaces (s.findSrc 1 (.addr (0xFFFF * 2 ^ 48)) 64)) (.hbm 64) 64 [0, 0, 0, 0, 0]
def copying : State := carries fun r => { r with ctxs := [copyX] }
def ordered : State := carries fun r => { r with ctxs := [copyX], reqs := [request .nothing (.hbm 64)] }
def commits : State := carries fun r => { r with ctxs := [xfer .scommit [0, 9]] }
def commitReq : BobReq :=
  commits.newReq 1 (xfer .scommit [0, 9]) .none (.place (.picot (.recCommit 9) 0) 0) [(.nothing, 64)] (.picot (.recCommit 9) 0) 64 [0]

/-- The premises of `Obligations.RequestIssue` are met, clause by clause. -/
theorem witness_requestIssue :
    (∃ (c : PCore) (b : Bob) (s : State) (x x1 : Xfer) (a d n : Nat) (pd : Place) (co : List Nat) (q : BobReq), x.kind = .copy ∧ planCopy x = .req
      (.addr a) (.addr d) n co x1 ∧ srcFault (s.findSrc c (.addr a) n) = none ∧ s.resolve c d n true = .at pd ∧ q = s.newReq c x (.addr a) (.addr d)
      (srcPlaces (s.findSrc c (.addr a) n)) pd n co ∧ MayIssue s c b x q) ∧
    (∃ (c : PCore) (b : Bob) (s : State) (x x1 : Xfer) (a d n : Nat) (pd : Place) (co : List Nat) (q : BobReq), x.kind = .copy ∧ ((s.bob c
      b).ctxs.find? fun x => !x.allSent) = some x ∧ planCopy x = .req (.addr a) (.addr d) n co x1 ∧ srcFault (s.findSrc c (.addr a) n) = none ∧
      s.resolve c d n true = .at pd ∧ q = s.newReq c x (.addr a) (.addr d) (srcPlaces (s.findSrc c (.addr a) n)) pd n co ∧ ((s.bobOrders c b q = true
      ∨ s.tagFree c b = false ∨ s.tagYields c b = true))) ∧
    (∃ (c : PCore) (b : Bob) (s : State) (x : Xfer) (pa : Nat) (k : Stack) (q : BobReq), x.kind = .scommit ∧ s.resolve c (x.desc.getD 0 0 % 2 ^ 48 +
      0xFFFF * 2 ^ 48) 64 true = .at (.hbm pa) ∧ s.stackOf pa = some k ∧ q = s.newReq c x .none (.place (.picot (.recCommit (x.desc.getD 1 0)) 0)
      (x.desc.getD 0 0)) [(.nothing, 64)] (.picot (.recCommit (x.desc.getD 1 0)) pa) 64 [0] ∧ MayIssue s c b x q ∧ s.Accepts k ⟨.bobbin c.val b.val
      (s.newTag c), s.partOf c, .recCommit (x.desc.getD 1 0), pa⟩) ∧
    (∃ (c : PCore) (b : Bob) (s : State), (s.bob c b).issuedAt = some s.cycle) :=
  ⟨⟨1, 1, copying, copyX, { copyX with allSent := true, num := 1 }, 0xFFFF * 2 ^ 48, 0xFFFF * 2 ^ 48 + 64, 64, .hbm 64, [0, 0, 0, 0, 0], copyReq copying,
  by decide +kernel⟩,
   ⟨1, 1, ordered, copyX, { copyX with allSent := true, num := 1 }, 0xFFFF * 2 ^ 48, 0xFFFF * 2 ^ 48 + 64, 64, .hbm 64, [0, 0, 0, 0, 0], copyReq
     ordered, by decide +kernel⟩,
   ⟨1, 1, commits, xfer .scommit [0, 9], 0, (mapped.stackOf 0).getD 0, commitReq, by decide +kernel⟩,
   ⟨1, 1, carries fun r => { r with issuedAt := some 0 }, by decide +kernel⟩⟩

def given (q : BobReq) (x : Xfer) : State := carries fun r => { r with reqs := [{ q with xfer := 7 }], ctxs := [{ x with allSent := true }] }
def dispatched : Xfer := { xfer .desc [3, 0, 0, 0, 0, 0, 0, 0, 0, 0, 2 * 2 ^ 24] with allSent := true, inc := 0, counts := [(1, 5)] }

/-- The premises of `Obligations.TransferCompletes` are met, clause by clause. -/
theorem witness_transferCompletes :
    (∃ (c : PCore) (b : Bob) (tag : Nat) (_hb : List Byte) (_ps : Bool) (s : State) (q : BobReq) (x : Xfer) (a : Nat), ((s.bob c b).reqs.find? fun q
      => q.tag = tag) = some q ∧ q.done = true ∧ q.status = 0 ∧ q.dst = .hbm a ∧ ((s.bob c b).ctxs.find? fun x => x.id = q.xfer) = some x) ∧
    (∃ (c : PCore) (b : Bob) (tag : Nat) (_hb : List Byte) (_ps : Bool) (s : State) (q : BobReq) (x : Xfer) (off : Nat) (bs : List Byte), ((s.bob c
      b).reqs.find? fun q => q.tag = tag) = some q ∧ q.done = false ∧ q.sent = true ∧ q.dst = .spad off ∧ q.data = some bs ∧ ((s.bob c b).ctxs.find?
      fun x => x.id = q.xfer) = some x) ∧
    (∃ (c : PCore) (b : Bob) (n : Fin 4) (s : State) (x : Xfer), ((s.bob c b).ctxs.find? fun x => x.ctxNo = n.val) = some x ∧ x.allSent = true ∧
      ((s.bob c b).reqs.any fun q => q.xfer = x.id) = false ∧ ((x.kind = .desc → (descF x.desc).kind ≠ 3)) ∧ ((x.inc ≠ 0 → x.flag < 64 ∧ s.FlagFits c
      x.flag x.inc))) ∧
    (∃ (c : PCore) (b : Bob) (n : Fin 4) (s : State) (x : Xfer), ((s.bob c b).ctxs.find? fun x => x.ctxNo = n.val) = some x ∧ x.allSent = true ∧
      ((s.bob c b).reqs.any fun q => q.xfer = x.id) = false ∧ x.kind = .desc ∧ (descF x.desc).kind = 3 ∧ spadFits (descF x.desc).counts (4 * (descF
      x.desc).nexp) = true ∧ x.recordAt = none ∧ x.inc = 0) :=
  ⟨⟨1, 1, 255, [], false, given { request .nothing (.hbm 0) with done := true } copyX, { request .nothing (.hbm 0) with done := true, xfer := 7 },
  { copyX with allSent := true }, 0, by decide +kernel⟩,
   ⟨1, 1, 255, [], false, given { request (.hbm 0) (.spad 0) with sent := true, data := some [1, 2, 3] } copyX,
     { request (.hbm 0) (.spad 0) with sent := true, data := some [1, 2, 3], xfer := 7 }, { copyX with allSent := true }, 0, [1, 2, 3],
     by decide +kernel⟩,
   ⟨1, 1, 3, carries (fun r => { r with ctxs := [{ copyX with allSent := true }] }), { copyX with allSent := true }, by decide +kernel⟩,
   ⟨1, 1, 3, carries (fun r => { r with ctxs := [dispatched] }), dispatched, by decide +kernel⟩⟩

/-- The premises of `Obligations.ResponseTimeouts` are met, clause by clause. -/
theorem witness_responseTimeouts :
    (∃ (c : PCore) (b : Bob) (tag : Nat) (s : State) (q : BobReq) (x : Xfer), ((s.bob c b).reqs.find? fun q => q.tag = tag) = some q ∧ q.awaitsRemote
      = true ∧ q.done = false ∧ q.since + limitOr 1000 (s.rd brdmBase F.BRD_RSPLIMIT_LIMIT) ≤ s.us ∧ ((s.bob c b).ctxs.find? fun x => x.id = q.xfer) =
      some x) ∧
    (∃ (c : PCore) (b : Bob) (tag : Nat) (s : State) (q : BobReq) (x : Xfer), ((s.bob c b).reqs.find? fun q => q.tag = tag) = some q ∧ q.awaitsHost =
      true ∧ q.done = false ∧ q.since + limitOr 100 (s.rd cxlBase F.CXL_RSPLIMIT_LIMIT) ≤ s.us ∧ ((s.bob c b).ctxs.find? fun x => x.id = q.xfer) =
      some x) :=
  ⟨⟨1, 1, 255, { given (request (.remote 5 0) (.spad 0)) copyX with ticks := 7520000 }, { request (.remote 5 0) (.spad 0) with xfer := 7 },
  { copyX with allSent := true }, by decide +kernel⟩,
   ⟨1, 1, 255, { given (request (.host 0 true) (.spad 0)) copyX with ticks := 752000 }, { request (.host 0 true) (.spad 0) with xfer := 7 },
     { copyX with allSent := true }, by decide +kernel⟩⟩

/-- The premises of `Obligations.ApertureWrites` are met, clause by clause. -/
theorem witness_apertureWrites :
    (∃ (f : Func) (c : PCore) (off : BitVec 18) (data : List Byte) (s : State), s.Reaches f c ∧ data ≠ [] ∧ s.imemCheck c off.toNat data.length 2 = 0) ∧
    (∃ (f : Func) (c : PCore) (off : BitVec 18) (data : List Byte) (s : State), s.Reaches f c ∧ data ≠ [] ∧ s.imemCheck c off.toNat data.length 2 ≠ 0) ∧
    (∃ (f : Func) (c : PCore) (_off : BitVec 24) (_data : List Byte) (s : State), s.Reaches f c ∧ s.seqState c ≠ 1 ∧ (s.core c).fillEnd = none) ∧
    (∃ (f : Func) (c : PCore) (off : BitVec 24) (data : List Byte) (s : State), s.Reaches f c ∧ data ≠ [] ∧ off.toNat < spadSize ∧ s.seqState c = 1 ∧
      (s.core c).fillEnd = none) ∧
    (∃ (f : Func) (c : PCore) (_off : BitVec 24) (_data : List Byte) (s : State), s.Reaches f c ∧ (s.core c).fillEnd ≠ none) ∧
    (∃ (f : Func) (c : PCore) (off : BitVec 24) (data : List Byte) (s : State), s.Reaches f c ∧ 8 ∣ off.toNat ∧ data.length = 8 ∧ s.seqState c = 2) ∧
    (∃ (f : Func) (c : PCore) (e : Eng) (off : BitVec 24) (_data : List Byte) (s : State), s.Reaches f c ∧ s.seqState c ≠ 2 ∧ off.toNat / 0x400000 =
      e.val) :=
  ⟨⟨0, 1, 0x3FFF0, List.replicate 16 1, up, by decide +kernel⟩,
   ⟨0, 1, 0, List.replicate 16 1, run 0, by decide +kernel⟩,
   ⟨0, 1, 0xBFFFFF, [7], up, by decide +kernel⟩,
   ⟨0, 1, 0xBFFFFF, [7], run 0, by decide +kernel⟩,
   ⟨0, 1, 0xBFFFFF, [7], up.onCore 1 fun r => { r with fillEnd := some 9 }, by decide +kernel⟩,
   ⟨0, 1, 0xFFFFF8, List.replicate 8 5, up.wr (coreBase 1) F.SEQ_STATUS_STATE 2, by decide +kernel⟩,
   ⟨0, 1, 0, 0, List.replicate 8 5, run 0, by decide +kernel⟩⟩

/-- The premises of `Obligations.CoreAccessRefused` are met. -/
theorem witness_coreAccessRefused :
    ∃ (f : Func) (c : PCore) (_e : Eng) (_b : Bob) (_v : Word64) (_data : List Byte) (s : State), s.hostReady = true ∧ s.authority f ≠ some (s.partOf
      c) :=
  ⟨16, 1, 0, 0, 0, [1], up, by decide +kernel⟩

/-- The premises of `Obligations.BobbinRegisters` are met, clause by clause. -/
theorem witness_bobbinRegisters :
    (∃ (f : Func) (c : PCore) (b : Bob) (_v : Word64) (s : State), s.Reaches f c ∧ s.seqState c ≠ 1 ∧ s.seqState c ≠ 5 ∧ s.on (bobBase c b)
      F.BOB_CTRL_LOCK = false) ∧
    (∃ (f : Func) (c : PCore) (_k : Fin 32) (_v : Word64) (s : State), s.Reaches f c ∧ s.seqState c ≠ 1 ∧ s.seqState c ≠ 5) ∧
    (∃ (f : Func) (c : PCore) (r : Fin 16) (_v : Word64) (s : State), s.Reaches f c ∧ s.rd (bobcBase c) F.BOB_RING_PTR_TAIL r.val = s.rd (bobcBase c)
      F.BOB_RING_PTR_HEAD r.val ∧ s.rd (bobcBase c) F.BOB_RING_PTR_RSV r.val = 0) ∧
    (∃ (f : Func) (c : PCore) (r : Fin 16) (_v : Word64) (s : State), s.Reaches f c ∧ s.rd (bobcBase c) F.BOB_RING_PTR_TAIL r.val ≠ s.rd (bobcBase c)
      F.BOB_RING_PTR_HEAD r.val) ∧
    (∃ (f : Func) (c : PCore) (_b : Bob) (_n : Fin 8) (_v : Word64) (s : State), s.Reaches f c) :=
  ⟨⟨0, 1, 1, 0xFF, up, by decide +kernel⟩,
   ⟨0, 1, 31, 0x1000FFF, up, by decide +kernel⟩,
   ⟨0, 1, 15, BitVec.ofNat 64 (16 * 2 ^ 48 + 64 * 2 ^ 24 + 0xBFFC00), up, by decide +kernel⟩,
   ⟨0, 1, 15, 0, up.wr (bobcBase 1) F.BOB_RING_PTR_TAIL 1 15, by decide +kernel⟩,
   ⟨0, 1, 1, 7, 0xFFFFFFFFFFF, up, by decide +kernel⟩⟩

/-- The premises of `Obligations.RegisterWrites` are met, clause by clause. -/
theorem witness_registerWrites :
    (∃ (f : Func) (c : PCore) (_v : Word64) (s : State), s.Reaches f c) ∧
    (∃ (f : Func) (c : PCore) (_v : Word64) (s : State), s.Reaches f c) ∧
    (∃ (f : Func) (_v : Word64) (s : State), s.PF0Reaches f) ∧
    (∃ (f : Func) (c : PCore) (_v : Word64) (n : Nat) (s : State), s.Reaches f c ∧ n ≠ 4 ∧ n ≠ 8) ∧
    (∃ (f : Func) (_v : Word64) (_m : Bool) (s : State), s.hostReady = true ∧ s.funcs[f].pend = []) :=
  ⟨⟨0, 1, 0x1FFFFFFFF, up, by decide +kernel⟩,
   ⟨0, 1, 0x3FFF, up, by decide +kernel⟩,
   ⟨0, 2, up.setOn cxlBase F.CXL_ERR_RSP_TIMEOUT, by decide +kernel⟩,
   ⟨0, 1, 0, 2, up, by decide +kernel⟩,
   ⟨0, 0, true, up, by decide +kernel⟩⟩

def st : Stack := (up.stackOf 0).getD 0
def overPage : State := { mapped with memReqs := vupd mapped.memReqs st fun _ => [⟨.firmware, 0, .atomicOver 0 2 5 false 8192, 4094⟩] }
def asked (src : MemSrc) (part : Nat) (op : MemOp) : State := { mapped with memReqs := vupd mapped.memReqs st fun _ => [⟨src, part, op, 0⟩] }

/-- The premises of `Obligations.PicotRequests` are met, clause by clause. -/
theorem witness_picotRequests :
    (∃ (k : Stack) (_ecc : List LineEcc) (s : State) (r : MemReq) (c b tag n : Nat), s.Ready k r ∧ r.src = .bobbin c b tag ∧ r.op = .read n) ∧
    (∃ (k : Stack) (s : State) (r : MemReq) (c b tag n : Nat), s.Ready k r ∧ r.src = .bobbin c b tag ∧ r.op = .read n ∧ n ≠ 0 ∧ s.stackOf (r.addr / 64
      * 64) = some k) ∧
    (∃ (k : Stack) (_ecc : List LineEcc) (s : State) (r : MemReq) (bs : List Byte) (poison : Bool), s.Ready k r ∧ r.op = .write bs poison ∧
      s.NoCapture ∧ s.Mapped r.addr bs.length) ∧
    (∃ (k : Stack) (_ecc : List LineEcc) (s : State) (r : MemReq) (c e : Nat), s.Ready k r ∧ r.src = .drain c e ∧ r.op = .recRead) ∧
    (∃ (k : Stack) (_ecc : List LineEcc) (s : State) (r : MemReq) (tag : Nat) (clear : Bool), s.Ready k r ∧ r.op = .normFetch tag clear ∧ s.tagOk
      r.part tag = true) ∧
    (∃ (k : Stack) (_ecc : List LineEcc) (s : State) (r : MemReq) (c b tag n : Nat), s.front k = some r ∧ r.src = .bobbin c b tag ∧ r.op = .read n ∧
      s.isEarly k 0 = false ∧ s.reqOwned r = false) :=
  ⟨⟨st, [], asked (.bobbin 1 1 255) 0 (.read 64), ⟨.bobbin 1 1 255, 0, .read 64, 0⟩, 1, 1, 255, 64, ⟨by decide +kernel, by decide +kernel, (fun _ _ _ h => nomatch h),
  by decide +kernel⟩, by decide +kernel⟩,
   ⟨st, asked (.bobbin 1 1 255) 0 (.read 64), ⟨.bobbin 1 1 255, 0, .read 64, 0⟩, 1, 1, 255, 64, ⟨by decide +kernel, by decide +kernel, (fun _ _ _ h => nomatch h),
     by decide +kernel⟩, by decide +kernel⟩,
   ⟨st, [], asked .firmware 0 (.write [1, 2, 3] false), ⟨.firmware, 0, .write [1, 2, 3] false, 0⟩, [1, 2, 3], false, ⟨by decide +kernel,
     by decide +kernel, (fun _ _ _ h => nomatch h), by decide +kernel⟩, by decide +kernel⟩,
   ⟨st, [], asked (.drain 1 3) 0 .recRead, ⟨.drain 1 3, 0, .recRead, 0⟩, 1, 3, ⟨by decide +kernel, by decide +kernel, (fun _ _ _ h => nomatch h), by decide +kernel⟩,
     by decide +kernel⟩,
   ⟨st, [], asked (.bobbin 1 1 255) 0 (.normFetch 4095 true), ⟨.bobbin 1 1 255, 0, .normFetch 4095 true, 0⟩, 4095, true, ⟨by decide +kernel,
     by decide +kernel, (fun _ _ _ h => nomatch h), by decide +kernel⟩, by decide +kernel⟩,
   ⟨st, [], asked (.bobbin 1 1 255) 3 (.read 64), ⟨.bobbin 1 1 255, 3, .read 64, 0⟩, 1, 1, 255, 64, by decide +kernel⟩⟩

/-- The premises of `Obligations.AtomicsAndParts` are met, clause by clause. -/
theorem witness_atomicsAndParts :
    (∃ (k : Stack) (_ecc : List LineEcc) (s : State) (r : MemReq) (op fmt : Nat) (vals : List Nat) (poison : Bool), s.Ready k r ∧ r.op = .atomic op
      fmt vals poison) ∧
    (∃ (k : Stack) (_ecc : List LineEcc) (s : State) (r : MemReq) (op fmt v : Nat) (poison : Bool), s.Ready k r ∧ r.op = .atomic op fmt [v] poison ∧
      s.NoCapture ∧ s.Mapped r.addr (atomicWidth op fmt)) ∧
    (∃ (k : Stack) (_ecc : List LineEcc) (s : State) (r : MemReq) (op fmt v rest n m : Nat) (poison : Bool), s.Ready k r ∧ r.op = .atomicOver op fmt v
      poison rest ∧ s.NoCapture ∧ n = 4096 - r.addr % 4096 ∧ n + m = atomicWidth op fmt ∧ s.Mapped r.addr n ∧ s.Mapped rest m ∧ ((rest + m ≤ r.addr ∨
      r.addr + n ≤ rest))) ∧
    (∃ (k : Stack) (_ecc : List LineEcc) (s : State) (r : MemReq) (d : List Nat) (off len : Nat) (src : Option (List Byte)) (bad : Bool), s.Ready k r
      ∧ r.op = .part d off len src bad ∧ ((∀ x ∈ (mopF d).tags, s.tagOk r.part x = true))) ∧
    (∃ (k : Stack) (_ecc : List LineEcc) (s : State) (r : MemReq) (d : List Nat) (off len : Nat) (src : Option (List Byte)) (bad : Bool), s.Ready k r
      ∧ r.op = .part d off len src bad ∧ ((∃ x ∈ (mopF d).tags, s.tagOk r.part x = false))) ∧
    (∃ (k : Stack) (_ecc : List LineEcc) (s : State) (r : MemReq) (d : List Nat) (off len : Nat) (src : Option (List Byte)) (bad : Bool), s.Ready k r
      ∧ r.op = .part d off len src bad ∧ (mopF d).op = 5 ∧ s.NoCapture ∧ s.Mapped r.addr len) ∧
    (∃ (k : Stack) (_ecc : List LineEcc) (s : State) (r : MemReq) (d : List Nat) (off len i pa w : Nat) (src : List Byte) (bad : Bool), s.Ready k r ∧
      r.op = .part d off len (some src) bad ∧ (mopF d).op ≤ 2 ∧ (mopF d).elems off len = [i] ∧ w = atomicWidth (mopF d).op (mopF d).fmt ∧ ((∀ j < w,
      s.localOf r.part ((mopF d).dst + i * w + j) = some (pa + j))) ∧ s.NoCapture ∧ s.Mapped pa w) ∧
    (∃ (k : Stack) (_ecc : List LineEcc) (s : State) (r : MemReq) (d : List Nat) (off len i pa : Nat) (src : Option (List Byte)) (bad : Bool), s.Ready
      k r ∧ r.op = .part d off len src bad ∧ ((∀ x ∈ (mopF d).tags, s.tagOk r.part x = true)) ∧ (mopF d).op = 3 ∧ (mopF d).alg = 0 ∧ (mopF d).zeroG =
      false ∧ (mopF d).wcopy = false ∧ (mopF d).elems off len = [i] ∧ ((∀ j < 4, s.localOf r.part ((mopF d).dst + i * 4 + j) = some (pa + j))) ∧
      s.NoCapture ∧ s.Mapped pa 4) ∧
    (∃ (k n : Stack) (_ecc : List LineEcc) (s : State) (r : MemReq) (d : List Nat) (off len : Nat) (src : Option (List Byte)) (bad : Bool), s.Ready k
      r ∧ r.op = .part d off len src bad ∧ (mopF d).op = 4 ∧ s.tagOk r.part (mopF d).tagW = true ∧ n.val = (mopF d).tagW % 20 ∧ s.arrivals[n].waiting
      = []) :=
  ⟨⟨st, [], asked .firmware 0 (.atomic 0 0xD [5] false), ⟨.firmware, 0, .atomic 0 0xD [5] false, 0⟩, 0, 0xD, [5], false, ⟨by decide +kernel,
     by decide +kernel, (fun _ _ _ h => nomatch h), by decide +kernel⟩, by decide +kernel⟩,
   ⟨st, [], asked .firmware 0 (.atomic 0 0xD [5] false), ⟨.firmware, 0, .atomic 0 0xD [5] false, 0⟩, 0, 0xD, 5, false, ⟨by decide +kernel,
     by decide +kernel, (fun _ _ _ h => nomatch h), by decide +kernel⟩, by decide +kernel⟩,
   ⟨st, [], overPage, ⟨.firmware, 0, .atomicOver 0 2 5 false 8192, 4094⟩, 0, 2, 5, 8192, 2, 4, false, ⟨by decide +kernel, by decide +kernel, (fun _ _
     _ h => nomatch h), by decide +kernel⟩, by decide +kernel⟩,
   ⟨st, [], asked .firmware 0 (.part [5, 0, 0, 64] 0 64 none false), ⟨.firmware, 0, .part [5, 0, 0, 64] 0 64 none false, 0⟩, [5, 0, 0, 64], 0, 64,
     none, false, ⟨by decide +kernel, by decide +kernel, (fun _ _ _ h => nomatch h), by decide +kernel⟩, by decide +kernel⟩,
   ⟨st, [], (asked .firmware 0 (.part [0x14, 0, 0, 4] 0 4 none false)).wr mmemBase F.MSE_NORMRANGE_COUNT 0 0, ⟨.firmware, 0, .part [0x14, 0, 0, 4] 0 4
     none false, 0⟩, [0x14, 0, 0, 4], 0, 4, none, false, ⟨by decide +kernel, by decide +kernel, (fun _ _ _ h => nomatch h), by decide +kernel⟩,
     by decide +kernel⟩,
   ⟨st, [], asked .firmware 0 (.part [5, 0, 0, 64] 0 64 none false), ⟨.firmware, 0, .part [5, 0, 0, 64] 0 64 none false, 0⟩, [5, 0, 0, 64], 0, 64,
     none, false, ⟨by decide +kernel, by decide +kernel, (fun _ _ _ h => nomatch h), by decide +kernel⟩, by decide +kernel⟩,
   ⟨st, [], asked .firmware 0 (.part [0xD0, 0, 0, 4] 0 4 (some [5, 0, 0, 0]) false), ⟨.firmware, 0, .part [0xD0, 0, 0, 4] 0 4 (some [5, 0, 0, 0])
     false, 0⟩, [0xD0, 0, 0, 4], 0, 4, 0, 0, 4, [5, 0, 0, 0], false, ⟨by decide +kernel, by decide +kernel, (fun _ _ _ h => nomatch h),
     by decide +kernel⟩, by decide +kernel⟩,
   ⟨st, [], asked .firmware 0 (.part [3, 0, 64, 4] 0 4 none false), ⟨.firmware, 0, .part [3, 0, 64, 4] 0 4 none false, 0⟩, [3, 0, 64, 4], 0, 4, 0, 0,
     none, false, ⟨by decide +kernel, by decide +kernel, (fun _ _ _ h => nomatch h), by decide +kernel⟩, by decide +kernel⟩,
   ⟨st, 0, [], asked .firmware 0 (.part [0x14, 0, 0, 4] 0 4 none false), ⟨.firmware, 0, .part [0x14, 0, 0, 4] 0 4 none false, 0⟩, [0x14, 0, 0, 4], 0,
     4, none, false, ⟨by decide +kernel, by decide +kernel, (fun _ _ _ h => nomatch h), by decide +kernel⟩, by decide +kernel⟩⟩

def recorded (op : MemOp) : State := ((asked .firmware 0 op).hbmRaw 33 [4] false).hbmRaw 35 [1] false
def markedUpdate : State := (asked (.drain 1 3) 0 (.recUpdate 1 0 false)).hbmRaw 33 [4] true
def markedRecord : State := (asked (.bobbin 1 1 255) 0 (.recCommit 9)).hbmRaw 33 [4] true

/-- The premises of `Obligations.RecordsAndNorms` are met, clause by clause. -/
theorem witness_recordsAndNorms :
    (∃ (k : Stack) (ecc : List LineEcc) (s : State) (r : MemReq) (amax ovf : Nat) (nan : Bool), s.Ready k r ∧ r.op = .recUpdate amax ovf nan ∧
      s.NoCapture ∧ s.Mapped r.addr 64 ∧ ReadMarks s r ecc 64 = false ∧ (s.scaleRec r.addr).ok = true ∧ amax < 65536) ∧
    (∃ (k : Stack) (ecc : List LineEcc) (s : State) (r : MemReq) (step : Nat), s.Ready k r ∧ r.op = .recCommit step ∧ s.NoCapture ∧ s.Mapped r.addr 64
      ∧ ReadMarks s r ecc 64 = false ∧ (s.scaleRec r.addr).ok = true) ∧
    (∃ (k : Stack) (ecc : List LineEcc) (s : State) (r : MemReq) (step : Nat), s.Ready k r ∧ r.op = .recCommit step ∧ ReadMarks s r ecc 64 = false ∧
      (s.scaleRec r.addr).ok = false) ∧
    (∃ (k : Stack) (ecc : List LineEcc) (s : State) (r : MemReq) (c b tag step : Nat), s.Ready k r ∧ r.src = .bobbin c b tag ∧ r.op = .recCommit step
      ∧ ReadMarks s r ecc 64 = true) ∧
    (∃ (k : Stack) (ecc : List LineEcc) (s : State) (r : MemReq) (c e amax ovf : Nat) (nan : Bool), s.Ready k r ∧ r.src = .drain c e ∧ r.op =
      .recUpdate amax ovf nan ∧ ReadMarks s r ecc 64 = true) ∧
    (∃ (k : Stack) (ecc : List LineEcc) (s : State) (r : MemReq) (amax ovf : Nat) (nan : Bool), s.Ready k r ∧ r.op = .recUpdate amax ovf nan ∧
      ReadMarks s r ecc 64 = false ∧ (s.scaleRec r.addr).ok = false) ∧
    (∃ (k : Stack) (s : State) (r : MemReq) (tag sq n nf am : Nat), s.Ready k r ∧ r.op = .norm tag sq n nf am ∧ s.tagOk r.part tag = true) ∧
    (∃ (k : Stack) (s : State) (r : MemReq) (tag sq n nf am : Nat), s.Ready k r ∧ r.op = .norm tag sq n nf am ∧ s.tagOk r.part tag = false) :=
  ⟨⟨st, [], recorded (.recUpdate 0x3F80 7 false), ⟨.firmware, 0, .recUpdate 0x3F80 7 false, 0⟩, 0x3F80, 7, false, ⟨by decide +kernel,
     by decide +kernel, (fun _ _ _ h => nomatch h), by decide +kernel⟩, by decide +kernel⟩,
   ⟨st, [], recorded (.recCommit 9), ⟨.firmware, 0, .recCommit 9, 0⟩, 9, ⟨by decide +kernel, by decide +kernel, (fun _ _ _ h => nomatch h), by decide +kernel⟩,
     by decide +kernel⟩,
   ⟨st, [], asked .firmware 0 (.recCommit 9), ⟨.firmware, 0, .recCommit 9, 0⟩, 9, ⟨by decide +kernel, by decide +kernel, (fun _ _ _ h => nomatch h), by decide +kernel⟩,
     by decide +kernel⟩,
   ⟨st, [], markedRecord, ⟨.bobbin 1 1 255, 0, .recCommit 9, 0⟩, 1, 1, 255, 9, ⟨by decide +kernel, by decide +kernel, (fun _ _ _ h => nomatch h), by decide +kernel⟩,
     by decide +kernel⟩,
   ⟨st, [], markedUpdate, ⟨.drain 1 3, 0, .recUpdate 1 0 false, 0⟩, 1, 3, 1, 0, false, ⟨by decide +kernel, by decide +kernel, (fun _ _ _ h => nomatch
     h), by decide +kernel⟩, by decide +kernel⟩,
   ⟨st, [], asked .firmware 0 (.recUpdate 1 0 false), ⟨.firmware, 0, .recUpdate 1 0 false, 0⟩, 1, 0, false, ⟨by decide +kernel, by decide +kernel,
     (fun _ _ _ h => nomatch h), by decide +kernel⟩, by decide +kernel⟩,
   ⟨st, asked .firmware 0 (.norm 4095 0 2 1 0), ⟨.firmware, 0, .norm 4095 0 2 1 0, 0⟩, 4095, 0, 2, 1, 0, ⟨by decide +kernel, by decide +kernel, (fun _
     _ _ h => nomatch h), by decide +kernel⟩, by decide +kernel⟩,
   ⟨st, asked .firmware 3 (.norm 0 0 2 1 0), ⟨.firmware, 3, .norm 0 0 2 1 0, 0⟩, 0, 0, 2, 1, 0, ⟨by decide +kernel, by decide +kernel, (fun _ _ _ h =>
     nomatch h), by decide +kernel⟩, by decide +kernel⟩⟩

def changes : State :=
  let c := up.wr mmemBase F.MSE_OWNSTAT_STATE 1
  { c with mem := { up.mem with owners := [(655359, 0x11)], ownCmd := some ⟨655359, 1, 3, true, 655359, [], Vector.replicate 20 0⟩ } }

/-- The premises of `Obligations.HostMemoryCommands` are met, clause by clause. -/
theorem witness_hostMemoryCommands :
    (∃ (f : Func) (s : State), s.PF0Reaches f ∧ s.Accepts (⟨s.rd mmemBase F.MSE_NORMSEL_TAG % 20, Nat.mod_lt _ (by omega)⟩ : Stack) ⟨.hostNorm, 0x10,
      .normFetch (s.rd mmemBase F.MSE_NORMSEL_TAG) s.mem.normClr, 0⟩) ∧
    (∃ (f : Func) (v : Word64) (s : State) (first count owner : Nat) (mirror : Bool), s.PF0Reaches f ∧ v.toNat.testBit 46 = true ∧ first = bits
      v.toNat 0 20 ∧ count = bits v.toNat 20 20 ∧ owner = bits v.toNat 40 5 ∧ mirror = v.toNat.testBit 45 ∧ s.mem.ownCmd = none ∧ count ≠ 0 ∧ first +
      count ≤ pageCount ∧ ((owner < 16 ∨ owner = 0x10)) ∧ ((∀ i < count, s.mirrorHolds (first + i) = false ∧ s.ownerOf (first + i) ≠ owner))) ∧
    (∃ (f : Func) (v : Word64) (s : State), s.PF0Reaches f ∧ v.toNat.testBit 46 = true ∧ s.mem.ownCmd ≠ none) ∧
    (∃ (f : Func) (v : Word64) (s : State), s.PF0Reaches f ∧ v.toNat.testBit 46 = true ∧ s.mem.ownCmd = none ∧ ((bits v.toNat 20 20 = 0 ∨ pageCount <
      bits v.toNat 0 20 + bits v.toNat 20 20 ∨ 0x11 ≤ bits v.toNat 40 5))) ∧
    (∃ (f : Func) (_n : BitVec 6) (s : State), s.PF0Reaches f) :=
  ⟨⟨0, up, by decide +kernel⟩,
   ⟨0, BitVec.ofNat 64 (2 ^ 46 + 2 ^ 45 + 0x10 * 2 ^ 40 + 2 ^ 20 + 655359), up, 655359, 1, 0x10, true, by decide +kernel⟩,
   ⟨0, BitVec.ofNat 64 (2 ^ 46 + 2 ^ 20), changes, by decide +kernel⟩,
   ⟨0, BitVec.ofNat 64 (2 ^ 46), up, by decide +kernel⟩,
   ⟨0, 63, up, by decide +kernel⟩⟩

def readBack : State := { asks (request (.hbm 0) (.spad 0)) with memResps := vupd State.reset.memResps 19 fun _ => [⟨.bobbin 1 1 255, List.replicate 64 9, false, 0⟩] }
def retiring (n : Nat) : State := { up with mem := { up.mem with perStack := vupd up.mem.perStack 19 fun t => { t with retire := some (32767, n) } } }

/-- The premises of `Obligations.MemoryUpkeep` are met, clause by clause. -/
theorem witness_memoryUpkeep :
    (∃ (k : Stack) (i j : Nat) (s : State) (c : PCore) (b : Bob) (r : MemResp) (q : BobReq) (a n off : Nat), s.memResps[k][j]? = some r ∧ r.dst =
      .bobbin c.val b.val q.tag ∧ r.status = 0 ∧ ((s.bob c b).reqs.find? fun x => x.tag = q.tag) = some q ∧ q.done = false ∧ q.unread = [(.hbm a, n)]
      ∧ q.into = 0 ∧ n ≤ r.data.length ∧ q.dst = .spad off ∧ s.respDue k i = some j ∧ s.rdBit (netBase 0) F.NET_PARTHOLD_HOLD (s.partOf c) = false) ∧
    (∃ (k : Stack) (i : Nat) (s : State), s.respDue k i = none) ∧
    (∃ (k : Stack) (i j : Nat) (s : State) (r : MemResp) (c : PCore) (b tag : Nat), s.memResps[k][j]? = some r ∧ r.dst = .bobbin c.val b tag ∧
      s.respDue k i = some j ∧ s.rdBit (netBase 0) F.NET_PARTHOLD_HOLD (s.partOf c) = true) ∧
    (∃ (s : State) (o : OwnCmd), s.mem.ownCmd = some o ∧ s.earlyHolds o o.next = false ∧ s.ownerOf o.next = 0x11 ∧ (s.snoopGate (o.next * pageSize)
      pageSize true).2 = true ∧ s.closingOf o.next = [] ∧ o.owner < 32) ∧
    (∃ (_k : Stack) (_ecc : LineEcc) (s : State), s.on errBase F.ERR_CTRL_IST_EN = false) ∧
    (∃ (_k : Stack) (_ecc : LineEcc) (s : State), s.on errBase F.ERR_CTRL_IST_EN = true) ∧
    (∃ (k : Stack) (page : Fin 32768) (s : State), s.retireDue k page.val = true ∧ s.mem.perStack[k].retire = none ∧ s.rd (hbmBase k)
      F.HBM_RETIRE_COUNT < 512 + s.mem.perStack[k].freed) ∧
    (∃ (k : Stack) (page n : Nat) (_ecc : List LineEcc) (s : State), s.mem.perStack[k].retire = some (page, n) ∧ n < 32767) ∧
    (∃ (k : Stack) (page : Nat) (_ecc : List LineEcc) (s : State), s.mem.perStack[k].retire = some (page, 32767)) :=
  ⟨⟨19, 0, 0, readBack, 1, 1, ⟨.bobbin 1 1 255, List.replicate 64 9, false, 0⟩, request (.hbm 0) (.spad 0), 0, 64, 0, by decide +kernel⟩,
   ⟨19, 0, up, by decide +kernel⟩,
   ⟨19, 0, 0, readBack.wrBit (netBase 0) F.NET_PARTHOLD_HOLD 0 true, ⟨.bobbin 1 1 255, List.replicate 64 9, false, 0⟩, 1, 1, 255, by decide +kernel⟩,
   ⟨changes, ⟨655359, 1, 3, true, 655359, [], Vector.replicate 20 0⟩, by decide +kernel⟩,
   ⟨19, .lost, up.wr errBase F.ERR_CTRL_IST_EN 0, by decide +kernel⟩,
   ⟨19, .lost, up.setOn errBase F.ERR_CTRL_IST_EN, by decide +kernel⟩,
   ⟨19, 32767, { up with mem := { up.mem with poison := [(19 * 2 ^ 30 + 32767 * 32768, true)] } }, by decide +kernel⟩,
   ⟨19, 32767, 32766, [.corrected], retiring 32766, by decide +kernel⟩,
   ⟨19, 32767, [.corrected], retiring 32767, by decide +kernel⟩⟩

def badEntry : State := { up with net := { up.net with tables := [(entryKey 3 5 0 1 0, 3 + 15 * 2 ^ 26)] } }

/-- The premises of `Obligations.PrickingLoad` are met, clause by clause. -/
theorem witness_prickingLoad :
    (∃ (f : Func) (p : Part) (s : State), s.PF0Reaches f ∧ s.firstBadEntry p.val = none ∧ s.commitReason p = 0) ∧
    (∃ (f : Func) (p : Part) (s : State), s.PF0Reaches f ∧ s.firstBadEntry p.val = none ∧ s.commitReason p ≠ 0) ∧
    (∃ (f : Func) (p : Part) (s : State) (why d r l n : Nat), s.PF0Reaches f ∧ s.firstBadEntry p.val = some (why, d, r, l, n) ∧ ((s.commitReason p = 0
      ∨ why < s.commitReason p)) ∧ why < 16 ∧ d < 4) ∧
    (∃ (s : State) (p : Nat), s.net.commit = some p ∧ s.periodStart = true ∧ SMap.wf 0 s.net.tables = true) ∧
    (∃ (f : Func) (len : BitVec 9) (s : State), s.PF0Reaches f ∧ ((∀ c, s.seqState c ≠ 1 ∧ s.seqState c ≠ 2)) ∧ 2 ∣ len.toNat ∧ 8 ≤ len.toNat ∧
      len.toNat ≤ 256) ∧
    (∃ (f : Func) (len : BitVec 9) (s : State), s.PF0Reaches f ∧ ((len.toNat % 2 = 1 ∨ len.toNat < 8 ∨ 256 < len.toNat))) ∧
    (∃ (s : State), s.net.oldLen ≠ none ∧ s.periodStart = true) :=
  ⟨⟨0, 15, up, by decide +kernel⟩,
   ⟨0, 0, run 0, by decide +kernel⟩,
   ⟨0, 15, badEntry, 5, 3, 5, 0, 0, by decide +kernel⟩,
   ⟨{ up with net := { up.net with commit := some 0, tables := [(256, 1)] } }, 0, by decide +kernel⟩,
   ⟨0, 256, up, by decide +kernel⟩,
   ⟨0, 257, up, by decide +kernel⟩,
   ⟨{ up with net := { up.net with oldLen := some 8 } }, by decide +kernel⟩⟩

def flit1 : FlitAt := ⟨0, 0, 5, 8, 4095, 0, ⟨true, false, false, List.replicate 128 1⟩, []⟩
def moving : State := { up with net := { up.net with cycle := 1, tables := [(entryKey 0 5 0 0 0, 1 + 8 * 4 + 4095 * 2 ^ 14)], flits := [flit1] } }
def flit2 : FlitAt := ⟨1, 0, 7, 10, 4095, 0, ⟨true, false, false, List.replicate 128 1⟩, []⟩

/-- The premises of `Obligations.NetworkCycle` are met, clause by clause. -/
theorem witness_networkCycle :
    (∃ (_par : List (Die × Fin 16 × Fin 64)) (s : State), s.netReady = true ∧ s.frameLen ≤ 256) ∧
    (∃ (s : State) (d r lane n : Nat) (e : Entry) (x : FlitAt), s.netReady = true ∧ (d, r, lane, e) ∈ s.slotEntries s.netSlot ∧ e.kind = 1 ∧ lane < 8
      ∧ e.inA < 32 ∧ meshNext r lane = some n ∧ 1 ≤ s.net.cycle ∧ s.inputAt (s.net.cycle - 1) d r e.inA = some x ∧ s.net.late = []) ∧
    (∃ (s : State), s.netSlot = 0 ∧ s.net.frame ≠ 0 ∧ suppressed s.net.duty s.net.frame = true) ∧
    (∃ (i : Nat) (s : State) (x : FlitAt), s.net.flits[i]? = some x ∧ isBridge x.die x.router x.lane = true ∧ s.net.cycle < x.time ∧ x.flit.valid =
      true) :=
  ⟨⟨[], up, by decide +kernel⟩,
   ⟨moving, 0, 5, 0, 1, ⟨1, 8, 0, 0, 4095, 0⟩, flit1, by decide +kernel⟩,
   ⟨{ up with net := { up.net with frame := 1, duty := 8 } }, by decide +kernel⟩,
   ⟨0, { up with net := { up.net with flits := [flit2] } }, flit2, by decide +kernel⟩⟩

def bflit (kind seq : Nat) : BFlit := ⟨kind, 0, seq, 0xFFFF, false, List.replicate 240 0⟩
def linked (f : PortRec → PortRec) : State := (up.wr (brdBase 23) F.BRD_STATUS_STATE 2).onPort 23 f

/-- The premises of `Obligations.LinkFlits` are met, clause by clause. -/
theorem witness_linkFlits :
    (∃ (p : Port) (f : BFlit) (even odd : Fin 129) (crcOk : Bool) (s : State), s.portUp p.val = true ∧ ¬ FlitGood f even odd crcOk) ∧
    (∃ (p : Port) (f : BFlit) (even odd : Fin 129) (crcOk : Bool) (s : State), s.portUp p.val = true ∧ FlitGood f even odd crcOk ∧ f.kind = 1 ∧ f.seq
      = s.ports[p].rxNext ∧ f.seq < 65536 ∧ s.ports[p].hold = []) ∧
    (∃ (p : Port) (f : BFlit) (even odd : Fin 129) (crcOk : Bool) (s : State), s.portUp p.val = true ∧ FlitGood f even odd crcOk ∧ f.kind = 1 ∧ 0 <
      seqDist s.ports[p].rxNext f.seq ∧ seqDist s.ports[p].rxNext f.seq < 32768 ∧ s.ports[p].hold.length < 4096 ∧ s.ports[p].lacks f.seq = true) ∧
    (∃ (p : Port) (f : BFlit) (even odd : Fin 129) (crcOk : Bool) (s : State), s.portUp p.val = true ∧ FlitGood f even odd crcOk ∧ f.kind = 0 ∧ ((∀ c
      : Fin 4, s.ports[p].txq[c] = [])) ∧ s.branches = []) ∧
    (∃ (p : Port) (f : BFlit) (even odd : Fin 129) (crcOk : Bool) (s : State), s.portUp p.val = true ∧ FlitGood f even odd crcOk ∧ f.kind = 2) ∧
    (∃ (p : Port) (_first : BitVec 16) (n : Fin 17) (s : State), s.portUp p.val = true ∧ 0 < n.val ∧ s.txReady p 0 = false) ∧
    (∃ (p : Port) (i : Nat) (k : Nat × Nat) (s : State), s.portUp p.val = true ∧ s.ports[p].naks[i]? = some k ∧ k.1 < 65536 ∧ k.2 ≤ 16) ∧
    (∃ (p : Port) (s : State), s.portUp p.val = true) :=
  ⟨⟨23, bflit 1 0, 2, 0, false, linked id, by decide +kernel⟩,
   ⟨23, bflit 1 65535, 1, 1, false, linked fun r => { r with rxNext := 65535 }, by decide +kernel⟩,
   ⟨23, bflit 1 5, 0, 0, true, linked id, by decide +kernel⟩,
   ⟨23, bflit 0 0, 0, 0, true, linked fun r => { r with history := [bflit 1 65534] }, by decide +kernel⟩,
   ⟨23, bflit 2 0, 0, 0, true, linked id, by decide +kernel⟩,
   ⟨23, 0xFFFF, 16, linked fun r => { r with history := [bflit 1 65535] }, by decide +kernel⟩,
   ⟨23, 0, (65535, 16), linked fun r => { r with naks := [(65535, 16)] }, by decide +kernel⟩,
   ⟨23, linked id, by decide +kernel⟩⟩

def plugged : State := ((up.setOn (cabBase 11) F.CAB_STATUS_PRESENT).wr (cabBase 11) F.CAB_STATUS_AUTH 1).wr (brdBase 23) F.BRD_CTRL_ENABLE 0
def cable : CableEnd := ⟨9, 1, true, 0, 0, (0, 0), false⟩

/-- The premises of `Obligations.PortStates` are met, clause by clause. -/
theorem witness_portStates :
    (∃ (p : Port) (_errors : List Nat) (_bits : Nat) (s : State), s.portUp p.val = true) ∧
    (∃ (f : Func) (p : Port) (s : State), s.PF0Reaches f ∧ s.portUp p.val = true ∧ s.on (brdBase p) F.BRD_CTRL_ENABLE = true) ∧
    (∃ (f : Func) (p : Port) (s : State) (w g : Nat), s.PF0Reaches f ∧ s.on (brdBase p) F.BRD_CTRL_ENABLE = false ∧ s.linkPower p = true ∧ s.on
      (cabBase (receptOf p)) F.CAB_STATUS_PRESENT = true ∧ s.rd (cabBase (receptOf p)) F.CAB_STATUS_AUTH = 1 ∧ s.widest p s.ports[p].good 4 = some (w,
      g)) ∧
    (∃ (f : Func) (p : Port) (s : State) (w g : Nat) (e : CableEnd), s.PF0Reaches f ∧ s.portUp p.val = true ∧ s.linkPower p = true ∧ s.pins.pwrgd =
      true ∧ s.cables[receptOf p] = some e ∧ e.genuine = true ∧ s.widest p (s.ports[p].good &&& s.ports[p].trial) 4 = some (w, g)) ∧
    (∃ (p : Port) (m : LaneTest) (s : State) (w g : Nat), s.rd (brdBase p) F.BRD_STATUS_STATE = 1 ∧ s.widest p s.ports[p].trial s.ports[p].tryW = some
      (w, g) ∧ g &&& lanesPassed m = g ∧ qPass m.fails m.flits = true ∧ s.portsUp.length < s.portLimit) ∧
    (∃ (f : Func) (_id : BitVec 16) (s : State), s.PF0Reaches f) :=
  ⟨⟨23, List.replicate 8 1, 1000, (linked id).wr (brdBase 23) F.BRD_STATUS_LANES 0xFF, by decide +kernel⟩,
   ⟨0, 23, (linked id).setOn (brdBase 23) F.BRD_CTRL_ENABLE, by decide +kernel⟩,
   ⟨0, 23, plugged, 4, 0xFF, by decide +kernel⟩,
   ⟨0, 23, { linked (fun r => { r with trial := 0xFF }) with cables := up.cables.set 11 (some cable) }, 4, 0xFF, cable, by decide +kernel⟩,
   ⟨23, ⟨List.replicate 8 0, 10000, 0, 1000, 0xFF⟩, (up.wr (brdBase 23) F.BRD_STATUS_STATE 1).onPort 23 fun r => { r with trial := 0xFF, tryW := 4 }, 4, 0xFF,
     by decide +kernel⟩,
   ⟨0, 0xFFFD, up, by decide +kernel⟩⟩

def packet (dst typ len addr : Nat) (data : List Byte) : Packet := ⟨dst, 9, 1, 7, typ, 3, false, len, 255, addr, data⟩
def inPort (c : Fin 4) (k : Packet) : State := up.onPort 0 fun r => { r with inq := vupd r.inq c fun _ => [⟨k, 1, 0⟩] }
def routed : State := { ((inPort 3 (packet 5 0 4 0 [])).wr (brdBase 23) F.BRD_STATUS_STATE 2).onPort 23 (fun r => { r with credits := Vector.replicate 4 0 }) with routes := [(5, 2 ^ 22 + 23)] }

/-- The premises of `Obligations.PacketsForward` are met, clause by clause. -/
theorem witness_packetsForward :
    (∃ (p : Port) (c : Fin 4) (s : State) (k : Packet), s.inFront p c = some k ∧ k.typ ≠ 4 ∧ k.typ ≠ 0xC ∧ k.dst ≠ s.modId ∧ k.hops = 0) ∧
    (∃ (p : Port) (c : Fin 4) (s : State) (k : Packet), s.inFront p c = some k ∧ k.typ ≠ 4 ∧ k.typ ≠ 0xC ∧ k.dst ≠ s.modId ∧ k.hops ≠ 0 ∧ k.dst <
      0xFFFE ∧ s.routeOf k.dst k.src k.sunit = none) ∧
    (∃ (p q : Port) (c cl : Fin 4) (s : State) (k : Packet), s.inFront p c = some k ∧ k.typ ≠ 4 ∧ k.typ ≠ 0xC ∧ k.dst ≠ s.modId ∧ k.hops ≠ 0 ∧ k.dst <
      0xFFFE ∧ s.routeOf k.dst k.src k.sunit = some q ∧ classOfType k.typ = some cl ∧ s.branches = [] ∧ ((∀ i : Fin 4, s.ports[q].credits[i] = 0))) :=
  ⟨⟨0, 3, inPort 3 { packet 5 0 4 0 [] with hops := 0 }, { packet 5 0 4 0 [] with hops := 0 }, by decide +kernel⟩,
   ⟨0, 3, inPort 3 (packet 0xFFFD 0 4 0 []), packet 0xFFFD 0 4 0 [], by decide +kernel⟩,
   ⟨0, 23, 3, 3, routed, packet 5 0 4 0 [], by decide +kernel⟩⟩

def deliver (s : State) (c : Fin 4) (k : Packet) : State := ((s.wr brdmBase F.BRD_MODID_ID 0).wr brdmBase F.BRD_JOB_JOB 7).onPort 0 fun r => { r with inq := vupd r.inq c fun _ => [⟨k, 1, 0⟩] }
def accepts : State := ((up.wrBit (spdBase 1) F.SPD_WINOPEN_OPEN 15 true).wr (spdBase 1) F.SPD_WIN_A_LEN 64 15).setOn (spdBase 1) F.SPD_WIN_A_EXT 15
def grants : State := (accepts.setOn (spdBase 1) F.SPD_WIN_A_CREDIT 15).wr (spdBase 1) F.SPD_WIN_B_POOL 128 15

/-- The premises of `Obligations.PacketsArrive` are met, clause by clause. -/
theorem witness_packetsArrive :
    (∃ (p : Port) (s : State) (k : Packet) (q : Part) (pa : Nat) (m : Stack), Arrives s p 3 0 k ∧ s.jobPart k.job = some q ∧ s.partInReset q.val =
      false ∧ s.linkPlace q k.addr = .at (.hbm pa) ∧ s.stackOf pa = some m ∧ s.Accepts m ⟨.link k.src k.sunit k.tag k.job false, q.val, .write
      (k.data.take (k.len * 16)) k.poison, pa⟩) ∧
    (∃ (p : Port) (s : State) (k : Packet), Arrives s p 3 0 k ∧ s.jobPart k.job = none) ∧
    (∃ (p : Port) (s : State) (k : Packet) (q : Part) (pa : Nat) (m : Stack), Arrives s p 3 1 k ∧ s.jobPart k.job = some q ∧ s.partInReset q.val =
      false ∧ s.linkPlace q k.addr = .at (.hbm pa) ∧ s.stackOf pa = some m ∧ s.Accepts m ⟨.link k.src k.sunit k.tag k.job true, q.val, .read (readLen
      k), pa⟩) ∧
    (∃ (p : Port) (s : State) (k : Packet) (q : Part) (pa h : Nat) (m : Stack), Arrives s p 3 2 k ∧ s.jobPart k.job = some q ∧ s.partInReset q.val =
      false ∧ s.linkPlace q k.addr = .at (.hbm pa) ∧ s.stackOf pa = some m ∧ h = leNat (k.data.take 16) ∧ k.len ≤ 1 ∧ s.Accepts m ⟨.link k.src k.sunit
      k.tag k.job false, q.val, .atomic (bits h 0 4) (bits h 4 4) [bits h 64 (8 * atomicWidth (bits h 0 4) (bits h 4 4))] k.poison, pa⟩) ∧
    (∃ (p : Port) (seq : Nat) (s : State) (k : Packet) (q : Part) (c : PCore), Arrives s p 3 3 k ∧ s.jobPart k.job = some q ∧ s.physOf (bits k.addr 0
      6) = some c ∧ s.partOf c = q.val ∧ WinAccepts s c (bits k.addr 6 4) (bits k.addr 10 16) (bits k.addr 26 18 * 64) k.src (k.sunit % 64) (seq * 4 +
      3) (k.data.take (k.len * 16))) ∧
    (∃ (p : Port) (seq : Nat) (s : State) (k : Packet) (q : Part) (c : PCore), Arrives s p 3 3 k ∧ s.jobPart k.job = some q ∧ s.physOf (bits k.addr 0
      6) = some c ∧ s.partOf c = q.val ∧ s.inReset c = false ∧ s.partInReset q.val = false ∧ ((∀ r ∈ (s.core c).refused, ¬ (r.1 = k.src * 64 + k.sunit
      % 64 ∧ r.2.1 = (seq * 4 + 3) * 16 + bits k.addr 6 4))) ∧ (s.rd (spdBase c) F.SPD_WIN_B_GEN (bits k.addr 6 4) + 65536 - bits k.addr 10 16 %
      65536) % 65536 = 1) ∧
    (∃ (p : Port) (s : State) (k : Packet) (c : PCore) (b : Bob) (q : BobReq) (m a n off : Nat), Arrives s p 1 5 k ∧ s.tagOwner k = some (c, b) ∧
      ((s.bob c b).reqs.find? fun q => q.tag = k.tag) = some q ∧ q.done = false ∧ q.unread = [(.remote m a, n)] ∧ q.into = 0 ∧ n ≤ k.len * 16 ∧ n ≤
      k.data.length ∧ q.dst = .spad off) ∧
    (∃ (p : Port) (s : State) (k : Packet) (c : PCore) (b : Bob) (q : BobReq), Arrives s p 1 6 k ∧ s.tagOwner k = some (c, b) ∧ ((s.bob c
      b).reqs.find? fun q => q.tag = k.tag) = some q ∧ q.done = false ∧ ((k.addr % 256 = 0 → ∀ r ∈ (s.bob c b).reqs, r.tag = k.tag → r.data ≠ none))) ∧
    (∃ (p : Port) (core : Fin 64) (w : Fin 16) (n : Nat) (fl : Fin 64) (inc : BitVec 16) (s : State) (k : Packet) (q : Part) (c : PCore), Arrives s p
      0 9 k ∧ s.jobPart k.job = some q ∧ s.physOf core.val = some c ∧ s.partOf c = q.val ∧ CreditGoes s c ⟨w.val, n, k.src, k.sunit % 64, fl.val,
      inc.toNat⟩) ∧
    (∃ (p : Port) (core : Fin 64) (w : Fin 16) (_n : Nat) (_fl : Fin 64) (_inc : BitVec 16) (s : State) (k : Packet) (q : Part) (c : PCore), Arrives s
      p 0 9 k ∧ s.jobPart k.job = some q ∧ s.physOf core.val = some c ∧ s.partOf c = q.val ∧ s.winOpen c w.val = false) ∧
    (∃ (p : Port) (fl : Fin 64) (inc : BitVec 16) (s : State) (k : Packet) (q : Part) (c : PCore), Arrives s p 0 0xA k ∧ s.jobPart k.job = some q ∧
      k.sunit = c.val ∧ s.partOf c = q.val ∧ s.TakesFlags c ∧ s.FlagFits c fl.val inc.toNat) :=
  ⟨⟨0, deliver mapped 3 (packet 0 0 1 0 (List.replicate 16 3)), packet 0 0 1 0 (List.replicate 16 3), 0, 0, st, ⟨by decide +kernel, by decide +kernel,
  by decide +kernel⟩, by decide +kernel⟩,
   ⟨0, (inPort 3 (packet 0 0 1 0 [])).wr brdmBase F.BRD_MODID_ID 0, packet 0 0 1 0 [], ⟨by decide +kernel, by decide +kernel, by decide +kernel⟩,
     by decide +kernel⟩,
   ⟨0, deliver mapped 3 (packet 0 1 4 0 []), packet 0 1 4 0 [], 0, 0, st, ⟨by decide +kernel, by decide +kernel, by decide +kernel⟩,
     by decide +kernel⟩,
   ⟨0, deliver mapped 3 (packet 0 2 1 0 (List.replicate 16 0)), packet 0 2 1 0 (List.replicate 16 0), 0, 0, 0, st, ⟨by decide +kernel,
     by decide +kernel, by decide +kernel⟩, by decide +kernel⟩,
   ⟨0, 0, deliver accepts 3 (packet 0 3 4 (15 * 64) (List.replicate 64 7)), packet 0 3 4 (15 * 64) (List.replicate 64 7), 0, 1, ⟨by decide +kernel,
     by decide +kernel, by decide +kernel⟩, by decide +kernel⟩,
   ⟨0, 0, deliver mapped 3 (packet 0 3 4 (15 * 64 + 65535 * 1024) []), packet 0 3 4 (15 * 64 + 65535 * 1024) [], 0, 1, ⟨by decide +kernel,
     by decide +kernel, by decide +kernel⟩, by decide +kernel⟩,
   ⟨0, deliver (asks (request (.remote 9 0) (.spad 0))) 1 (packet 0 5 4 0 (List.replicate 64 6)), packet 0 5 4 0 (List.replicate 64 6), 1, 1, request
     (.remote 9 0) (.spad 0), 9, 0, 64, 0, ⟨by decide +kernel, by decide +kernel, by decide +kernel⟩, by decide +kernel⟩,
   ⟨0, deliver (asks (request (.remote 9 0) (.spad 0))) 1 (packet 0 6 0 0xA []), packet 0 6 0 0xA [], 1, 1, request (.remote 9 0) (.spad 0),
     ⟨by decide +kernel, by decide +kernel, by decide +kernel⟩, by decide +kernel⟩,
   ⟨0, 0, 15, 64, 63, 1, deliver grants 0 (packet 0 9 0 0 []), packet 0 9 0 0 [], 0, 1, ⟨by decide +kernel, by decide +kernel, by decide +kernel⟩,
     by decide +kernel⟩,
   ⟨0, 0, 15, 64, 63, 1, deliver mapped 0 (packet 0 9 0 0 []), packet 0 9 0 0 [], 0, 1, ⟨by decide +kernel, by decide +kernel, by decide +kernel⟩,
     by decide +kernel⟩,
   ⟨0, 63, 65535, deliver mapped 0 (packet 0 0xA 0 0 []), packet 0 0xA 0 0 [], 0, 1, ⟨by decide +kernel, by decide +kernel, by decide +kernel⟩,
     by decide +kernel⟩⟩

/-- The premises of `Obligations.Cables` are met, clause by clause. -/
theorem witness_cables :
    (∃ (n : Recept) (e : CableEnd) (s : State), s.cables[n] = none ∧ s.pins.pwrgd = true ∧ s.inService = true ∧ (portsOf n).any (fun p => s.linkPower
      p) = true ∧ e.genuine = true ∧ e.refuses = false) ∧
    (∃ (n : Recept) (e : CableEnd) (s : State), s.cables[n] = some e) ∧
    (∃ (n : Recept) (e : CableEnd) (s : State), s.cables[n] = some e ∧ e.refuses = false ∧ s.rd (cabBase n) F.CAB_STATUS_AUTH = 1 ∧ 0 <
      s.receps[n].due) :=
  ⟨⟨11, cable, up, by decide +kernel⟩,
   ⟨11, cable, { up with cables := up.cables.set 11 (some cable) }, by decide +kernel⟩,
   ⟨11, cable, (({ up with cables := up.cables.set 11 (some cable), receps := up.receps.set 11 ⟨1, false⟩ } : State).wr (cabBase 11) F.CAB_STATUS_AUTH 1).wr (cabBase 11)
     F.CAB_UPSEC_SECONDS 7, by decide +kernel⟩⟩

def grouped (c : Fin 4) (typ ent : Nat) : State := { inPort c (packet 255 typ 4 0xFFFFFF []) with routes := [(65536 + 255, 2 ^ 25 + ent)] }
def multiLine : Packet := packet 255 4 4 0xFFFFFF (List.replicate 64 3)
def multiHere : State :=
  let s := { inPort 3 multiLine with routes := [(65536 + 255, 2 ^ 25 + 2 ^ 24)] }
  let s := ((s.wr brdmBase F.BRD_JOB_JOB 7).wr mcastBase F.BRD_MCDELIV_WINDOW 15 255).wrBit (spdBase 1) F.SPD_WINOPEN_OPEN 15 true
  (s.wr (spdBase 1) F.SPD_WIN_A_LEN 64 15).setOn (spdBase 1) F.SPD_WIN_A_EXT 15
def stuck : State :=
  { (((grouped 3 4 (2 ^ 23)).wr (brdBase 23) F.BRD_STATUS_STATE 2).onPort 23 fun r => { r with credits := Vector.replicate 4 0 }) with
    branches := [⟨255, 23, List.replicate 129 (packet 255 4 32 0 []), none, []⟩] }
def lineFlit : DstFlit := ⟨0, 3, 10, 4095, 0, ⟨true, false, false, List.replicate 128 1⟩, []⟩
def sourced : State :=
  let s := ((up.setOn mcastBase F.BRD_TXMAP_VALID 63).wr mcastBase F.BRD_TXMAP_STREAM 4095 63).wr mcastBase F.BRD_TXMAP_GROUP 255 63
  let n : NetRec := { s.net with dst := [lineFlit], tables := [(entryKey 0 3 10 0 0, 1 + 4095 * 2 ^ 14)] }
  let s := { s.setOn brdmBase F.BRD_MODID_LOCK with net := n, routes := [(65536 + 255, 2 ^ 25 + 2 ^ 23)] }
  (s.wr (brdBase 23) F.BRD_STATUS_STATE 2).onPort 23 fun r => { r with credits := Vector.replicate 4 0 }
def full : Branch := ⟨255, 23, [packet 255 4 4 0xFFFFFF []], some 0, []⟩

/-- The premises of `Obligations.Multicast` are met, clause by clause. -/
theorem witness_multicast :
    (∃ (p : Port) (s : State) (k : Packet), s.inFront p 3 = some k ∧ k.typ = 4 ∧ (s.mcEntry (k.dst % 256)).testBit 25 = false) ∧
    (∃ (p : Port) (s : State) (k : Packet) (g : Nat), s.inFront p 3 = some k ∧ k.typ = 4 ∧ g = k.dst % 256 ∧ (s.mcEntry g).testBit 25 = true ∧ s.mcAll
      g k (s.mcBranches g k p.val) = true) ∧
    (∃ (p : Port) (s : State) (k : Packet) (g w off : Nat) (q : Part) (c : PCore), s.inFront p 3 = some k ∧ k.typ = 4 ∧ g = k.dst % 256 ∧ (s.mcEntry
      g).testBit 25 = true ∧ s.mcBranches g k p.val = [24] ∧ s.mcNow g 24 = true ∧ s.rd mcastBase F.BRD_MCBUF_INUSE ≤ 64 ∧ w = s.rd mcastBase
      F.BRD_MCDELIV_WINDOW g ∧ w < 16 ∧ off = bits k.addr 24 18 * 64 ∧ s.jobPart k.job = some q ∧ s.physOf (s.rd mcastBase F.BRD_MCDELIV_CORE g) =
      some c ∧ s.partOf c = q.val ∧ s.partInReset q.val = false ∧ s.inReset c = false ∧ s.winOpen c w = true ∧ ((k.src ≠ s.modId → s.on (spdBase c)
      F.SPD_WIN_A_EXT w = true)) ∧ 4 ∣ k.len ∧ k.data.length = k.len * 16 ∧ off + k.data.length ≤ s.rd (spdBase c) F.SPD_WIN_A_LEN w ∧ (s.core
      c).landing.length + k.data.length / 64 ≤ 64 ∧ s.rd (spdBase c) F.SPD_WIN_A_COUNTER w < 32 ∧ ((s.arrive c (s.rd (spdBase c) F.SPD_WIN_A_COUNTER
      w) + k.data.length / 64 < 2 ^ 32 ∨ s.on (coreBase c) F.SEQ_CTRL_STRICT = false))) ∧
    (∃ (p : Port) (s : State) (k : Packet) (g : Nat), s.inFront p 3 = some k ∧ k.typ = 4 ∧ g = k.dst % 256 ∧ (s.mcEntry g).testBit 25 = true ∧
      ((s.mcBranches g k p.val).all fun b => s.mcTakes g k b) = false) ∧
    (∃ (x : Sys2Proof.Complex) (s : State) (i g : Nat) (fs : List DstFlit), s.txFlits x = some (i, fs) ∧ s.on brdmBase F.BRD_MODID_LOCK = true ∧ g =
      s.rd mcastBase F.BRD_TXMAP_GROUP i ∧ g < 256 ∧ (s.mcEntry g).testBit 25 = true ∧ (s.mcEntry g).testBit 24 = false ∧ ((∀ c, (s.core c).netOps =
      [])) ∧ s.rd mcastBase F.BRD_TXMAP_LINES i = 0 ∧ SMap.get 0 s.mcLines i % 2 ^ 18 ≤ 2 ^ 18 - 8 ∧ ((∀ d ∈ fs, d.flit.data.length = 128)) ∧
      fs.length ≤ 4 ∧ ((∀ b ∈ s.branches, b.notices = [])) ∧ ((∀ q ∈ s.mcRepl g 24, s.expelled g q.val = false ∧ s.portUp q.val = true ∧
      s.ports[q].credits[(3 : Fin 4)] = 0 ∧ (s.branchOf g q.val).queue = [])) ∧ s.rd mcastBase F.BRD_MCBUF_INUSE + (s.mcRepl g 24).length ≤ 64) ∧
    (∃ (f : Func) (_x : Sys2Proof.Complex) (_k : Fin 64) (_v : BitVec 64) (s : State), s.PF0Reaches f) ∧
    (∃ (g : BitVec 8) (b : Fin 25) (s : State) (t0 : Nat) (k : Packet) (l : List Packet), (s.branchOf g.toNat b.val).full = some t0 ∧ (s.branchOf
      g.toNat b.val).queue = k :: l ∧ s.on mcastBase F.BRD_MCCFG_EXPEL g.toNat = true ∧ t0 + limitOr 1000 (s.rd mcastBase F.BRD_MCCFG_LIMIT g.toNat) ≤
      s.us) ∧
    (∃ (p : Port) (s : State) (k : Packet) (g : Nat), s.inFront p 0 = some k ∧ k.typ = 0xC ∧ g = k.dst % 256 ∧ (s.mcEntry g).testBit 25 = true) ∧
    (∃ (g : BitVec 8) (s : State) (n : Packet × Nat) (c : PCore) (fl : Nat), s.readyNotice (s.branchOf g.toNat 24) true = some n ∧ s.physOf (s.rd
      mcastBase F.BRD_MCDELIV_CORE g.toNat) = some c ∧ fl = s.rd mcastBase F.BRD_MCDELIV_NOTE_FLAG g.toNat ∧ fl < 64 ∧ s.TakesFlags c ∧ s.FlagFits c
      fl 1) ∧
    (∃ (f : Func) (_g : BitVec 8) (_v : BitVec 64) (s : State), s.PF0Reaches f) :=
  ⟨⟨0, inPort 3 (packet 255 4 4 0 []), packet 255 4 4 0 [], by decide +kernel⟩,
   ⟨0, grouped 3 4 0, packet 255 4 4 0xFFFFFF [], 255, by decide +kernel⟩,
   ⟨0, multiHere, multiLine, 255, 15, 0, 0, 1, by decide +kernel⟩,
   ⟨0, stuck, packet 255 4 4 0xFFFFFF [], 255, by decide +kernel⟩,
   ⟨0, sourced, 63, 255, [lineFlit], by decide +kernel⟩,
   ⟨0, 7, 63, BitVec.ofNat 64 (2 ^ 64 - 1), up, by decide +kernel⟩,
   ⟨255, 23, { up.setOn mcastBase F.BRD_MCCFG_EXPEL 255 with branches := [full], ticks := 7520000 }, 0, packet 255 4 4 0xFFFFFF [], [],
     by decide +kernel⟩,
   ⟨0, grouped 0 0xC (2 ^ 24), packet 255 0xC 4 0xFFFFFF [], 255, by decide +kernel⟩,
   ⟨255, { up with branches := [⟨255, 24, [], none, [(packet 255 0xC 0 0xFFFFFF [], 24)]⟩] }, (packet 255 0xC 0 0xFFFFFF [], 24), 1, 0,
     by decide +kernel⟩,
   ⟨0, 255, 0x1000001, up.wr mcastBase F.BRD_MCSTAT_EXPELLED 0x1800001 255, by decide +kernel⟩⟩

def bars : State := up.setOn mcastBase F.BRD_BARCFG_VALID 31

/-- The premises of `Obligations.Barriers` are met, clause by clause. -/
theorem witness_barriers :
    (∃ (f : Func) (b : Fin 32) (v : BitVec 64) (s : State), s.PF0Reaches f ∧ s.rd mcastBase F.BRD_BARSTAT_ARRIVED b.val = 0 ∧ s.rd mcastBase
      F.BRD_BARSTAT_CHILD_IN b.val = 0 ∧ bits v.toNat 6 7 ≤ 60 ∧ bits v.toNat 13 4 ≤ 8) ∧
    (∃ (f : Func) (b : Fin 32) (v : BitVec 64) (s : State), s.PF0Reaches f ∧ ((s.rd mcastBase F.BRD_BARSTAT_ARRIVED b.val ≠ 0 ∨ s.rd mcastBase
      F.BRD_BARSTAT_CHILD_IN b.val ≠ 0 ∨ 60 < bits v.toNat 6 7 ∨ 8 < bits v.toNat 13 4))) ∧
    (∃ (f : Func) (c : PCore) (b : Fin 32) (s : State), s.Reaches f c ∧ s.on mcastBase F.BRD_BARCFG_VALID b.val = true ∧ s.barPart b = s.partOf c ∧
      s.bars[b].cores.contains c = false ∧ s.rd mcastBase F.BRD_BARCFG_LOCAL b.val ≤ 60 ∧ s.rd mcastBase F.BRD_BARSTAT_ARRIVED b.val + 1 < s.rd
      mcastBase F.BRD_BARCFG_LOCAL b.val) ∧
    (∃ (f : Func) (c : PCore) (b : Fin 32) (s : State) (fl : Nat), s.Reaches f c ∧ s.on mcastBase F.BRD_BARCFG_VALID b.val = true ∧ s.on mcastBase
      F.BRD_BARCFG_ROOT b.val = true ∧ s.on mcastBase F.BRD_BARSTAT_WAITING b.val = false ∧ s.barPart b = s.partOf c ∧ s.bars[b].cores.contains c =
      false ∧ s.bars[b].cores.Nodup ∧ s.rd mcastBase F.BRD_BARCFG_LOCAL b.val ≤ 60 ∧ s.rd mcastBase F.BRD_BARSTAT_ARRIVED b.val + 1 = s.rd mcastBase
      F.BRD_BARCFG_LOCAL b.val ∧ s.rd mcastBase F.BRD_BARCFG_CHILDREN b.val ≤ s.rd mcastBase F.BRD_BARSTAT_CHILD_IN b.val ∧ fl = s.rd mcastBase
      F.BRD_BARCFG_FLAG b.val ∧ fl < 64 ∧ ((∀ d ∈ s.bars[b].cores ++ [c], s.TakesFlags d ∧ s.FlagFits d fl 1))) ∧
    (∃ (f : Func) (c : PCore) (b : Fin 32) (s : State), s.Reaches f c ∧ s.on mcastBase F.BRD_BARCFG_VALID b.val = true ∧ s.on mcastBase
      F.BRD_BARCFG_ROOT b.val = false ∧ s.barPart b = s.partOf c ∧ s.bars[b].cores.contains c = false ∧ s.rd mcastBase F.BRD_BARCFG_LOCAL b.val ≤ 60 ∧
      s.rd mcastBase F.BRD_BARSTAT_ARRIVED b.val + 1 = s.rd mcastBase F.BRD_BARCFG_LOCAL b.val ∧ s.rd mcastBase F.BRD_BARCFG_CHILDREN b.val ≤ s.rd
      mcastBase F.BRD_BARSTAT_CHILD_IN b.val) ∧
    (∃ (f : Func) (c : PCore) (b : Fin 32) (s : State), s.Reaches f c ∧ ((s.on mcastBase F.BRD_BARCFG_VALID b.val = false ∨ s.barPart b ≠ s.partOf c ∨
      s.bars[b].cores.contains c = true))) ∧
    (∃ (p : Port) (s : State) (k : Packet) (q : Part) (b : Fin 32), Arrives s p 0 0xB k ∧ bits k.addr 5 1 = 0 ∧ b.val = k.addr % 32 ∧ s.jobPart k.job
      = some q ∧ s.partInReset q.val = false ∧ s.on mcastBase F.BRD_BARCFG_VALID b.val = true ∧ s.barPart b = q.val) ∧
    (∃ (p : Port) (s : State) (k : Packet) (q : Part) (b : Fin 32) (fl : Nat), Arrives s p 0 0xB k ∧ bits k.addr 5 1 = 1 ∧ b.val = k.addr % 32 ∧
      s.jobPart k.job = some q ∧ s.partInReset q.val = false ∧ s.on mcastBase F.BRD_BARCFG_VALID b.val = true ∧ s.barPart b = q.val ∧ bits k.addr 6 16
      = s.rd mcastBase F.BRD_BARSTAT_EPOCH b.val ∧ s.on mcastBase F.BRD_BARCFG_ROOT b.val = false ∧ k.src = s.rd mcastBase F.BRD_BARCFG_PARENT b.val ∧
      fl = s.rd mcastBase F.BRD_BARCFG_FLAG b.val ∧ fl < 64 ∧ s.bars[b].cores.Nodup ∧ ((∀ d ∈ s.bars[b].cores, s.TakesFlags d ∧ s.FlagFits d fl 1))) :=
  ⟨⟨0, 31, BitVec.ofNat 64 (8 * 2 ^ 13 + 60 * 2 ^ 6 + 15 * 2 ^ 2), up, by decide +kernel⟩,
   ⟨0, 31, BitVec.ofNat 64 (9 * 2 ^ 13 + 60 * 2 ^ 6), up, by decide +kernel⟩,
   ⟨0, 1, 31, bars.wr mcastBase F.BRD_BARCFG_LOCAL 2 31, by decide +kernel⟩,
   ⟨0, 1, 31, (bars.wr mcastBase F.BRD_BARCFG_LOCAL 1 31).setOn mcastBase F.BRD_BARCFG_ROOT 31, 0, by decide +kernel⟩,
   ⟨0, 1, 31, bars.wr mcastBase F.BRD_BARCFG_LOCAL 1 31, by decide +kernel⟩,
   ⟨0, 1, 31, up, by decide +kernel⟩,
   ⟨0, deliver (bars.wr mcastBase F.BRD_BARCFG_CHILDREN 2 31) 0 (packet 0 0xB 0 31 []), packet 0 0xB 0 31 [], 0, 31, ⟨by decide +kernel,
     by decide +kernel, by decide +kernel⟩, by decide +kernel⟩,
   ⟨0, deliver (bars.wr mcastBase F.BRD_BARCFG_PARENT 9 31) 0 (packet 0 0xB 0 63 []), packet 0 0xB 0 63 [], 0, 31, 0, ⟨by decide +kernel,
     by decide +kernel, by decide +kernel⟩, by decide +kernel⟩⟩

def cxl : State := { up with hdm := Vector.replicate 2 ⟨true, false⟩ }
def snooping : State := { up with mem := { up.mem with snooped := [⟨0, 0, true, false⟩], filter := [(0, 0)] }, ticks := 7520000 }

/-- The premises of `Obligations.CxlMemory` are met, clause by clause. -/
theorem witness_cxlMemory :
    (∃ (tag line : Nat) (g : Bool) (s : State) (k : Stack), s.cxlMemUp = true ∧ s.stackOf (line * 64) = some k ∧ s.Accepts k ⟨.host tag line g, 0x10,
      .read 64, line * 64⟩) ∧
    (∃ (_tag line : Nat) (_g : Bool) (s : State), s.cxlMemUp = true ∧ s.stackOf (line * 64) = none) ∧
    (∃ (tag a : Nat) (bs : List Byte) (ps : Bool) (s : State) (k : Stack), s.cxlMemUp = true ∧ bs ≠ [] ∧ a % 64 + bs.length ≤ 64 ∧ s.stackOf a = some
      k ∧ s.Accepts k ⟨.host tag (a / 64) false, 0x10, .write bs ps, a⟩) ∧
    (∃ (_tag a : Nat) (_bs : List Byte) (_ps : Bool) (s : State), s.cxlMemUp = true ∧ s.stackOf a = none) ∧
    (∃ (line : Nat) (s : State) (e : Snoop), s.cmOpen = true ∧ (s.mem.snooped.find? fun e => e.line = line && !e.answered) = some e ∧ e.inv = true) ∧
    (∃ (line : Nat) (s : State) (e : Snoop) (bs : List Byte), s.cmOpen = true ∧ (s.mem.snooped.find? fun e => e.line = line && !e.answered) = some e ∧
      bs.length = 64 ∧ s.NoCapture ∧ s.Mapped (line * 64) 64) ∧
    (∃ (line : Nat) (s : State) (e : Snoop), (s.mem.snooped.find? fun e => e.line = line && !e.answered) = some e ∧ e.since + limitOr 1000 (s.rd
      cxlBase F.CXL_BILIMIT_LIMIT) ≤ s.us ∧ s.Mapped (line * 64) 64) ∧
    (∃ (_line : Nat) (_inv : Bool) (s : State), s.cmOpen = true) ∧
    (∃ (_d : Fin 2) (s : State), s.hostReady = true) :=
  ⟨⟨5, 0, true, cxl, st, by decide +kernel⟩,
   ⟨5, 2 ^ 40, true, cxl, by decide +kernel⟩,
   ⟨5, 63, [7], true, cxl, st, by decide +kernel⟩,
   ⟨5, 2 ^ 46, [7], true, cxl, by decide +kernel⟩,
   ⟨0, snooping, ⟨0, 0, true, false⟩, by decide +kernel⟩,
   ⟨0, snooping, ⟨0, 0, true, false⟩, List.replicate 64 7, by decide +kernel⟩,
   ⟨0, snooping, ⟨0, 0, true, false⟩, by decide +kernel⟩,
   ⟨0, true, cxl, by decide +kernel⟩,
   ⟨1, up, by decide +kernel⟩⟩

def posts : State := (mapped.setOn (dbBase 0) F.CXL_CQCFG_EN).wr (dbBase 0) F.CXL_CQCFG_SIZE 4
def heldPosts : State := { posts with cqs := vupd posts.cqs 0 fun q => { q with held := [⟨3, 0, 0, 7⟩] } }

/-- The premises of `Obligations.DoorbellsAndQueues` are met, clause by clause. -/
theorem witness_doorbellsAndQueues :
    (∃ (f : Func) (p : Part) (v : BitVec 64) (s : State) (c : PCore), s.hostReady = true ∧ s.doorOk f p = true ∧ s.exist p.val = true ∧ s.partInReset
      p.val = false ∧ s.physOf (bits v.toNat 0 6) = some c ∧ s.partOf c = p.val ∧ bits v.toNat 12 16 ≠ 0 ∧ v.toNat.testBit 28 = false ∧ s.TakesFlags c
      ∧ s.FlagFits c (bits v.toNat 6 6) (bits v.toNat 12 16)) ∧
    (∃ (f : Func) (p : Part) (v : BitVec 64) (s : State), s.hostReady = true ∧ s.doorOk f p = true ∧ s.exist p.val = true ∧ s.partInReset p.val =
      false ∧ bits v.toNat 12 16 = 0 ∧ v.toNat.testBit 28 = true ∧ s.testsPending p.val = false) ∧
    (∃ (f : Func) (p : Part) (v : BitVec 64) (s : State), s.hostReady = true ∧ bits v.toNat 12 16 ≠ 0 ∧ ((s.doorOk f p = false ∨ s.exist p.val = false
      ∨ s.partInReset p.val = true ∨ ∀ c, s.physOf (bits v.toNat 0 6) = some c → s.partOf c ≠ p.val))) ∧
    (∃ (f : Func) (p : Part) (v : BitVec 32) (s : State), s.hostReady = true ∧ s.doorOk f p = true ∧ 4 ≤ bits v.toNat 2 4 ∧ bits v.toNat 6 7 ≤ 119 ∧
      v.toNat.testBit 0 = true ∧ s.cqs[p].held = [] ∧ s.cqs[p].lost = 0) ∧
    (∃ (f : Func) (p : Part) (v : BitVec 32) (s : State), s.hostReady = true ∧ s.doorOk f p = true ∧ ((bits v.toNat 2 4 < 4 ∨ 119 < bits v.toNat 6
      7))) ∧
    (∃ (f : Func) (p : Part) (_v : BitVec 32) (s : State), s.hostReady = true ∧ s.doorOk f p = true ∧ s.cqs[p].held = [] ∧ s.cqs[p].lost = 0) ∧
    (∃ (f : Func) (p : Part) (v : BitVec 32) (s : State) (r : CqRec) (l : List CqRec) (host : Bool) (pa : Nat), s.hostReady = true ∧ s.doorOk f p =
      true ∧ s.cqs[p].held = r :: l ∧ s.on (dbBase p) F.CXL_CQCFG_EN = true ∧ (s.rd (dbBase p) F.CXL_CQTAIL_TAIL + 1) % 2 ^ s.rd (dbBase p)
      F.CXL_CQCFG_SIZE ≠ bits v.toNat 0 15 % 2 ^ s.rd (dbBase p) F.CXL_CQCFG_SIZE ∧ s.translate p.val ((s.rd (dbBase p) F.CXL_CQBASE_BASE * 4096 +
      s.rd (dbBase p) F.CXL_CQTAIL_TAIL * 32) % 2 ^ 48) = some (host, pa)) ∧
    (∃ (c : PCore) (_v : BitVec 64) (s : State) (p : Part) (host : Bool) (pa : Nat), s.partOf c = p.val ∧ s.on (dbBase p) F.CXL_CQCFG_EN = true ∧
      s.cqRoom p = true ∧ s.cqs[p].held = [] ∧ s.cqs[p].lost = 0 ∧ s.translate p.val ((s.rd (dbBase p) F.CXL_CQBASE_BASE * 4096 + s.rd (dbBase p)
      F.CXL_CQTAIL_TAIL * 32) % 2 ^ 48) = some (host, pa)) ∧
    (∃ (stream : IdeStream) (s : State), s.ide[(ideIndex stream)] = .secure) :=
  ⟨⟨0, 0, BitVec.ofNat 64 (65535 * 2 ^ 12 + 63 * 2 ^ 6), up, 1, by decide +kernel⟩,
   ⟨0, 0, BitVec.ofNat 64 (2 ^ 28), up.wr (coreBase 1) F.SEQ_START_PC 8191, by decide +kernel⟩,
   ⟨0, 0, BitVec.ofNat 64 (2 ^ 12 + 60), up, by decide +kernel⟩,
   ⟨0, 15, BitVec.ofNat 32 (119 * 2 ^ 6 + 15 * 2 ^ 2 + 1), up, by decide +kernel⟩,
   ⟨0, 15, 0xFFFFFFFF, up, by decide +kernel⟩,
   ⟨0, 0, 5, posts, by decide +kernel⟩,
   ⟨0, 0, 5, heldPosts, ⟨3, 0, 0, 7⟩, [], false, 0, by decide +kernel⟩,
   ⟨1, 7, posts, 0, false, 0, by decide +kernel⟩,
   ⟨.ioSel 3, { up with ide := up.ide.set 4 .secure }, by decide +kernel⟩⟩

/-- The premises of `Obligations.WideResets` are met, clause by clause. -/
theorem witness_wideResets :
    (∃ (p : Part) (s : State), s.hostReady = true ∧ s.exist p.val = true ∧ s.partInReset p.val = false ∧ ((∀ c, s.partOf c = p.val → s.underTest c =
      false))) ∧
    (∃ (s : State), s.hostReady = true ∧ ((∀ c, s.underTest c = false))) ∧
    (∃ (s : State), s.hostReady = true ∧ ((∀ c, s.underTest c = false))) ∧
    (∃ (s : State), s.RegsCanonical) ∧
    (∃ (f : Func) (s : State), s.PF0Reaches f ∧ s.RegsCanonical) :=
  ⟨⟨0, up, by decide +kernel⟩,
   ⟨up, by decide +kernel⟩,
   ⟨{ up with mem := { up.mem with filter := [(0, 0)] } }, by decide +kernel⟩,
   ⟨up, by decide +kernel⟩,
   ⟨0, up, by decide +kernel⟩⟩

def partitions : State := up.wrBit licBase F.LIC_ACTIVE_FEATURES 0 true

/-- The premises of `Obligations.PartitionCommands` are met, clause by clause. -/
theorem witness_partitionCommands :
    (∃ (f : Func) (p : Part) (cl : BitVec 16) (s : State), ∃ i ∈ partCmds f p cl, s.PF0Reaches f ∧ s.exist p.val = decide (i.2.1 ≠ 1) ∧ PartMay s
      i.2.1 p.val i.2.2 ∧ ((∀ c, Affects s i.2.1 p.val i.2.2 c → s.underTest c = false)) ∧ ((∃ c, Affects s i.2.1 p.val i.2.2 c ∧ s.enabled c = true ∧
      s.powered c = true))) ∧
    (∃ (f : Func) (p : Part) (cl : BitVec 16) (s : State), ∃ i ∈ partCmds f p cl, s.PF0Reaches f ∧ s.exist p.val = decide (i.2.1 ≠ 1) ∧ PartMay s
      i.2.1 p.val i.2.2 ∧ ((∀ c, Affects s i.2.1 p.val i.2.2 c → s.underTest c = false ∧ (s.enabled c && s.powered c) = false ∧ s.resetting c = false
      ∧ (s.core c).fillEnd = none ∧ (s.core c).wantFill = false))) ∧
    (∃ (f : Func) (p : Part) (cl : BitVec 16) (s : State), ∃ i ∈ partCmds f p cl, s.PF0Reaches f ∧ ((∀ c, Affects s i.2.1 p.val i.2.2 c → s.underTest
      c = false)) ∧ ((s.exist p.val = decide (i.2.1 = 1) ∨ ¬ PartMay s i.2.1 p.val i.2.2))) ∧
    (∃ (s : State) (k : PartCmd), s.partCmd = some k ∧ 1 ≤ k.op ∧ k.op ≤ 3 ∧ k.part < 16 ∧ ((∀ n ∈ k.clusters, n < 16)) ∧ ((∀ n ∈ k.clusters, ∀ c ∈
      coresOf n, s.resetting c = false ∧ (s.core c).wantFill = false ∧ ((s.core c).fillEnd.all fun e => decide (e ≤ s.cycle)) = true))) ∧
    (∃ (s : State), s.partCmd = none) :=
  ⟨⟨0, 1, 0x8000, partitions, (Instr.partitionForm 0 1 0x8000, 1, 0x8000), by simp [partCmds], by decide +kernel⟩,
   ⟨0, 1, 0x8000, partitions.wr pwrBase F.PWR_PDSTAT_ON 0, (Instr.partitionForm 0 1 0x8000, 1, 0x8000), by simp [partCmds], by decide +kernel⟩,
   ⟨0, 1, 0x8000, up, (Instr.partitionForm 0 1 0x8000, 1, 0x8000), by simp [partCmds], by decide +kernel⟩,
   ⟨{ up with partCmd := some ⟨1, 1, [15]⟩ }, ⟨1, 1, [15]⟩, by decide +kernel⟩,
   ⟨up, by decide +kernel⟩⟩

def partResetting : State :=
  let s := up.wr prtBase F.PRT_PSTAT_INRESET 1 15
  { s with cycle := 9400, parts := vupd s.parts 15 fun r => { r with resetAt := some 0 } }

/-- The premises of `Obligations.Resets` are met, clause by clause. -/
theorem witness_resets :
    (∃ (f : Func) (c : PCore) (s : State), s.PF0Reaches f ∧ s.enabled c = true ∧ s.powered c = true ∧ s.resetting c = false ∧ s.partInReset (s.partOf
      c) = false ∧ s.underTest c = false) ∧
    (∃ (f : Func) (c : PCore) (s : State), s.PF0Reaches f ∧ s.enabled c = true ∧ s.powered c = true ∧ s.underTest c = false ∧ ((s.partInReset
      (s.partOf c) = true ∨ s.resetting c = true))) ∧
    (∃ (f : Func) (k : Fin 64) (s : State), s.PF0Reaches f ∧ k.val < 16 ∧ ((∀ c ∈ coresOf k.val, s.resetting c = false ∧ s.partInReset (s.partOf c) =
      false ∧ s.underTest c = false))) ∧
    (∃ (f : Func) (p : Fin 64) (s : State), s.PF0Reaches f ∧ p.val < 16 ∧ s.exist p.val = true ∧ s.partInReset p.val = false ∧ ((∀ c, s.partOf c =
      p.val → s.underTest c = false))) ∧
    (∃ (f : Func) (p : Fin 64) (s : State), s.PF0Reaches f ∧ ((p.val < 16 → s.exist p.val = false)) ∧ ((∀ c, s.partOf c = p.val → s.underTest c =
      false))) ∧
    (∃ (c : PCore) (s : State) (e : Nat), (s.core c).resetEnd = some e ∧ e ≤ s.cycle ∧ s.resetting c = true ∧ ((∀ i : Eng, (s.eng c i).issued = [])) ∧
      s.localHeld c = false) ∧
    (∃ (p : Part) (s : State) (e : Nat), s.parts[p].resetAt = some e ∧ s.partInReset p.val = true ∧ e + 9400 ≤ s.cycle ∧ ((∀ c, s.partOf c = p.val →
      s.resetting c = false)) ∧ s.noRequest (fun r => decide (r.part = p.val)) = true) :=
  ⟨⟨0, 1, run 0, by decide +kernel⟩,
   ⟨0, 1, up.wrBit rstBase F.RST_CORESTAT_INRESET 1 true, by decide +kernel⟩,
   ⟨0, 15, up, by decide +kernel⟩,
   ⟨0, 0, run 0, by decide +kernel⟩,
   ⟨0, 63, up, by decide +kernel⟩,
   ⟨1, (up.wrBit rstBase F.RST_CORESTAT_INRESET 1 true).onCore 1 (fun r => { r with resetEnd := some 0 }), 0, by decide +kernel⟩,
   ⟨15, partResetting, 0, by decide +kernel⟩⟩

def quarRec (started : Option Nat) (failed : Option TestResult) : QuarRec := ⟨1, 7, 1, 127, 2, 0, started, failed, false, true⟩
def quar (started : Option Nat) (failed : Option TestResult) : State :=
  { up.wr (opeBase 1 3) F.OPE_STATUS_STATE 5 with quar := [quarRec started failed], ticks := 150400 }
def patrols (n : Nat) : State := { up.setOn errBase F.ERR_CTRL_IST_EN with patrolAt := n }

/-- The premises of `Obligations.ErrorsAndTests` are met, clause by clause. -/
theorem witness_errorsAndTests :
    (∃ (i : Nat) (s : State) (q : QuarRec), s.quar[i]? = some q ∧ q.started = none ∧ q.failed = none ∧ s.startPoint q = true) ∧
    (∃ (i : Nat) (s : State) (q : QuarRec) (b : Nat), s.quar[i]? = some q ∧ q.unit = 1 ∧ q.started = some b ∧ q.failed = none ∧ q.again = false ∧ b +
      20 ≤ s.us ∧ s.engState q.core q.eng = 5 ∧ (s.eng q.core q.eng).askedStop = false ∧ s.held = [] ∧ ((∀ p : Part, s.parts[p].goHeld = false))) ∧
    (∃ (i : Nat) (s : State) (q : QuarRec) (row : Fin 128), s.quar[i]? = some q ∧ q.unit = 1 ∧ q.failed = some (.failRow row) ∧ s.testPoint q = true ∧
      s.engState q.core q.eng = 5 ∧ (s.eng q.core q.eng).askedStop = false ∧ s.held = [] ∧ ((∀ p : Part, s.parts[p].goHeld = false))) ∧
    (∃ (s : State), s.on errBase F.ERR_CTRL_IST_EN = true ∧ ((∀ c, (s.core c).spadBad = [] ∧ (s.core c).accBad = []))) ∧
    (∃ (c : PCore) (l : Fin 196608) (w : Fin 1572864) (_double : Bool) (s : State), s.on errBase F.ERR_CTRL_IST_EN = true ∧ s.enabled c = true ∧
      s.inReset c = false ∧ s.patrolAt = c.val * patrolSpan + l.val ∧ w.val / 8 = l.val ∧ (s.core c).spadBad = []) ∧
    (∃ (c : PCore) (e : Eng) (r : Fin 4096) (_pair : Fin 64) (_double : Bool) (s : State), s.on errBase F.ERR_CTRL_IST_EN = true ∧ s.enabled c = true
      ∧ s.inReset c = false ∧ s.patrolAt = c.val * patrolSpan + 196608 + e.val * 4096 + r.val ∧ (s.core c).accBad = []) ∧
    (∃ (p : Port) (lane : Fin 8) (code : BitVec 8) (s : State), s.on errBase F.ERR_CTRL_IST_EN = true ∧ s.portUp p.val = true ∧ s.rdBit (brdBase p)
      F.BRD_STATUS_LANES lane.val = true ∧ 58 ≤ code.toNat ∧ code.toNat < 96) ∧
    (∃ (s : State), s.hourAt + 3600000000 ≤ s.us) ∧
    (∃ (_k : Stack) (s : State), s.RegsCanonical) ∧
    (∃ (_d : Die) (s : State), s.RegsCanonical) :=
  ⟨⟨0, quar none none, quarRec none none, by decide +kernel⟩,
   ⟨0, quar (some 0) none, quarRec (some 0) none, 0, by decide +kernel⟩,
   ⟨0, quar (some 0) (some (.failRow 127)), quarRec (some 0) (some (.failRow 127)), 127, by decide +kernel⟩,
   ⟨patrols (64 * patrolSpan - 1), by decide +kernel⟩,
   ⟨1, 196607, 1572863, true, patrols (patrolSpan + 196607), by decide +kernel⟩,
   ⟨1, 3, 4095, 63, true, patrols (patrolSpan + 196608 + 3 * 4096 + 4095), by decide +kernel⟩,
   ⟨23, 7, 58, ((linked id).wr (brdBase 23) F.BRD_STATUS_LANES 0x80).setOn errBase F.ERR_CTRL_IST_EN, by decide +kernel⟩,
   ⟨{ up with ticks := 3600000000 * 7520 }, by decide +kernel⟩,
   ⟨19, up, by decide +kernel⟩,
   ⟨3, up, by decide +kernel⟩⟩

def reserve : State := { up.wrBit licBase F.LIC_ACTIVE_FEATURES 4 true with mem := { up.mem with owners := [(7, 47), (655359, 0x10)] } }
def epochOf (n : Nat) : Epoch := ⟨n, 3, 4, [], [5], [], [5], 0, none, 0, true, 0⟩
def inEpoch (p : Part) (st n : Nat) : State := (up.onMir p fun r => { r with epoch := some (epochOf n) }).wr mirBase F.MIR_STATE_STATE st p.val
def restorable : State :=
  { (up.setOn mirBase F.MIR_CFG_EN 15).onMir 15 (fun r => { r with commit := some ⟨65536 + 9, 3, 4, []⟩ }) with mem := { up.mem with dirty := [(dirtyKey 15 5, true)] } }
def late (s : State) : State := { s with ticks := 752000000 }

/-- The premises of `Obligations.MirrorControl` are met, clause by clause. -/
theorem witness_mirrorControl :
    (∃ (f : Func) (p : Part) (v : BitVec 64) (_h : Nat) (s : State), s.PF0Reaches f ∧ s.on mirBase F.MIR_CFG_EN p.val = false ∧ v.toNat.testBit 0 =
      true ∧ s.on mirBase F.MIR_CFG_LOCK p.val = false ∧ s.licensed 4 = true ∧ ((∀ i < bits v.toNat 16 20, s.ownerOf (s.rd mirBase F.MIR_RESBASE_BASE
      p.val + i) = 0x10))) ∧
    (∃ (f : Func) (p : Part) (v : BitVec 64) (_h : Nat) (s : State), s.PF0Reaches f ∧ v.toNat.testBit 0 = true ∧ ((s.on mirBase F.MIR_CFG_EN p.val =
      true ∨ s.licensed 4 = false ∨ ∃ i < bits v.toNat 16 20, s.ownerOf (s.rd mirBase F.MIR_RESBASE_BASE p.val + i) ≠ 0x10))) ∧
    (∃ (f : Func) (p : Part) (s : State), s.PF0Reaches f ∧ s.on mirBase F.MIR_CFG_EN p.val = true) ∧
    (∃ (f : Func) (n : Fin 16) (v : BitVec 64) (s : State), s.PF0Reaches f ∧ v.toNat.testBit 40 = false ∧ s.storeState n ≠ 5) ∧
    (∃ (f : Func) (n : Fin 16) (v : BitVec 64) (s : State), s.PF0Reaches f ∧ v.toNat.testBit 40 = true ∧ s.storeState n ≤ 1 ∧ ((∀ i < bits v.toNat 20
      20, s.ownerOf (bits v.toNat 0 20 + i) = 0x10))) ∧
    (∃ (f : Func) (p : Part) (s : State) (e : Epoch), s.PF0Reaches f ∧ s.mir[p].epoch = some e ∧ s.rd mirBase F.MIR_STATE_STATE p.val = 4) ∧
    (∃ (f : Func) (p : Part) (ep : BitVec 16) (_rn : Bool) (s : State) (m : EpochMark), s.PF0Reaches f ∧ MayRestore s p ep.toNat m ∧ pagesIn
      s.mem.dirty p.val ≠ []) ∧
    (∃ (f : Func) (p : Part) (ep : BitVec 16) (s : State) (m : EpochMark), s.PF0Reaches f ∧ MayRestore s p ep.toNat m ∧ s.mir[p].epoch = none ∧
      pagesIn s.mem.dirty p.val = [] ∧ pagesIn s.mem.closing p.val = []) ∧
    (∃ (f : Func) (p : Part) (_ep : BitVec 16) (_rn _ck : Bool) (s : State), s.PF0Reaches f ∧ s.mir[p].restore = none) ∧
    (∃ (p : Part) (s : State) (r : Restore), s.mir[p].restore = some r ∧ r.progress + s.ackLimit p.val ≤ s.us) :=
  ⟨⟨0, 15, BitVec.ofNat 64 (2 ^ 16 + 1), 0, reserve.wr mirBase F.MIR_RESBASE_BASE 655359 15, by decide +kernel⟩,
   ⟨0, 15, 1, 0, up.setOn mirBase F.MIR_CFG_EN 15, by decide +kernel⟩,
   ⟨0, 15, up.setOn mirBase F.MIR_CFG_EN 15, by decide +kernel⟩,
   ⟨0, 15, 0, up, by decide +kernel⟩,
   ⟨0, 15, BitVec.ofNat 64 (2 ^ 40 + 2 ^ 20 + 655359), reserve, by decide +kernel⟩,
   ⟨0, 15, inEpoch 15 4 9, epochOf 9, by decide +kernel⟩,
   ⟨0, 15, 9, true, restorable, ⟨65536 + 9, 3, 4, []⟩, by decide +kernel⟩,
   ⟨0, 15, 9, { restorable with mem := up.mem }, ⟨65536 + 9, 3, 4, []⟩, by decide +kernel⟩,
   ⟨0, 15, 9, true, true, up.setOn mirBase F.MIR_CFG_EN 15, by decide +kernel⟩,
   ⟨15, late (up.onMir 15 fun r => { r with restore := some ⟨⟨0, 0, 0, []⟩, false, [5], 0, 1, 0, []⟩ }), ⟨⟨0, 0, 0, []⟩, false, [5], 0, 1, 0, []⟩,
     by decide +kernel⟩⟩

def sealing : State := (((up.onMir 15 fun r => { r with epoch := some { epochOf 9 with done := [] } }).wr mirBase F.MIR_STATE_STATE 2 15).wr brdmBase F.BRD_MODID_ID 0).wr mirBase F.MIR_PARTNER_MODULE 0 15
def answer (status num : Nat) : Packet := packet 0 7 0 (ansAddr status num 0 0) []
def awaiting (k : Packet) : State := deliver (((inEpoch 0 3 9).setOn mirBase F.MIR_CFG_EN 0).wr mirBase F.MIR_PARTNER_MODULE 9 0) 1 k

/-- The premises of `Obligations.EpochCourse` are met, clause by clause. -/
theorem witness_epochCourse :
    (∃ (p : Part) (k : Stack) (_ecc : List LineEcc) (s : State) (e : Epoch) (page g : Nat), s.mir[p].epoch = some e ∧ s.rd mirBase F.MIR_STATE_STATE
      p.val = 2 ∧ s.reachable (s.partner p.val) (64 + k.val) = true ∧ s.nextGran p e k = some (page, g) ∧ ((∀ i < 64, s.tracked (page * 32768 + g * 64
      + i) = false)) ∧ s.mem.snooped = []) ∧
    (∃ (p : Part) (s : State) (e : Epoch), s.mir[p].epoch = some e ∧ s.rd mirBase F.MIR_STATE_STATE p.val = 2 ∧ ((∀ g ∈ e.pages, g ∈ e.done)) ∧
      s.reachable (s.partner p.val) 85 = true) ∧
    (∃ (port : Port) (s : State) (k : Packet) (p : Part) (e : Epoch), Arrives s port 1 7 k ∧ bits k.addr 42 3 = 0 ∧ s.mirrorPart k.src k.job = some p
      ∧ s.mir[p].epoch = some e ∧ s.mir[p].restore = none ∧ e.num % 2 ^ 14 = bits k.addr 8 14 ∧ ((s.rd mirBase F.MIR_STATE_STATE p.val = 2 ∨ s.rd
      mirBase F.MIR_STATE_STATE p.val = 3))) ∧
    (∃ (p : Part) (s : State) (e : Epoch), s.mir[p].epoch = some e ∧ ((s.rd mirBase F.MIR_STATE_STATE p.val = 2 ∨ s.rd mirBase F.MIR_STATE_STATE p.val
      = 3)) ∧ e.sentAt.getD e.progress + s.ackLimit p.val ≤ s.us) :=
  ⟨⟨15, (up.stackOf (5 * 2097152)).getD 0, [], sealing, { epochOf 9 with done := [] }, 5, 0, by decide +kernel⟩,
   ⟨15, ((inEpoch 15 2 9).wr brdmBase F.BRD_MODID_ID 0).wr mirBase F.MIR_PARTNER_MODULE 0 15, epochOf 9, by decide +kernel⟩,
   ⟨0, awaiting (answer 0 9), answer 0 9, 0, epochOf 9, ⟨by decide +kernel, by decide +kernel, by decide +kernel⟩, by decide +kernel⟩,
   ⟨15, late (inEpoch 15 3 9), epochOf 9, by decide +kernel⟩⟩

def storing (st src : Nat) (f : StoreRec → StoreRec) (k : Packet) (c : Fin 4) : State :=
  let s := ((up.setOn mirBase F.MIR_STORE_A_VALID 15).wr mirBase F.MIR_STORE_B_SRCMOD src 15).wr mirBase F.MIR_STORE_B_JOB 7 15
  deliver ((s.wr mirBase F.MIR_STORE_D_STATE st 15).onStore 15 f) c k
def mpacket (kind : Nat) (data : List Byte) : Packet := packet 0 8 (units data.length) (mirAddr 0xFFFFF 511 7 kind 0x3FFF) data
def pageData : Packet := mpacket 0 (List.replicate 512 3)
def digest : Packet := mpacket 1 (List.replicate 64 3)
def chunk : Packet := mpacket 2 (List.replicate 64 3)
def storeChunk (k : Packet) : State := storing 3 9 (fun r => { r with epoch := some 0x3FFF }) k 2
def answerOf (page kind : Nat) : Packet := packet 0 7 0 (ansAddr 0 0x3FFF page kind) []
def pageAsked : Packet := { answerOf 0xFFFFF 4 with src := 0 }

/-- The premises of `Obligations.PartnerStore` are met, clause by clause. -/
theorem witness_partnerStore :
    (∃ (port : Port) (_ecc : List LineEcc) (s : State) (k : Packet) (n : Fin 16) (g : Nat), ForStore s port 0 k n ∧ s.storeState n = 3 ∧
      s.stores[n].epoch = some (bits k.addr 34 14) ∧ joinChunks s.stores[n].chunks = none ∧ (s.stores[n].staged.find? fun e => e.1 = bits k.addr 0 20)
      = some (bits k.addr 0 20, g) ∧ k.data.length = 512 ∧ s.Mapped (g * pageSize + (bits k.addr 20 9 * 8 + bits k.addr 29 3) * 512) 512) ∧
    (∃ (port : Port) (_ecc : List LineEcc) (s : State) (k : Packet) (n : Fin 16), ForStore s port 1 k n ∧ s.storeState n = 3 ∧ s.stores[n].epoch =
      some (bits k.addr 34 14) ∧ joinChunks s.stores[n].chunks = none) ∧
    (∃ (port : Port) (_ecc : List LineEcc) (s : State) (k : Packet) (n : Fin 16) (cs : SMap (List Byte)), ForStore s port 2 k n ∧ s.storeState n = 3 ∧
      s.stores[n].epoch = some (bits k.addr 34 14) ∧ cs = SMap.put (bits k.addr 0 20) (k.data.take (k.len * 16)) s.stores[n].chunks) ∧
    (∃ (port : Port) (s : State) (k : Packet) (n : Fin 16), Arrives s port 1 7 k ∧ bits k.addr 42 3 = 3 ∧ s.storeOf k.src k.job = some n ∧
      s.storeState n = 4 ∧ s.stores[n].epoch = some (bits k.addr 8 14)) ∧
    (∃ (n : Fin 16) (s : State) (t0 : Nat), s.stores[n].manAt = some t0 ∧ s.storeState n = 3 ∧ t0 + s.storeLimit n ≤ s.us) ∧
    (∃ (port : Port) (_ecc : List LineEcc) (s : State) (k : Packet) (n : Fin 16) (e : Nat × Nat × Nat), Arrives s port 1 7 k ∧ bits k.addr 42 3 = 4 ∧
      s.requestStore k.src k.job = some n ∧ s.storeState n ≠ 4 ∧ (s.stores[n].map.find? fun e => e.1 = bits k.addr 22 20) = some e ∧ k.src = s.modId ∧
      s.on brdmBase F.BRD_MODID_LOCK = true) :=
  ⟨⟨0, [], storing 3 9 (fun r => { r with epoch := some 0x3FFF, staged := [(0xFFFFF, 30)] }) pageData 2, pageData, 15, 30, ⟨⟨by decide +kernel,
  by decide +kernel, by decide +kernel⟩, by decide +kernel⟩, by decide +kernel⟩,
   ⟨0, [], storing 3 9 (fun r => { r with epoch := some 0x3FFF }) digest 2, digest, 15, ⟨⟨by decide +kernel, by decide +kernel, by decide +kernel⟩,
     by decide +kernel⟩, by decide +kernel⟩,
   ⟨0, [], storeChunk chunk, chunk, 15, SMap.put (bits chunk.addr 0 20) (chunk.data.take (chunk.len * 16)) [], ⟨⟨by decide +kernel, by decide +kernel,
     by decide +kernel⟩, by decide +kernel⟩, by decide +kernel⟩,
   ⟨0, storing 4 9 (fun r => { r with epoch := some 0x3FFF, held := List.replicate 64 0 }) (answerOf 0 3) 1, answerOf 0 3, 15, ⟨by decide +kernel,
     by decide +kernel, by decide +kernel⟩, by decide +kernel⟩,
   ⟨15, late (storing 3 9 (fun r => { r with manAt := some 0 }) chunk 2), 0, by decide +kernel⟩,
   ⟨0, [], (storing 2 0 (fun r => { r with map := [(0xFFFFF, 30, 5)] }) pageAsked 1).setOn brdmBase F.BRD_MODID_LOCK, pageAsked, 15, (0xFFFFF, 30, 5),
     ⟨by decide +kernel, by decide +kernel, by decide +kernel⟩, by decide +kernel⟩⟩

def committed : State := (up.onStore 15 fun r => { r with commit := [1], map := [(5, 30, 7)] }).wr mirBase F.MIR_STORE_D_STATE 2 15
def fill (target : Nat) : Fill := ⟨15, target, [5], 0, [], false, false, 0⟩
def filling (target : Nat) : State := (({ up with fills := [fill target] } : State).wr mirBase F.MIR_STORE_B_JOB 7 15).wr brdmBase F.BRD_MODID_ID 0

/-- The premises of `Obligations.Fills` are met, clause by clause. -/
theorem witness_fills :
    (∃ (f : Func) (_p : Part) (_src : BitVec 16) (_arm : Bool) (s : State), s.PF0Reaches f) ∧
    (∃ (f : Func) (n : Fin 16) (_target : BitVec 16) (s : State), s.PF0Reaches f ∧ 2 ≤ s.storeState n ∧ s.stores[n].commit ≠ [] ∧ s.fills = [] ∧
      s.fillQ = []) ∧
    (∃ (f : Func) (n : Fin 16) (_target : BitVec 16) (s : State), s.PF0Reaches f ∧ 2 ≤ s.storeState n ∧ s.stores[n].commit ≠ [] ∧ ((∀ x ∈ s.fills,
      x.paused = false)) ∧ (if s.on mirBase F.MIR_CTRL_FILL2 = true then 2 else 1) ≤ s.fills.length ∧ s.fillQ.length < 8) ∧
    (∃ (f : Func) (s : State), s.PF0Reaches f ∧ s.rd mirBase F.MIR_FILL_CTRL_STORE < 16) ∧
    (∃ (i : Fin 2) (_ecc : List LineEcc) (s : State) (x : Fill), s.fills[i.val]? = some x ∧ x.store < 16 ∧ x.paused = false ∧ s.reachable x.target 85
      = true) ∧
    (∃ (port : Port) (s : State) (k : Packet) (i : Nat) (x : Fill), Arrives s port 1 7 k ∧ bits k.addr 42 3 = 1 ∧ s.fillOf k.src k.job = some i ∧
      s.fills[i]? = some x) ∧
    (∃ (p : Part) (s : State) (man : List Byte), joinChunks s.fillRx[p].chunks = some man ∧ s.rd mirBase F.MIR_FILLRX_B_STATE p.val = 1 ∧
      s.fillRx[p].parts = []) ∧
    (∃ (port : Port) (s : State) (k : Packet) (i : Nat) (x : Fill), Arrives s port 1 7 k ∧ bits k.addr 42 3 = 2 ∧ s.fillOf k.src k.job = some i ∧
      s.fills[i]? = some x ∧ x.store < 16 ∧ s.fillQ = [] ∧ ((∀ y ∈ s.fills.eraseIdx i, y.store ≠ x.store))) ∧
    (∃ (i : Fin 16) (s : State), s.rd mirBase F.MIR_FILLRX_B_STATE i.val = 1 ∧ s.fillRx[i].progress + s.ackLimit i.val ≤ s.us) ∧
    (∃ (i : Fin 16) (s : State) (x : Fill) (h : x.store < 16), s.fills[i.val]? = some x ∧ x.paused = false ∧ x.progress + s.storeLimit ⟨x.store, h⟩ ≤
      s.us) :=
  ⟨⟨0, 15, 0xFFFD, true, up, by decide +kernel⟩,
   ⟨0, 15, 0xFFFD, committed, by decide +kernel⟩,
   ⟨0, 15, 5, { committed with fills := [fill 0] }, by decide +kernel⟩,
   ⟨0, up, by decide +kernel⟩,
   ⟨0, [], filling 0, fill 0, by decide +kernel⟩,
   ⟨0, deliver (filling 9) 1 (answerOf 5 1), answerOf 5 1, 0, fill 9, ⟨by decide +kernel, by decide +kernel, by decide +kernel⟩, by decide +kernel⟩,
   ⟨15, (up.onRx 15 fun r => { r with chunks := [(0, List.replicate 64 0)] }).wr mirBase F.MIR_FILLRX_B_STATE 1 15, List.replicate 64 0,
     by decide +kernel⟩,
   ⟨0, deliver (filling 9) 1 (answerOf 5 2), answerOf 5 2, 0, fill 9, ⟨by decide +kernel, by decide +kernel, by decide +kernel⟩, by decide +kernel⟩,
   ⟨15, late (up.wr mirBase F.MIR_FILLRX_B_STATE 1 15), by decide +kernel⟩,
   ⟨0, late (filling 9), fill 9, (by decide), by decide +kernel⟩⟩

def good : BootTest := ⟨true, true, some ⟨4, true, true, true, true⟩, 0, 0, 0, 0, []⟩
def slots (a b : FwSlot) (s : State) : State := { s with boot := { s.boot with slotA := a, slotB := b } }
def oneImage : FwSlot := ⟨[(0, [1])], false⟩
theorem slots_valid (h : Config.imageOk [(0, [1])] = true) : (slots oneImage ⟨[], false⟩ State.reset).slotState 0 = 1 := by
  simp [slots, State.slotState, State.slot, slotCheck, oneImage, State.reset, BootRec.reset]; exact h
def atStep1 (f : PinRec → PinRec) : State := { (State.reset.onPins f) with boot := { BootRec.reset with step := 1 } }
def stepSix : State := ((up.wr secBase F.SEC_STATUS_BOOTSTATE 1).wr pwrBase F.PWR_CLASS_RESULT 1).wr cxlBase F.CXL_LINK_STATE 2
def measuredUp : State := { up with boot := { BootRec.reset with meas := (List.range 7).map fun i => (i + 1, i) } }

/-- The premises of `Obligations.BringUp` are met, clause by clause. -/
theorem witness_bringUp :
    (∃ (_b : BootTest) (s : State), s.pins.pwrgd = true ∧ s.boot.step = 0 ∧ ((s.pins.noRef = true ∨ s.pins.hot = true))) ∧
    (∃ (b : BootTest) (s : State), s.pins.pwrgd = true ∧ s.boot.step = 0 ∧ s.pins.noRef = false ∧ s.pins.hot = false ∧ b.core0 = false) ∧
    (∃ (b : BootTest) (s : State), s.pins.pwrgd = true ∧ s.boot.step = 0 ∧ s.pins.noRef = false ∧ s.pins.hot = false ∧ b.core0 = true ∧ b.flash = true
      ∧ s.boot.prefer < 2 ∧ s.slotState 0 ≠ 1 ∧ s.slotState 1 ≠ 1) ∧
    (Config.imageOk [(0, [1])] = true → ∃ (b : BootTest) (s : State), s.pins.pwrgd = true ∧ s.boot.step = 0 ∧ s.pins.noRef = false ∧ s.pins.hot =
      false ∧ b.core0 = true ∧ b.flash = true ∧ s.boot.prefer < 2 ∧ s.slotState s.boot.prefer = 1 ∧ b.fails = [] ∧ b.cores = 0 ∧ b.dies = 0 ∧
      b.bridges = 0 ∧ b.stackBad = 0 ∧ s.boot.fuses = Repair.none ∧ s.boot.repair = Repair.none ∧ s.coresDown = 0 ∧ s.rd errBase F.ERR_LOGPTR_NEXT <
      1024) ∧
    (∃ (b : BootTest) (s : State), s.boot.step = 1 ∧ s.pins.hot = false ∧ b.core0 = true ∧ b.flash = false) ∧
    (∃ (b : BootTest) (s : State), s.boot.step = 1 ∧ s.pins.noRef = false ∧ b.core0 = true ∧ b.flash = false) ∧
    (∃ (s : State), s.rd secBase F.SEC_STATUS_BOOTSTATE = 1 ∧ s.rd pwrBase F.PWR_CLASS_RESULT ≠ 0 ∧ s.rd cxlBase F.CXL_LINK_STATE = 2 ∧ ((∀ n :
      Recept, s.receps[n].newly = false))) ∧
    (∃ (s : State), ((∀ i ∈ [1, 2, 3, 4, 5, 6, 7], ∃ e ∈ s.boot.meas, e.1 = i))) :=
  ⟨⟨good, State.reset.onPins fun q => { q with noRef := true }, by decide +kernel⟩,
   ⟨{ good with core0 := false }, State.reset, by decide +kernel⟩,
   ⟨good, slots ⟨[], false⟩ ⟨[(0, [1])], true⟩ State.reset, by decide +kernel⟩,
   fun h => ⟨good, slots oneImage ⟨[], false⟩ State.reset, by decide, by decide, by decide, by decide, by decide, by decide, by decide, slots_valid h,
     by decide⟩,
   ⟨{ good with flash := false }, atStep1 fun q => { q with noRef := true, therm := true }, by decide +kernel⟩,
   ⟨{ good with flash := false }, atStep1 fun q => { q with hot := true, therm := true }, by decide +kernel⟩,
   ⟨(stepSix.wr secBase F.SEC_RPTGEN_GEN 0xFFFFFFFF), by decide +kernel⟩,
   ⟨measuredUp, by decide +kernel⟩⟩

def staged : State := slots ⟨[], false⟩ ⟨[(0, [1])], true⟩ up
theorem staged_valid (h : Config.imageOk [(0, [1])] = true) : slotCheck (staged.slot staged.spareSlot) staged.boot.svn = 1 := by
  have e : staged.slot staged.spareSlot = ⟨[(0, [1])], true⟩ := by decide +kernel
  have z : staged.boot.svn = 0 := by decide +kernel
  rw [e, z]; simp [slotCheck]; exact h
def offered : State := { up with boot := { BootRec.reset with licBuf := [(0, 1)], lics := [(0, [9])] } }
def fullSessions : State := { up.setOn secBase F.SEC_STATUS_ALIAS_READY with boot := { BootRec.reset with sessions := [1, 2, 3, 4] } }

/-- The premises of `Obligations.SecurityCommands` are met, clause by clause. -/
theorem witness_securityCommands :
    (∃ (f : Func) (_chunk : BitVec 12) (s : State), f.val = 0 ∧ s.secReady = true ∧ s.boot.committing = false) ∧
    (Config.imageOk [(0, [1])] = true → ∃ (f : Func) (s : State), f.val = 0 ∧ s.secReady = true ∧ s.boot.committing = false ∧ slotCheck (s.slot
      s.spareSlot) s.boot.svn = 1) ∧
    (∃ (f : Func) (_fl : Bool) (s : State), f.val = 0 ∧ s.secReady = true ∧ s.boot.committing = false ∧ slotCheck (s.slot s.spareSlot) s.boot.svn ≠ 1) ∧
    (∃ (f : Func) (s : State), f.val = 0 ∧ s.secReady = true ∧ s.boot.committing = false) ∧
    (∃ (f : Func) (s : State), f.val = 0 ∧ s.secReady = true ∧ s.boot.committing = false) ∧
    (∃ (s : State), s.boot.committing = true) ∧
    (∃ (f : Func) (s : State), f.val = 0 ∧ s.secReady = true ∧ s.boot.committing = false) ∧
    (∃ (f : Func) (s : State), f.val = 0 ∧ s.secReady = true ∧ s.boot.committing = false) ∧
    (∃ (f : Func) (_chunk : BitVec 12) (_fl : Bool) (s : State), f.val = 0 ∧ s.ioOpen = true ∧ s.secReady = false) ∧
    (Config.licenceOk (readBytes [(0, 1)] 0 1024) = true → ∃ (f : Func) (s : State) (i : Nat), f.val = 0 ∧ s.secReady = true ∧ s.boot.committing =
      false ∧ licForm (readBytes s.boot.licBuf 0 1024) = true ∧ licField (readBytes s.boot.licBuf 0 1024) 4 8 = s.boot.serial ∧ Config.licenceOk
      (readBytes s.boot.licBuf 0 1024) = true ∧ ((List.range 16).find? fun i => (SMap.get [] s.boot.lics i).isEmpty) = some i) ∧
    (∃ (f : Func) (_fl : Bool) (s : State), f.val = 0 ∧ s.secReady = true ∧ s.boot.committing = false ∧ licForm (readBytes s.boot.licBuf 0 1024) =
      false) ∧
    (∃ (f : Func) (_fl : Bool) (s : State) (l : List Byte), f.val = 0 ∧ s.secReady = true ∧ s.boot.committing = false ∧ l = readBytes s.boot.licBuf 0
      1024 ∧ licForm l = true) ∧
    (∃ (f : Func) (_i : Fin 16) (_fl : Bool) (s : State), f.val = 0 ∧ s.ioOpen = true ∧ s.secReady = false) ∧
    (∃ (f : Func) (_chunk : BitVec 12) (s : State), f.val = 0 ∧ s.secReady = true ∧ s.boot.committing = false) ∧
    (∃ (f : Func) (i : Fin 16) (s : State), f.val = 0 ∧ s.secReady = true ∧ s.boot.committing = false ∧ SMap.get [] s.boot.lics i.val ≠ []) ∧
    (∃ (f : Func) (_i : Fin 16) (s : State), f.val = 0 ∧ s.secReady = true ∧ s.boot.committing = false) ∧
    (∃ (doe : Bool) (s : State), s.rd secBase F.SEC_STATUS_BOOTSTATE ≠ 0 ∧ (doe = true → s.doeOpen = true) ∧ s.on secBase F.SEC_STATUS_ALIAS_READY =
      true ∧ 4 ≤ s.boot.sessions.length) ∧
    (∃ (doe : Bool) (s : State) (n : Nat), s.rd secBase F.SEC_STATUS_BOOTSTATE ≠ 0 ∧ (doe = true → s.doeOpen = true) ∧ s.on secBase
      F.SEC_STATUS_ALIAS_READY = true ∧ s.boot.sessions.length < 4 ∧ s.boot.sessions.contains n = false) ∧
    (∃ (doe : Bool) (s : State), s.rd secBase F.SEC_STATUS_BOOTSTATE ≠ 0 ∧ (doe = true → s.doeOpen = true) ∧ s.on secBase F.SEC_STATUS_ALIAS_READY =
      false) ∧
    (∃ (f : Func) (_chunk : BitVec 12) (_i : Fin 16) (_fl : Bool) (s : State), f.val = 0 ∧ s.secReady = true ∧ s.boot.committing = true) :=
  ⟨⟨0, 0xFFF, { up with boot := { BootRec.reset with stage := [(4095, 7)] } }, by decide +kernel⟩,
   fun h => ⟨0, staged, by decide +kernel, by decide +kernel, by decide +kernel, staged_valid h⟩,
   ⟨0, true, up, by decide +kernel⟩,
   ⟨0, up, by decide +kernel⟩,
   ⟨0, up.wr secBase F.SEC_FWVER_SVN 64, by decide +kernel⟩,
   ⟨{ up.wr secBase F.SEC_FWVER_SVN 64 with boot := { BootRec.reset with committing := true } }, by decide +kernel⟩,
   ⟨0, up, by decide +kernel⟩,
   ⟨0, { up with boot := { BootRec.reset with repair := { Repair.none with cores := [3] } } }, by decide +kernel⟩,
   ⟨0, 0, false, State.reset, by decide +kernel⟩,
   fun h => ⟨0, offered, 1, by decide +kernel, by decide +kernel, by decide +kernel, by decide +kernel, by decide +kernel, h, by decide +kernel⟩,
   ⟨0, false, up, by decide +kernel⟩,
   ⟨0, false, { offered with boot := { offered.boot with serial := 5 } }, readBytes [(0, 1)] 0 1024, by decide +kernel⟩,
   ⟨0, 15, false, State.reset, by decide +kernel⟩,
   ⟨0, 0xFFF, up, by decide +kernel⟩,
   ⟨0, 15, { up with boot := { BootRec.reset with lics := [(15, [9])] } }, by decide +kernel⟩,
   ⟨0, 15, { up with boot := { BootRec.reset with lics := [(15, [9])] } }, by decide +kernel⟩,
   ⟨true, fullSessions, by decide +kernel⟩,
   ⟨true, { fullSessions with boot := BootRec.reset }, 7, by decide +kernel⟩,
   ⟨true, up, by decide +kernel⟩,
   ⟨0, 0xFFF, 15, false, { up with boot := { BootRec.reset with committing := true } }, by decide +kernel⟩⟩

def released : State := up.onPins fun q => { q with perst := false }
def message : ClassMsg := ⟨1, 5, 7, 9, [], []⟩
def settling : State := { (up.onPins fun q => { q with seen := 1, seenId := 5 }) with boot := { BootRec.reset with nonce := some 9, serial := 7 } }

/-- The premises of `Obligations.PowerEvents` are met, clause by clause. -/
theorem witness_powerEvents :
    (∃ (_st : Fin 4) (_id : Fin 64) (_h : Bool) (s : State), s.pins.pwrgd = false) ∧
    (∃ (s : State), s.pins.pwrgd = true ∧ s.pins.perst = false) ∧
    (∃ (mv : BitVec 16) (_s : State), mv.toNat < 46000) ∧
    (∃ (_pll : Option Die) (s : State), s.pins.pwrgd = true ∧ s.RegsCanonical) ∧
    (∃ (_r : Fin 33) (_mv : BitVec 16) (s : State), s.pins.pwrgd = true ∧ s.RegsCanonical) ∧
    (∃ (_d : Die) (_i : Fin 32) (tp : BitVec 8) (s : State), s.pins.pwrgd = true ∧ s.RegsCanonical ∧ ((110 ≤ tp.toNat ∨ (105 < tp.toNat ∧ s.rd pwrBase
      F.PWR_DUTY_DUTY = 15)))) ∧
    (∃ (_d : Die) (i : Fin 32) (tp : BitVec 8) (s : State), s.pins.pwrgd = true ∧ s.RegsCanonical ∧ 100 ≤ tp.toNat ∧ i.val < 20) ∧
    (∃ (_r : Fin 33) (s : State), s.booted = true) ∧
    (∃ (s : State) (e : Nat), s.gov.warnEnd = some e ∧ e ≤ s.us) ∧
    (∃ (_d : Demands) (_r : Readings) (s : State), s.booted = true) ∧
    (∃ (_w : BitVec 16) (s : State), s.booted = true) ∧
    (∃ (v : Fin 4) (s : State), s.pins.straps ≠ v.val) ∧
    (∃ (s : State), s.booted = true) ∧
    (Config.confirmOk 1 5 7 9 [] [] = true → Config.chassisPermits [] 1 = true → ∃ (m : ClassMsg) (s : State), s.booted = true ∧ s.rd pwrBase
      F.PWR_CLASS_RESULT = 0 ∧ s.classLate = false ∧ s.boot.nonce = some m.nonce ∧ m.serial = s.boot.serial ∧ m.modId = s.pins.seenId ∧ m.cls < 3 ∧
      Config.confirmOk m.cls m.modId m.serial m.nonce m.chain m.sig = true ∧ Config.chassisPermits m.chain m.cls = true ∧ m.cls = s.pins.seen) ∧
    (∃ (m : ClassMsg) (s : State), s.booted = true ∧ s.rd pwrBase F.PWR_CLASS_RESULT = 0 ∧ s.classLate = false ∧ s.boot.nonce ≠ some m.nonce) ∧
    (Config.confirmOk 1 5 7 9 [] [] = true → ∃ (m : ClassMsg) (s : State), s.booted = true ∧ s.rd pwrBase F.PWR_CLASS_RESULT = 0 ∧ s.classLate = false
      ∧ s.boot.nonce = some m.nonce ∧ m.serial = s.boot.serial ∧ m.modId = s.pins.seenId ∧ m.cls < 3 ∧ Config.confirmOk m.cls m.modId m.serial m.nonce
      m.chain m.sig = true) ∧
    (∃ (_m : ClassMsg) (s : State), s.booted = true ∧ ((s.rd pwrBase F.PWR_CLASS_RESULT ≠ 0 ∨ s.classLate = true))) ∧
    (∃ (s : State), s.booted = true ∧ s.rd pwrBase F.PWR_CLASS_RESULT = 0 ∧ s.classLate = true) :=
  ⟨⟨3, 63, true, (up.onPins fun q => { q with pwrgd := false }), by decide +kernel⟩,
   ⟨released, by decide +kernel⟩,
   ⟨45999, up, by decide +kernel⟩,
   ⟨some 3, up, by decide +kernel, by decide +kernel⟩,
   ⟨32, 900, up, by decide +kernel, by decide +kernel⟩,
   ⟨3, 31, 110, up, by decide +kernel, by decide +kernel, by decide +kernel⟩,
   ⟨0, 19, 100, up, by decide +kernel, by decide +kernel, by decide +kernel, by decide +kernel⟩,
   ⟨32, up, by decide +kernel⟩,
   ⟨{ up with gov := { up.gov with warnEnd := some 0, loop := (15, 3) } }, 0, by decide +kernel⟩,
   ⟨⟨3, 4, 15, 2⟩, ⟨100, 200, 54000, [60, 61, 62, 63], 70, 19, []⟩, up, by decide +kernel⟩,
   ⟨1501, { up with gov := { up.gov with full := true } }, by decide +kernel⟩,
   ⟨3, up, by decide +kernel⟩,
   ⟨up, by decide +kernel⟩,
   fun h hp => ⟨message, settling, by decide +kernel, by decide +kernel, by decide +kernel, by decide +kernel, by decide +kernel, by decide +kernel,
     by decide +kernel, h, hp, by decide +kernel⟩,
   ⟨{ message with nonce := 8 }, settling, by decide +kernel⟩,
   fun h => ⟨message, settling, by decide +kernel, by decide +kernel, by decide +kernel, by decide +kernel, by decide +kernel, by decide +kernel,
     by decide +kernel, h⟩,
   ⟨message, settling.wr pwrBase F.PWR_CLASS_RESULT 1, by decide +kernel⟩,
   ⟨{ up with ticks := 7520 * 220000 }, by decide +kernel⟩⟩

def domainOff : State := (up.wrBit pwrBase F.PWR_PDCTRL_CLUSTER_OFF 15 true).wrBit pwrBase F.PWR_PDSTAT_ON 15 false
def linksDown : State := (List.finRange 24).foldl (fun s p => s.wr (brdBase p) F.BRD_CTRL_ENABLE 0) up

/-- The premises of `Obligations.PowerDomains` are met, clause by clause. -/
theorem witness_powerDomains :
    (∃ (f : Func) (k : Cluster) (s : State), s.PF0Reaches f ∧ s.rdBit pwrBase F.PWR_PDCTRL_CLUSTER_OFF k.val = false ∧ s.offRefused k.val = false) ∧
    (∃ (f : Func) (k : Cluster) (s : State), s.PF0Reaches f ∧ s.rdBit pwrBase F.PWR_PDCTRL_CLUSTER_OFF k.val = false ∧ s.offRefused k.val = true) ∧
    (∃ (f : Func) (k : Cluster) (s : State), s.PF0Reaches f ∧ s.rdBit pwrBase F.PWR_PDCTRL_CLUSTER_OFF k.val = true) ∧
    (∃ (k : Cluster) (s : State), s.pins.ramping.contains k.val = true) ∧
    (∃ (x : Sys2Proof.Complex) (s : State), s.booted = true ∧ s.rdBit pwrBase F.PWR_PDSTAT_ON (16 + x.val) = true ∧ (((∀ p ∈ complexPorts x, s.on
      (brdBase p) F.BRD_CTRL_ENABLE = false) ∨ ∀ p ∈ complexPorts x, s.rd (brdBase p) F.BRD_STATUS_STATE ≠ 1 ∧ s.portUp p.val = false)) ∧ s.rd errBase
      F.ERR_LOGPTR_NEXT < 1024) ∧
    (∃ (x : Sys2Proof.Complex) (s : State), s.booted = true ∧ s.rdBit pwrBase F.PWR_PDSTAT_ON (16 + x.val) = false ∧ s.rdBit clkBase F.CLK_STATUS_LOCK
      (x.val / 2) = true ∧ ((∃ p ∈ complexPorts x, s.on (brdBase p) F.BRD_CTRL_ENABLE = true)) ∧ s.rd errBase F.ERR_LOGPTR_NEXT < 1024) :=
  ⟨⟨0, 15, up, by decide +kernel⟩,
   ⟨0, 0, run 0, by decide +kernel⟩,
   ⟨0, 15, domainOff, by decide +kernel⟩,
   ⟨15, (domainOff.onPins fun q => { q with ramping := [15] }), by decide +kernel⟩,
   ⟨7, linksDown, by decide +kernel⟩,
   ⟨7, ((linksDown.setOn (brdBase 23) F.BRD_CTRL_ENABLE).wrBit pwrBase F.PWR_PDSTAT_ON 23 false).wrBit clkBase F.CLK_STATUS_LOCK 3 true,
     by decide +kernel⟩⟩

/-- The premises of `Obligations.GoCopiesSeed` are met, clause by clause. -/
theorem witness_goCopiesSeed :
    (∃ (f : Func) (c : PCore) (s : State), s.Reaches f c ∧ s.inReset c = false ∧ (s.core c).fillEnd = none ∧ s.underTest c = false ∧ ((s.seqState c =
      0 ∨ s.seqState c = 2 ∨ s.seqState c = 3))) ∧
    (∃ (f : Func) (p : Part) (v : BitVec 64) (s : State), s.hostReady = true ∧ s.doorOk f p = true ∧ s.exist p.val = true ∧ s.partInReset p.val =
      false ∧ bits v.toNat 12 16 = 0 ∧ v.toNat.testBit 28 = true ∧ s.testsPending p.val = false) ∧
    (∃ (f : Func) (_p : Part) (_v : Word64) (s : State), s.PF0Reaches f) :=
  ⟨⟨0, 1, up, by decide +kernel⟩,
   ⟨0, 0, 0x10000000, up, by decide +kernel⟩,
   ⟨0, 15, 0xFFFFFFFFFFFFFFFF, up, by decide +kernel⟩⟩

def endOfReset : State := ((up.wrBit rstBase F.RST_CORESTAT_INRESET 1 true).onCore 1 fun r => { r with resetEnd := some 0 })

/-- The premises of `Obligations.CoreResetKeeps` are met, clause by clause. -/
theorem witness_coreResetKeeps :
    (∃ (f : Func) (_c : PCore) (s : State), s.PF0Reaches f) ∧
    (∃ (c : PCore) (s : State) (e : Nat), (s.core c).resetEnd = some e ∧ e ≤ s.cycle ∧ s.resetting c = true ∧ ((∀ i : Eng, (s.eng c i).issued = [])) ∧
      s.localHeld c = false ∧ (s.core c).wantFill = false) :=
  ⟨⟨0, 1, run 0, by decide +kernel⟩,
   ⟨1, endOfReset, 0, by decide +kernel, by decide +kernel, by decide +kernel, by decide +kernel, by decide +kernel, by decide +kernel⟩⟩

/-- The premises of `Obligations.StepKeepsInvariant` are met. -/
theorem witness_stepKeepsInvariant :
    ∃ s t : State, s.Inv ∧ step s = .next t :=
  ⟨{ State.reset with pending := [.strapChange 3] }, nx (.strapChange 3) State.reset, by decide +kernel, rfl⟩

end Sys2Proof.Tests
end

section
/-!
SUPPORT. A list of fields of one page written in turn, and from it what an entry of the illegal-instruction log holds and what skipping an
instruction leaves (R142, R145, R175).
-/
namespace Sys2Proof.Machine

/-! ### Fields of one page written in turn -/

/-- Write fields of the page at `b` in turn: each entry is a field, its number among the equal fields of a block, and the value. -/
def State.wrAll (s : State) (b : Nat) (l : List (Fld × Nat × Nat)) : State := l.foldl (fun s e => s.wr b e.1 e.2.2 e.2.1) s

@[simp] theorem State.cores_wrAll (s : State) (b : Nat) (l : List (Fld × Nat × Nat)) : (s.wrAll b l).cores = s.cores :=
  foldl_keeps State.cores _ (by intro t e; rfl) l s

@[simp] theorem State.mem_wrAll (s : State) (b : Nat) (l : List (Fld × Nat × Nat)) : (s.wrAll b l).mem = s.mem :=
  foldl_keeps State.mem _ (by intro t e; rfl) l s

@[simp] theorem State.net_wrAll (s : State) (b : Nat) (l : List (Fld × Nat × Nat)) : (s.wrAll b l).net = s.net :=
  foldl_keeps State.net _ (by intro t e; rfl) l s

/-- A field at none of the bit addresses written keeps its value. -/
theorem State.rd_wrAll_ne {b b' : Nat} {f' : Fld} {i' : Nat} (l : List (Fld × Nat × Nat)) :
    ∀ s : State, (∀ e ∈ l, fkey b' f' i' ≠ fkey b e.1 e.2.1) → (s.wrAll b l).rd b' f' i' = s.rd b' f' i' := by
  induction l with
  | nil => intro s _; rfl
  | cons e l ih =>
    intro s h
    exact (ih _ fun e' he' => h e' (List.mem_cons_of_mem _ he')).trans (State.rd_wr_ne _ _ (h e List.mem_cons_self))

/-- Where no two entries write one bit address, a field reads as its entry's value. -/
theorem State.rd_wrAll_mem {b : Nat} {f : Fld} {i v : Nat} (l : List (Fld × Nat × Nat)) :
    ∀ s : State, (l.Pairwise fun e e' => fkey b e.1 e.2.1 ≠ fkey b e'.1 e'.2.1) → (f, i, v) ∈ l →
      (s.wrAll b l).rd b f i = v % 2 ^ f.w := by
  induction l with
  | nil => intro s _ h; cases h
  | cons e l ih =>
    intro s hp h
    obtain ⟨hne, hp⟩ := List.pairwise_cons.mp hp
    rcases List.mem_cons.mp h with rfl | h
    · exact (State.rd_wrAll_ne l _ hne).trans (State.rd_wr_same _ _ _ _ _)
    · exact ih _ hp h

/-! ### An entry of the illegal-instruction log -/

/-- The fields of a core's sequencer that the log entry of a skipped instruction writes (R142, R145): the count goes from `n` to one more, the
entry is number `k`. -/
def skipWrites (n k unit : Nat) (w : IWord) (ia reason : Nat) : List (Fld × Nat × Nat) :=
  [(F.SEQ_ILLCNT_COUNT, 0, satAdd 32 n 1), (F.SEQ_ILLOG_WORD_LO, k, fieldOf w 0 64), (F.SEQ_ILLOG_WORD_HI, k, fieldOf w 64 64),
   (F.SEQ_ILLOG_IADDR, k, ia), (F.SEQ_ILLOG_REASON, k, reason), (F.SEQ_ILLOG_UNIT, k, unit), (F.SEQ_ILLOG_SEQNO, k, satAdd 32 n 1)] ++
  (if k = 31 then [(F.SEQ_ILLPTR_WRAPPED, 0, 1)] else []) ++ [(F.SEQ_ILLPTR_NEXT, 0, k + 1), (F.SEQ_ERR_ILLEGAL, 0, 1)]

theorem satAdd_mod (w a b : Nat) : satAdd w a b % 2 ^ w = satAdd w a b :=
  Nat.mod_eq_of_lt (Nat.lt_of_le_of_lt (Nat.min_le_right _ _) (Nat.sub_lt (Nat.two_pow_pos w) Nat.one_pos))

/-- Logging a skipped instruction writes the fields of `skipWrites`. -/
theorem State.logSkip_eq (s : State) (c : PCore) (unit : Nat) (w : IWord) (ia reason : Nat) :
    s.logSkip c unit w ia reason = s.wrAll (coreBase c)
      (skipWrites (s.rd (coreBase c) F.SEQ_ILLCNT_COUNT) (s.rd (coreBase c) F.SEQ_ILLPTR_NEXT) unit w ia reason) := by
  unfold State.logSkip
  extract_lets b k s₁ s₂ s₃ s₄ s₅ s₆ s₇ s₈ s₉
  have hn : s₆.rd b F.SEQ_ILLCNT_COUNT = satAdd 32 (s.rd b F.SEQ_ILLCNT_COUNT) 1 := by
    have apart (t : State) (f : Fld) (v : Nat) (h : 0x400 ≤ f.off) : (t.wr b f v k).rd b F.SEQ_ILLCNT_COUNT = t.rd b F.SEQ_ILLCNT_COUNT :=
      State.rd_wr_ne _ _ (by simp only [fkey, F.SEQ_ILLCNT_COUNT]; omega)
    calc s₆.rd b F.SEQ_ILLCNT_COUNT = s₁.rd b F.SEQ_ILLCNT_COUNT := by
          simp only [s₆, s₅, s₄, s₃, s₂]
          rw [apart _ _ _ (by decide), apart _ _ _ (by decide), apart _ _ _ (by decide), apart _ _ _ (by decide), apart _ _ _ (by decide)]
      _ = satAdd 32 (s.rd b F.SEQ_ILLCNT_COUNT) 1 := (State.rd_wr_same _ _ _ _ _).trans (satAdd_mod _ _ _)
  have h₇ : s₇ = s₆.wr b F.SEQ_ILLOG_SEQNO (satAdd 32 (s.rd b F.SEQ_ILLCNT_COUNT) 1) k := by rw [← hn]
  simp only [s₉, s₈, h₇, skipWrites]
  split
  · rfl
  · rfl

/-- The fields that one log entry writes lie apart. -/
theorem skipWrites_pairwise (b n k unit : Nat) (w : IWord) (ia reason : Nat) :
    (skipWrites n k unit w ia reason).Pairwise fun e e' => fkey b e.1 e.2.1 ≠ fkey b e'.1 e'.2.1 := by
  unfold skipWrites
  split <;>
    simp [fkey, F.SEQ_ILLCNT_COUNT, F.SEQ_ILLOG_WORD_LO, F.SEQ_ILLOG_WORD_HI, F.SEQ_ILLOG_IADDR, F.SEQ_ILLOG_REASON, F.SEQ_ILLOG_UNIT,
      F.SEQ_ILLOG_SEQNO, F.SEQ_ILLPTR_WRAPPED, F.SEQ_ILLPTR_NEXT, F.SEQ_ERR_ILLEGAL] <;>
    omega

/-- What a field that the log entry writes reads as afterwards. -/
theorem State.rd_logSkip (s : State) {c : PCore} {unit : Nat} {w : IWord} {ia reason : Nat} {f : Fld} {i v : Nat}
    (h : (f, i, v) ∈ skipWrites (s.rd (coreBase c) F.SEQ_ILLCNT_COUNT) (s.rd (coreBase c) F.SEQ_ILLPTR_NEXT) unit w ia reason) :
    (s.logSkip c unit w ia reason).rd (coreBase c) f i = v % 2 ^ f.w := by
  rw [State.logSkip_eq]
  exact State.rd_wrAll_mem _ _ (skipWrites_pairwise _ _ _ _ _ _ _) h

/-- A bit address outside a core's illegal-instruction log, its count and position, and the error bits. -/
abbrev OffSkipLog (b key : Nat) : Prop := key < (b + 0x38) * 8 ∨ ((b + 0x80) * 8 ≤ key ∧ key < (b + 0x400) * 8) ∨ (b + 0x800) * 8 ≤ key

theorem skipWrites_off {b key n k unit : Nat} {w : IWord} {ia reason : Nat} (hk : k < 32) (h : OffSkipLog b key) :
    ∀ e ∈ skipWrites n k unit w ia reason, key ≠ fkey b e.1 e.2.1 := by
  unfold OffSkipLog at h
  unfold skipWrites
  split <;>
    simp [fkey, F.SEQ_ILLCNT_COUNT, F.SEQ_ILLOG_WORD_LO, F.SEQ_ILLOG_WORD_HI, F.SEQ_ILLOG_IADDR, F.SEQ_ILLOG_REASON, F.SEQ_ILLOG_UNIT,
      F.SEQ_ILLOG_SEQNO, F.SEQ_ILLPTR_WRAPPED, F.SEQ_ILLPTR_NEXT, F.SEQ_ERR_ILLEGAL] <;>
    omega

/-- The log entry leaves every field outside the log, its count and position, and the error bits. -/
theorem State.rd_logSkip_ne (s : State) {c : PCore} {unit : Nat} {w : IWord} {ia reason b : Nat} {f : Fld} {i : Nat}
    (hk : s.rd (coreBase c) F.SEQ_ILLPTR_NEXT < 32) (h : OffSkipLog (coreBase c) (fkey b f i)) :
    (s.logSkip c unit w ia reason).rd b f i = s.rd b f i := by
  rw [State.logSkip_eq]
  exact State.rd_wrAll_ne _ _ (skipWrites_off hk h)

@[simp] theorem State.cores_logSkip (s : State) (c : PCore) (unit : Nat) (w : IWord) (ia reason : Nat) :
    (s.logSkip c unit w ia reason).cores = s.cores := by rw [State.logSkip_eq, State.cores_wrAll]

@[simp] theorem State.net_logSkip (s : State) (c : PCore) (unit : Nat) (w : IWord) (ia reason : Nat) :
    (s.logSkip c unit w ia reason).net = s.net := by rw [State.logSkip_eq, State.net_wrAll]

@[simp] theorem State.mem_logSkip (s : State) (c : PCore) (unit : Nat) (w : IWord) (ia reason : Nat) :
    (s.logSkip c unit w ia reason).mem = s.mem := by rw [State.logSkip_eq, State.mem_wrAll]

/-! ### Going on after a fetch -/

/-- Counting a fetch leaves every field but the count. -/
theorem State.rd_countFetch_ne (s : State) {c : PCore} {b : Nat} {f : Fld} {i : Nat} (h : fkey b f i ≠ fkey (coreBase c) F.SEQ_FETCH_COUNT 0) :
    (s.countFetch c).rd b f i = s.rd b f i := State.rd_wr_ne _ _ h

/-- Going to the next index leaves every field but the program counter and the reason for blocking. -/
theorem State.rd_advance_ne (s : State) {c : PCore} {n b : Nat} {f : Fld} {i : Nat} (hpc : fkey b f i ≠ fkey (coreBase c) F.SEQ_STATUS_PC 0)
    (hblock : fkey b f i ≠ fkey (coreBase c) F.SEQ_STATUS_BLOCK 0) : (s.advance c n).rd b f i = s.rd b f i := by
  have block : (s.wr (coreBase c) F.SEQ_STATUS_BLOCK 0).rd b f i = s.rd b f i := State.rd_wr_ne _ _ hblock
  unfold State.advance
  dsimp only
  rw [State.rd_onCore]
  split
  · exact block
  · exact (State.rd_wr_ne _ _ hpc).trans block

/-- There is no next index after the bank's last (R132). -/
theorem State.pc_advance_last (s : State) (c : PCore) (n : Nat) (h : s.pc c = 8191) : (s.advance c n).pc c = 8191 := by
  have e : (s.wr (coreBase c) F.SEQ_STATUS_BLOCK 0).pc c = 8191 :=
    (State.rd_wr_ne _ _ (by simp only [fkey, F.SEQ_STATUS_PC, F.SEQ_STATUS_BLOCK]; omega)).trans h
  unfold State.advance
  dsimp only
  rw [if_pos (decide_eq_true e)]
  exact e

@[simp] theorem State.net_advance (s : State) (c : PCore) (n : Nat) : (s.advance c n).net = s.net := by
  unfold State.advance; dsimp only; split <;> rfl

/-! ### A skipped instruction -/

/-- The state after the sequencer of `c` has gone past the word `w` for `reason` and logged it, strict mode aside. -/
def State.passed (s : State) (c : PCore) (w : IWord) (reason : Nat) : State :=
  ((s.countFetch c).advance c 1).logSkip c 0 w (s.iaddr c) reason

/-- A bit address outside the fields that passing an instruction writes: the program counter, the reason for blocking, the fetch count, and those
of the log entry. -/
abbrev OffPass (b key : Nat) : Prop :=
  key < (b + 0x10) * 8 + 4 ∨ ((b + 0x80) * 8 ≤ key ∧ key < (b + 0x400) * 8) ∨ (b + 0x800) * 8 ≤ key

/-- Counting the fetch and going on leaves the log's count and position, and every field that passing an instruction does not write. -/
theorem State.rd_fetched_ne (s : State) {c : PCore} {b : Nat} {f : Fld} {i : Nat}
    (h : OffPass (coreBase c) (fkey b f i) ∨ ((coreBase c + 0x38) * 8 ≤ fkey b f i ∧ fkey b f i < (coreBase c + 0x58) * 8)) :
    ((s.countFetch c).advance c 1).rd b f i = s.rd b f i := by
  unfold OffPass at h
  refine (State.rd_advance_ne _ ?_ ?_).trans (State.rd_countFetch_ne _ ?_)
  · rw [show fkey (coreBase c) F.SEQ_STATUS_PC 0 = (coreBase c + 0x10) * 8 + 4 + 0 * 0 from rfl]; omega
  · rw [show fkey (coreBase c) F.SEQ_STATUS_BLOCK 0 = (coreBase c + 0x10) * 8 + 17 + 0 * 0 from rfl]; omega
  · rw [show fkey (coreBase c) F.SEQ_FETCH_COUNT 0 = (coreBase c + 0x58) * 8 + 0 + 0 * 0 from rfl]; omega

theorem State.illCount_fetched (s : State) (c : PCore) :
    ((s.countFetch c).advance c 1).rd (coreBase c) F.SEQ_ILLCNT_COUNT = s.rd (coreBase c) F.SEQ_ILLCNT_COUNT :=
  State.rd_fetched_ne s (by simp only [fkey, F.SEQ_ILLCNT_COUNT]; omega)

theorem State.illNext_fetched (s : State) (c : PCore) :
    ((s.countFetch c).advance c 1).rd (coreBase c) F.SEQ_ILLPTR_NEXT = s.rd (coreBase c) F.SEQ_ILLPTR_NEXT :=
  State.rd_fetched_ne s (by simp only [fkey, F.SEQ_ILLPTR_NEXT]; omega)

/-- An instruction that is passed leaves every other field. -/
theorem State.rd_passed_ne (s : State) {c : PCore} {w : IWord} {reason b : Nat} {f : Fld} {i : Nat}
    (hk : s.rd (coreBase c) F.SEQ_ILLPTR_NEXT < 32) (h : OffPass (coreBase c) (fkey b f i)) :
    (s.passed c w reason).rd b f i = s.rd b f i :=
  (State.rd_logSkip_ne _ (by rw [State.illNext_fetched]; exact hk) (by unfold OffPass at h; unfold OffSkipLog; omega)).trans
    (State.rd_fetched_ne s (.inl h))

/-- What a field of the log entry reads as when the instruction has been passed. -/
theorem State.rd_passed (s : State) {c : PCore} {w : IWord} {reason : Nat} {f : Fld} {i v : Nat}
    (h : (f, i, v) ∈ skipWrites (s.rd (coreBase c) F.SEQ_ILLCNT_COUNT) (s.rd (coreBase c) F.SEQ_ILLPTR_NEXT) 0 w (s.iaddr c) reason) :
    (s.passed c w reason).rd (coreBase c) f i = v % 2 ^ f.w :=
  State.rd_logSkip _ (by rw [State.illCount_fetched, State.illNext_fetched]; exact h)

/-- The sequencer goes on at the next index, but at the bank's last. -/
theorem State.pc_passed (s : State) {c : PCore} {w : IWord} {reason : Nat} (hk : s.rd (coreBase c) F.SEQ_ILLPTR_NEXT < 32) (hp : s.pc c < 8192) :
    (s.passed c w reason).pc c = if s.pc c = 8191 then 8191 else s.pc c + 1 := by
  have fetch : (s.countFetch c).pc c = s.pc c :=
    State.rd_countFetch_ne _ (by simp only [fkey, F.SEQ_STATUS_PC, F.SEQ_FETCH_COUNT]; omega)
  have log : (s.passed c w reason).pc c = ((s.countFetch c).advance c 1).pc c :=
    State.rd_logSkip_ne _ (by rw [State.illNext_fetched]; exact hk) (by simp only [OffSkipLog, fkey, F.SEQ_STATUS_PC]; omega)
  rw [log, ← fetch]
  split
  next h => exact State.pc_advance_last _ c 1 h
  next h => exact State.pc_advance _ c 1 (by omega)

theorem State.core_passed_ne (s : State) {c d : PCore} {w : IWord} {reason : Nat} (h : d ≠ c) : (s.passed c w reason).core d = s.core d := by
  unfold State.passed State.core
  rw [State.cores_logSkip]
  exact (State.core_advance_ne _ 1 h).trans (State.core_countFetch s c d)

/-- Of its own core, passing an instruction changes when the next may be taken and whether the bank's end has been passed. -/
theorem State.core_passed (s : State) (c : PCore) (w : IWord) (reason : Nat) :
    ∃ r p, (s.passed c w reason).core c = { s.core c with readyAt := r, pastEnd := p } := by
  unfold State.passed State.core
  rw [State.cores_logSkip]
  exact State.core_advance (s.countFetch c) c 1

@[simp] theorem State.mem_passed (s : State) (c : PCore) (w : IWord) (reason : Nat) : (s.passed c w reason).mem = s.mem := by
  unfold State.passed; rw [State.mem_logSkip, State.mem_advance]; rfl

@[simp] theorem State.net_passed (s : State) (c : PCore) (w : IWord) (reason : Nat) : (s.passed c w reason).net = s.net := by
  unfold State.passed; rw [State.net_logSkip, State.net_advance]; rfl

/-- An instruction that is passed is skipped as R142, R145 and R175 say. -/
theorem State.skipped_passed (s : State) {c : PCore} {w : IWord} {reason : Nat} (hr : reason < 256) (hp : s.pc c < 8192)
    (hk : s.rd (coreBase c) F.SEQ_ILLPTR_NEXT < 32) : Skipped s (s.passed c w reason) c w reason := by
  have entry (f : Fld) (i v : Nat) (h : (f, i, v) ∈ skipWrites (s.rd (coreBase c) F.SEQ_ILLCNT_COUNT) (s.rd (coreBase c) F.SEQ_ILLPTR_NEXT) 0 w
      (s.iaddr c) reason) : (s.passed c w reason).rd (coreBase c) f i = v % 2 ^ f.w := s.rd_passed h
  have count : (s.passed c w reason).rd (coreBase c) F.SEQ_ILLCNT_COUNT = satAdd 32 (s.rd (coreBase c) F.SEQ_ILLCNT_COUNT) 1 :=
    (entry F.SEQ_ILLCNT_COUNT 0 (satAdd 32 _ 1) (by simp [skipWrites])).trans (satAdd_mod _ _ _)
  obtain ⟨r, p, hcore⟩ := s.core_passed c w reason
  refine ⟨s.pc_passed hk hp, count, entry F.SEQ_ILLPTR_NEXT 0 _ (by simp [skipWrites]), ?wordLo, ?wordHi,
    entry F.SEQ_ILLOG_IADDR _ (s.iaddr c) (by simp [skipWrites]), ?reason, entry F.SEQ_ILLOG_UNIT _ 0 (by simp [skipWrites]), ?seqno,
    entry F.SEQ_ERR_ILLEGAL 0 1 (by simp [skipWrites]), ?scalars, ?flags, fun d hd => s.core_passed_ne hd,
    by rw [hcore], by rw [hcore], by rw [hcore], by rw [hcore], by simp, by simp⟩
  case wordLo => exact (entry F.SEQ_ILLOG_WORD_LO _ (fieldOf w 0 64) (by simp [skipWrites])).trans (Nat.mod_mod _ _)
  case wordHi => exact (entry F.SEQ_ILLOG_WORD_HI _ (fieldOf w 64 64) (by simp [skipWrites])).trans (Nat.mod_mod _ _)
  case reason => exact (entry F.SEQ_ILLOG_REASON _ reason (by simp [skipWrites])).trans (Nat.mod_eq_of_lt hr)
  case seqno =>
    rw [count]
    exact (entry F.SEQ_ILLOG_SEQNO _ (satAdd 32 _ 1) (by simp [skipWrites])).trans (satAdd_mod _ _ _)
  case scalars =>
    intro k hk'
    unfold State.x
    rw [s.rd_passed_ne hk (by simp only [OffPass, fkey, F.SEQ_X_VALUE]; omega)]
  case flags =>
    intro k hk'
    exact s.rd_passed_ne hk (by simp only [OffPass, fkey, F.SEQ_FLAG_VALUE]; omega)

/-- Which cores a partition's task has depends on the owners and the sequencers' states alone. -/
theorem State.taskCores_congr {s t : State} (hp : ∀ d, t.partOf d = s.partOf d) (hs : ∀ d, t.seqState d = s.seqState d) (p : Nat) :
    t.taskCores p = s.taskCores p := by
  unfold State.taskCores; simp only [hp, hs]

theorem State.seqState_passed (s : State) {c : PCore} {w : IWord} {reason : Nat} (hk : s.rd (coreBase c) F.SEQ_ILLPTR_NEXT < 32) (d : PCore) :
    (s.passed c w reason).seqState d = s.seqState d :=
  s.rd_passed_ne hk (by simp only [OffPass, fkey, F.SEQ_STATUS_STATE, coreBase]; omega)

theorem State.partOf_passed (s : State) {c : PCore} {w : IWord} {reason : Nat} (hk : s.rd (coreBase c) F.SEQ_ILLPTR_NEXT < 32) (d : PCore) :
    (s.passed c w reason).partOf d = s.partOf d :=
  s.rd_passed_ne hk (by simp only [OffPass, fkey, F.PRT_MAP_OWNER, coreBase, prtBase]; omega)

theorem State.strict_passed (s : State) {c : PCore} {w : IWord} {reason : Nat} (hk : s.rd (coreBase c) F.SEQ_ILLPTR_NEXT < 32) :
    (s.passed c w reason).on (coreBase c) F.SEQ_CTRL_STRICT = s.on (coreBase c) F.SEQ_CTRL_STRICT := by
  unfold State.on
  rw [s.rd_passed_ne hk (by simp only [OffPass, fkey, F.SEQ_CTRL_STRICT]; omega)]

end Sys2Proof.Machine
end

section
/-!
SUPPORT. What stopping a core's units leaves of every core's sequencer page and queues, and from it what an abort of a task leaves its
cores in (R144).
-/
namespace Sys2Proof.Machine

/-! ### Folds -/

/-- A fold over a list of steps that keep `g` on its members keeps `g`. -/
theorem foldl_keeps_mem {α β γ : Type} (g : β → γ) (f : β → α → β) (l : List α) (h : ∀ b, ∀ a ∈ l, g (f b a) = g b) :
    ∀ b, g (l.foldl f b) = g b := by
  induction l with
  | nil => intro b; rfl
  | cons a l ih =>
    intro b
    exact (ih (fun b x hx => h b x (List.mem_cons_of_mem _ hx)) (f b a)).trans (h b a List.mem_cons_self)

/-- A fold whose step sets up `p a` at `a`, and keeps it elsewhere, sets it up for every member of the list. -/
theorem foldl_sets {α β : Type} (p : α → β → Prop) (f : β → α → β) (sets : ∀ b a, p a (f b a)) (keeps : ∀ b a a', p a b → p a (f b a'))
    (l : List α) : ∀ b, ∀ a ∈ l, p a (l.foldl f b) := by
  induction l with
  | nil => intro b a h; cases h
  | cons x l ih =>
    intro b a h
    rcases List.mem_cons.mp h with rfl | h
    · exact foldl_holds (p a) f (fun b a' hb => keeps b a a' hb) l _ (sets b a)
    · exact ih _ a h

/-! ### The sequencer's page and the queues of one core -/

/-- The registers of a core's sequencer page, by bit offset, and its queues. -/
def State.seqPart (s : State) (c : PCore) : (Fin 0x80000 → Nat) × Vector (List QItem) 8 :=
  (fun o => SMap.get 0 s.regs (coreBase c * 8 + o), (s.core c).queues)

/-- A bit address outside the sequencer page of core `c`. -/
abbrev OffSeq (c : PCore) (key : Nat) : Prop := key < coreBase c * 8 ∨ (coreBase c + 0x10000) * 8 ≤ key

@[simp] theorem State.seqPart_net (s : State) (n : NetRec) (c : PCore) : ({ s with net := n } : State).seqPart c = s.seqPart c := rfl

/-- A write outside the page leaves it. -/
theorem State.seqPart_wr (s : State) {c : PCore} {b : Nat} {f : Fld} (v : Nat) {i : Nat} (h : OffSeq c (fkey b f i)) :
    (s.wr b f v i).seqPart c = s.seqPart c := by
  refine Prod.ext (funext fun o => ?_) rfl
  have ho := o.isLt
  unfold OffSeq at h
  exact SMap.get_set_ne 0 s.regs _ (by omega)

/-- A change of a core that keeps its queues. -/
theorem State.seqPart_onCore (s : State) (c d : PCore) (f : CoreRec → CoreRec) (h : ∀ r, (f r).queues = r.queues) :
    (s.onCore d f).seqPart c = s.seqPart c := by
  refine Prod.ext rfl ?_
  show ((s.onCore d f).core c).queues = (s.core c).queues
  by_cases e : c = d
  · subst e; rw [State.core_onCore]; exact h _
  · rw [State.core_onCore_ne _ _ e]

/-- Two changes of a core that leave the same queues leave the same. -/
theorem State.seqPart_onCore_congr (s : State) (c d : PCore) {f g : CoreRec → CoreRec} (h : ∀ r, (f r).queues = (g r).queues) :
    (s.onCore d f).seqPart c = (s.onCore d g).seqPart c := by
  refine Prod.ext rfl ?_
  show ((s.onCore d f).core c).queues = ((s.onCore d g).core c).queues
  by_cases e : c = d
  · subst e; rw [State.core_onCore, State.core_onCore]; exact h _
  · rw [State.core_onCore_ne _ _ e, State.core_onCore_ne _ _ e]

/-- A change of another core. -/
theorem State.seqPart_onCore_ne (s : State) {c d : PCore} (f : CoreRec → CoreRec) (h : c ≠ d) : (s.onCore d f).seqPart c = s.seqPart c :=
  Prod.ext rfl (congrArg CoreRec.queues (State.core_onCore_ne s f h))

/-- A field of the page reads alike where the pages are equal. -/
theorem State.rd_of_seqPart {s t : State} {c : PCore} (h : t.seqPart c = s.seqPart c) {f : Fld} {i : Nat}
    (hf : f.off * 8 + f.lo + i * f.step < 0x80000) :
    t.rd (coreBase c) f i = s.rd (coreBase c) f i := by
  have get := congrFun (congrArg Prod.fst h) ⟨_, hf⟩
  unfold State.rd
  rw [show fkey (coreBase c) f i = coreBase c * 8 + (f.off * 8 + f.lo + i * f.step) by unfold fkey; omega]
  exact congrArg (· ^^^ f.rst) get

theorem State.queuesEmpty_of_seqPart {s t : State} {c : PCore} (h : t.seqPart c = s.seqPart c) : t.queuesEmpty c = s.queuesEmpty c := by
  unfold State.queuesEmpty; rw [show (t.core c).queues = (s.core c).queues from congrArg Prod.snd h]

/-! ### Pages outside it -/

/-- The pages of a core's units lie behind every sequencer page that they do not lie before. -/
theorem offSeq_unit (c d : PCore) {b : Nat} {f : Fld} {i : Nat} (hb : coreBase d + 0x10000 ≤ b)
    (hf : fkey b f i < (coreBase d + 0x100000) * 8) : OffSeq c (fkey b f i) := by
  unfold OffSeq
  have : b * 8 ≤ fkey b f i := by unfold fkey; omega
  unfold coreBase at *
  omega

/-- The sequencer pages of two cores lie apart. -/
theorem offSeq_core {c d : PCore} (h : c ≠ d) {f : Fld} {i : Nat} (hf : f.off * 8 + f.lo + i * f.step < 0x80000) :
    OffSeq c (fkey (coreBase d) f i) := by
  have : c.val ≠ d.val := fun e => h (Fin.ext e)
  unfold OffSeq fkey coreBase
  omega

/-- The module's pages lie behind those of the cores. -/
theorem offSeq_module (c : PCore) {b : Nat} (f : Fld) (i : Nat) (hb : 0xA00010000000 ≤ b) : OffSeq c (fkey b f i) := by
  unfold OffSeq fkey coreBase
  omega

/-- A write in one of the module's pages leaves every core's sequencer page. -/
theorem State.seqPart_wr_module (s : State) (c : PCore) {b : Nat} (f : Fld) (v i : Nat) (hb : 0xA00010000000 ≤ b) :
    (s.wr b f v i).seqPart c = s.seqPart c := s.seqPart_wr v (offSeq_module c f i hb)

@[simp] theorem State.seqPart_wr_err (s : State) (c : PCore) (f : Fld) (v i : Nat) : (s.wr errBase f v i).seqPart c = s.seqPart c :=
  s.seqPart_wr_module c f v i (by decide)

@[simp] theorem State.seqPart_wr_cxl (s : State) (c : PCore) (f : Fld) (v i : Nat) : (s.wr cxlBase f v i).seqPart c = s.seqPart c :=
  s.seqPart_wr_module c f v i (by decide)

@[simp] theorem State.seqPart_wr_db (s : State) (c : PCore) (p : Part) (f : Fld) (v i : Nat) : (s.wr (dbBase p) f v i).seqPart c = s.seqPart c :=
  s.seqPart_wr_module c f v i (by unfold dbBase; omega)

/-- A write in the pages of a core's units. -/
theorem State.seqPart_wr_unit (s : State) (c d : PCore) {b : Nat} {f : Fld} {v i : Nat} (hb : coreBase d + 0x10000 ≤ b)
    (hb' : b ≤ coreBase d + 0x50000) (hf : f.off * 8 + f.lo + i * f.step < 0x100000) : (s.wr b f v i).seqPart c = s.seqPart c :=
  s.seqPart_wr v (offSeq_unit c d hb (by unfold fkey; omega))

theorem State.seqPart_wr_spd (s : State) (c d : PCore) {f : Fld} {v i : Nat} (hf : f.off * 8 + f.lo + i * f.step < 0x100000) :
    (s.wr (spdBase d) f v i).seqPart c = s.seqPart c := s.seqPart_wr_unit c d (by unfold spdBase; omega) (by unfold spdBase; omega) hf

theorem State.seqPart_wr_bobc (s : State) (c d : PCore) {f : Fld} {v i : Nat} (hf : f.off * 8 + f.lo + i * f.step < 0x100000) :
    (s.wr (bobcBase d) f v i).seqPart c = s.seqPart c := s.seqPart_wr_unit c d (by unfold bobcBase; omega) (by unfold bobcBase; omega) hf

theorem State.seqPart_wr_bob (s : State) (c d : PCore) (k : Bob) {f : Fld} {v i : Nat} (hf : f.off * 8 + f.lo + i * f.step < 0x100000) :
    (s.wr (bobBase d k) f v i).seqPart c = s.seqPart c := s.seqPart_wr_unit c d (by unfold bobBase; omega) (by unfold bobBase; omega) hf

theorem State.seqPart_wr_ope (s : State) (c d : PCore) (e : Eng) {f : Fld} {v i : Nat} (hf : f.off * 8 + f.lo + i * f.step < 0x100000) :
    (s.wr (opeBase d e) f v i).seqPart c = s.seqPart c := s.seqPart_wr_unit c d (by unfold opeBase; omega) (by unfold opeBase; omega) hf

theorem State.seqPart_wr_acc (s : State) (c d : PCore) (e : Eng) {f : Fld} {v i : Nat} (hf : f.off * 8 + f.lo + i * f.step < 0x100000) :
    (s.wr (accBase d e) f v i).seqPart c = s.seqPart c := s.seqPart_wr_unit c d (by unfold accBase; omega) (by unfold accBase; omega) hf

theorem State.seqPart_wr_drn (s : State) (c d : PCore) (e : Eng) {f : Fld} {v i : Nat} (hf : f.off * 8 + f.lo + i * f.step < 0x100000) :
    (s.wr (drnBase d e) f v i).seqPart c = s.seqPart c := s.seqPart_wr_unit c d (by unfold drnBase; omega) (by unfold drnBase; omega) hf

/-! ### Reports and records -/

@[simp] theorem State.seqPart_msix (s : State) (c : PCore) (f : Func) (v : Nat) : (s.msix f v).seqPart c = s.seqPart c := by
  unfold State.msix; dsimp only; split <;> (try split) <;> rfl

@[simp] theorem State.seqPart_errCount (s : State) (c : PCore) (k : Nat) : (s.errCount k).seqPart c = s.seqPart c := by
  unfold State.errCount State.sat
  split
  · dsimp only
    rw [apply_ite (State.seqPart · c)]
    simp
  · simp
  · simp
  · rfl

@[simp] theorem State.seqPart_logWrite (s : State) (c : PCore) (r : ErrRec) : (s.logWrite r).seqPart c = s.seqPart c := by
  unfold State.logWrite State.setOn
  dsimp only
  rw [apply_ite (State.seqPart · c), State.seqPart_wr_err, State.seqPart_wr_err, State.seqPart_wr_err, ite_self]
  exact foldl_keeps (State.seqPart · c) _ (fun b i => by simp) _ s

@[simp] theorem State.seqPart_errLog (s : State) (c : PCore) (r : ErrRec) : (s.errLog r).seqPart c = s.seqPart c := by
  unfold State.errLog State.setOn
  dsimp only
  split
  · simp only [State.seqPart_wr_err]
    exact (State.seqPart_errCount (s.logWrite r) c r.cls).trans (State.seqPart_logWrite s c r)
  · simp

@[simp] theorem State.seqPart_cqVector (s : State) (c : PCore) (p : Part) : (s.cqVector p).seqPart c = s.seqPart c := by
  unfold State.cqVector
  split
  · rfl
  · dsimp only; split <;> simp

@[simp] theorem State.seqPart_cqWrite (s : State) (c : PCore) (p : Part) (r : CqRec) : (s.cqWrite p r).seqPart c = s.seqPart c := by
  unfold State.cqWrite
  dsimp only
  generalize s.translate _ _ = o
  cases o with
  | none => simp [State.setOn]
  | some x => dsimp only; rw [State.seqPart_cqVector, State.seqPart_wr_db]; rfl

@[simp] theorem State.seqPart_cqPost (s : State) (c : PCore) (p k l v d : Nat) : (s.cqPost p k l v d).seqPart c = s.seqPart c := by
  unfold State.cqPost State.sat
  dsimp only
  split
  · split
    · rfl
    · split
      · simp
      · split
        · rw [State.seqPart_wr_db]; rfl
        · rw [State.seqPart_wr_db]; rfl
  · rfl

@[simp] theorem State.seqPart_abortReport (s : State) (c : PCore) (p : Nat) : (s.abortReport p).seqPart c = s.seqPart c := by
  unfold State.abortReport
  split
  · split
    · split
      · rw [State.seqPart_cqPost]; rfl
      · rfl
    · rfl
  · rfl

@[simp] theorem State.seqPart_quarBegin (s : State) (c d : PCore) : (s.quarBegin d).seqPart c = s.seqPart c := by
  unfold State.quarBegin State.sat
  extract_lets due n
  split
  · rfl
  · rw [State.seqPart_wr_err]; rfl

/-! ### Windows, rings and units that stop -/

@[simp] theorem State.seqPart_creditRefuse (s : State) (c o : PCore) (m k : Nat) : (s.creditRefuse o m k).seqPart c = s.seqPart c := by
  unfold State.creditRefuse State.sat State.setOn
  dsimp only
  split
  · generalize State.physOf _ k = q
    cases q with
    | none => exact State.seqPart_wr_spd _ _ _ (by decide)
    | some r =>
      dsimp only
      rw [State.seqPart_wr_spd _ _ _ (by decide), State.seqPart_wr_spd _ _ _ (by decide), State.seqPart_wr_spd _ _ _ (by decide)]
  · exact State.seqPart_wr_spd _ _ _ (by decide)

theorem State.seqPart_closeWindow (s : State) (c d : PCore) {w : Nat} (hw : w < 16) : (s.closeWindow d w).seqPart c = s.seqPart c := by
  unfold State.closeWindow State.wrBit State.count
  dsimp only
  split
  · rfl
  · rw [foldl_keeps (State.seqPart · c) _ (fun b q => by simp), State.seqPart_wr_spd _ _ _ (by decide)]
    refine (State.seqPart_onCore _ _ _ _ (by intro r; rfl)).trans ?_
    have pool (t : State) (v : Nat) : (t.wr (spdBase d) F.SPD_WIN_B_POOL v w).seqPart c = t.seqPart c :=
      State.seqPart_wr_spd _ _ _ (by simp only [F.SPD_WIN_B_POOL]; omega)
    have gen (t : State) (v : Nat) : (t.wr (spdBase d) F.SPD_WIN_B_GEN v w).seqPart c = t.seqPart c :=
      State.seqPart_wr_spd _ _ _ (by simp only [F.SPD_WIN_B_GEN]; omega)
    split
    · rw [State.seqPart_wr_spd _ _ _ (by decide), pool, gen, State.seqPart_wr_spd _ _ _ (by decide)]
    · rw [pool, gen, State.seqPart_wr_spd _ _ _ (by decide)]

@[simp] theorem State.seqPart_closeWindows (s : State) (c d : PCore) : (s.closeWindows d).seqPart c = s.seqPart c :=
  foldl_keeps_mem (State.seqPart · c) _ _ (fun b _ hw => State.seqPart_closeWindow b c d (List.mem_range.mp hw)) s

@[simp] theorem State.seqPart_disableRings (s : State) (c d : PCore) : (s.disableRings d).seqPart c = s.seqPart c := by
  unfold State.disableRings
  refine (State.seqPart_onCore _ _ _ _ (by intro r; rfl)).trans (foldl_keeps_mem (State.seqPart · c) _ _ (fun b r hr => ?_) s)
  have hr := List.mem_range.mp hr
  have page (t : State) (f : Fld) (v : Nat) (hf : f.off * 8 + f.lo < 0x10000) (hs : f.step ≤ 128) :
      (t.wr (bobcBase d) f v r).seqPart c = t.seqPart c :=
    State.seqPart_wr_bobc _ _ _ (by have := Nat.mul_le_mul (Nat.le_of_lt hr) hs; omega)
  rw [page _ _ _ (by decide) (by decide), page _ _ _ (by decide) (by decide), page _ _ _ (by decide) (by decide),
    page _ _ _ (by decide) (by decide)]

@[simp] theorem State.seqPart_stopEngine (s : State) (c d : PCore) (e : Eng) : (s.stopEngine d e).seqPart c = s.seqPart c := by
  unfold State.stopEngine
  dsimp only
  refine (State.seqPart_onCore _ _ _ _ (by intro r; rfl)).trans ?_
  split
  · rfl
  · rw [State.seqPart_wr_ope _ _ _ _ (by decide), apply_ite (State.seqPart · c), State.seqPart_wr_ope _ _ _ _ (by decide), ite_self]

@[simp] theorem State.seqPart_stopDrain (s : State) (c d : PCore) (e : Eng) : (s.stopDrain d e).seqPart c = s.seqPart c := by
  unfold State.stopDrain State.setOn State.wrBit
  dsimp only
  refine (State.seqPart_onCore _ _ _ _ (by intro r; rfl)).trans ?_
  rw [State.seqPart_wr_drn _ _ _ _ (by decide), foldl_keeps (State.seqPart · c) _ (fun b t => State.seqPart_wr_acc _ _ _ _ (by decide)),
    apply_ite (State.seqPart · c), State.seqPart_wr_drn _ _ _ _ (by decide), ite_self]

@[simp] theorem State.seqPart_stopBobbin (s : State) (c d : PCore) (b : Bob) : (s.stopBobbin d b).seqPart c = s.seqPart c := by
  unfold State.stopBobbin
  refine (State.seqPart_onCore _ _ _ _ (by intro r; rfl)).trans ?_
  rw [State.seqPart_wr_bob _ _ _ _ (by decide), State.seqPart_wr_bob _ _ _ _ (by decide), State.seqPart_wr_bob _ _ _ _ (by decide)]

/-! ### A core of a task that aborts -/

/-- Of a core that stops, the sequencer's page shows state 4 and no reason for blocking, and its queues are empty; every other core keeps both. -/
theorem State.seqPart_abortUnits (s : State) (c d : PCore) :
    (s.abortUnits d).seqPart c = (((s.wr (coreBase d) F.SEQ_STATUS_STATE 4).wr (coreBase d) F.SEQ_STATUS_BLOCK 0).onCore d fun r =>
      { r with queues := Vector.replicate 8 [] }).seqPart c := by
  unfold State.abortUnits
  dsimp only
  rw [State.seqPart_quarBegin, State.seqPart_disableRings, State.seqPart_closeWindows, foldl_keeps (State.seqPart · c) _ (fun b k => by simp),
    foldl_keeps (State.seqPart · c) _ (fun b k => by simp), State.seqPart_net]
  exact State.seqPart_onCore_congr _ c d (by intro r; rfl)

theorem State.seqPart_wr_core_ne (s : State) {c d : PCore} (h : c ≠ d) {f : Fld} {v i : Nat} (hf : f.off * 8 + f.lo + i * f.step < 0x80000) :
    (s.wr (coreBase d) f v i).seqPart c = s.seqPart c := s.seqPart_wr v (offSeq_core h hf)

theorem State.seqPart_abortUnits_ne (s : State) {c d : PCore} (h : c ≠ d) : (s.abortUnits d).seqPart c = s.seqPart c := by
  rw [State.seqPart_abortUnits, State.seqPart_onCore_ne _ _ h, State.seqPart_wr_core_ne _ h (by decide), State.seqPart_wr_core_ne _ h (by decide)]

/-- What a core records of its waits stands in its own pages. -/
theorem State.seqPart_recordWaits_ne (s : State) {c d : PCore} (h : c ≠ d) : (s.recordWaits d).seqPart c = s.seqPart c := by
  have who (t : State) (w : Waiter) : (if w.unit < 9 then t.wr (coreBase d) F.SEQ_ABORTFLAG_WHO w.num w.unit else t).seqPart c = t.seqPart c := by
    split
    · exact State.seqPart_wr_core_ne _ h (by simp only [F.SEQ_ABORTFLAG_WHO]; omega)
    · rfl
  have addr (t : State) (v : Nat) : (t.wr (coreBase d) F.SEQ_ABORT_IADDR v).seqPart c = t.seqPart c :=
    State.seqPart_wr_core_ne _ h (by decide)
  have waits : ∀ (t : State) (ws : List Waiter) (m k l : Nat),
      (((ws.foldl (fun s w => if w.unit < 9 then s.wr (coreBase d) F.SEQ_ABORTFLAG_WHO w.num w.unit else s)
        (t.wr (coreBase d) F.SEQ_ABORT_QMASK m)).wr (spdBase d) F.SPD_ABORTKIND_KIND k).wr (bobcBase d) F.BOB_ABORTKIND_KIND l).seqPart c =
      t.seqPart c := fun t ws m k l => by
    rw [State.seqPart_wr_bobc _ _ _ (by decide), State.seqPart_wr_spd _ _ _ (by decide), foldl_keeps (State.seqPart · c) _ (fun b w => who b w),
      State.seqPart_wr_core_ne _ h (by decide)]
  unfold State.recordWaits
  dsimp only
  split
  · split
    · exact (addr _ _).trans (waits _ _ _ _ _)
    · exact waits _ _ _ _ _
  · exact (addr _ _).trans (waits _ _ _ _ _)

theorem State.seqPart_abortRecord_ne (s : State) (cause : Nat) (who : Option (PCore × Nat)) {c d : PCore} (h : c ≠ d) :
    (s.abortRecord cause who d).seqPart c = s.seqPart c := by
  have caused : ((s.recordWaits d).wr (coreBase d) F.SEQ_ABORT_CAUSE cause).seqPart c = s.seqPart c :=
    (State.seqPart_wr_core_ne _ h (by decide)).trans (s.seqPart_recordWaits_ne h)
  unfold State.abortRecord
  cases who with
  | none => exact caused
  | some k =>
    dsimp only
    split
    · exact (State.seqPart_wr_core_ne _ h (by decide)).trans caused
    · exact caused

/-- The cause that a core records. -/
theorem State.cause_abortRecord (s : State) {cause : Nat} (who : Option (PCore × Nat)) (c : PCore) (h : cause < 16) :
    (s.abortRecord cause who c).rd (coreBase c) F.SEQ_ABORT_CAUSE = cause := by
  have caused (t : State) : (t.wr (coreBase c) F.SEQ_ABORT_CAUSE cause).rd (coreBase c) F.SEQ_ABORT_CAUSE = cause :=
    (State.rd_wr_same _ _ _ _ _).trans (Nat.mod_eq_of_lt h)
  unfold State.abortRecord
  cases who with
  | none => exact caused _
  | some k =>
    dsimp only
    split
    · exact (State.rd_wr_ne _ _ (by simp only [fkey, F.SEQ_ABORT_CAUSE, F.SEQ_ABORT_IADDR]; omega)).trans (caused _)
    · exact caused _

/-- A core as an abort with `cause` leaves it (R144). -/
def State.AbortedBy (s : State) (cause : Nat) (c : PCore) : Prop :=
  s.seqState c = 4 ∧ s.rd (coreBase c) F.SEQ_ABORT_CAUSE = cause ∧ s.queuesEmpty c = true

/-- It is a matter of the sequencer's page and the queues alone. -/
theorem State.AbortedBy.congr {s t : State} {cause : Nat} {c : PCore} (hs : s.AbortedBy cause c) (h : t.seqPart c = s.seqPart c) :
    t.AbortedBy cause c := by
  obtain ⟨state, caused, empty⟩ := hs
  exact ⟨(State.rd_of_seqPart h (by decide)).trans state, (State.rd_of_seqPart h (by decide)).trans caused,
    (State.queuesEmpty_of_seqPart h).trans empty⟩

/-- A core that stops is in state 4 with its queues empty, and keeps the cause recorded. -/
theorem State.abortedBy_abortUnits (s : State) (c : PCore) : (s.abortUnits c).AbortedBy (s.rd (coreBase c) F.SEQ_ABORT_CAUSE) c := by
  have stateBlock : fkey (coreBase c) F.SEQ_STATUS_STATE 0 ≠ fkey (coreBase c) F.SEQ_STATUS_BLOCK 0 := by
    simp only [fkey, F.SEQ_STATUS_STATE, F.SEQ_STATUS_BLOCK]; omega
  have causeBlock : fkey (coreBase c) F.SEQ_ABORT_CAUSE 0 ≠ fkey (coreBase c) F.SEQ_STATUS_BLOCK 0 := by
    simp only [fkey, F.SEQ_ABORT_CAUSE, F.SEQ_STATUS_BLOCK]; omega
  have causeState : fkey (coreBase c) F.SEQ_ABORT_CAUSE 0 ≠ fkey (coreBase c) F.SEQ_STATUS_STATE 0 := by
    simp only [fkey, F.SEQ_ABORT_CAUSE, F.SEQ_STATUS_STATE]; omega
  refine State.AbortedBy.congr ⟨?_, ?_, ?_⟩ (s.seqPart_abortUnits c c)
  · rw [State.seqState, State.rd_onCore, State.rd_wr_ne _ _ stateBlock, State.rd_wr_same]; rfl
  · rw [State.rd_onCore, State.rd_wr_ne _ _ causeBlock, State.rd_wr_ne _ _ causeState]
  · unfold State.queuesEmpty; rw [State.core_onCore]; rfl

theorem State.abortedBy_abortCore (s : State) {cause : Nat} (who : Option (PCore × Nat)) (c : PCore) (h : cause < 16) :
    (s.abortCore cause who c).AbortedBy cause c := by
  have stopped := (s.abortRecord cause who c).abortedBy_abortUnits c
  rwa [State.cause_abortRecord s who c h] at stopped

/-- A core that has stopped stays so while the others stop. -/
theorem State.AbortedBy.abortCore {s : State} {cause : Nat} {c : PCore} (hs : s.AbortedBy cause c) (who : Option (PCore × Nat)) (d : PCore)
    (h : cause < 16) : (s.abortCore cause who d).AbortedBy cause c := by
  by_cases e : c = d
  · subst e; exact s.abortedBy_abortCore who c h
  · exact hs.congr ((State.seqPart_abortUnits_ne _ e).trans (s.seqPart_abortRecord_ne cause who e))

/-! ### The task -/

/-- An abort of a partition's task with `cause` leaves it as R144 says. -/
theorem State.taskAborted_abortTask (s : State) (p : Nat) {cause : Nat} (who : Option (PCore × Nat)) (post : Bool) (h : cause < 16) :
    TaskAborted s (s.abortTask p cause who post) p cause := by
  intro k hk running c hc
  have live : ((s.taskCores p).any fun c => decide (s.seqState c = 1) || decide (s.seqState c = 2)) = true :=
    List.any_eq_true.mpr ⟨k, hk, by simpa using running⟩
  have stopped := foldl_sets (fun c (t : State) => t.AbortedBy cause c) (fun t d => t.abortCore cause who d)
    (fun t d => t.abortedBy_abortCore who d h) (fun t c d ht => ht.abortCore who d h) (s.taskCores p) s c hc
  refine stopped.congr ?_
  unfold State.abortTask
  dsimp only
  rw [if_neg (by simp [live]), State.seqPart_abortReport, State.seqPart_msix, State.seqPart_errLog]
  split
  · rfl
  · rfl

end Sys2Proof.Machine
end

section
/-!
SUPPORT. Illegal instructions: which instructions the sequencer skips, and that a skip logs and goes on, or aborts the task in strict mode
(R132, R142, R143).
-/
namespace Sys2Proof.Machine

/-! ### Skips of the sequencer -/

/-- Skipping is passing the instruction, and aborting the task in strict mode (R142, R143). -/
theorem State.skip_eq_passed (s : State) (c : PCore) (w : IWord) (reason : Nat) :
    ((s.countFetch c).advance c 1).skip c 0 w (s.iaddr c) reason =
      if (s.passed c w reason).on (coreBase c) F.SEQ_CTRL_STRICT then
        (s.passed c w reason).abortTask ((s.passed c w reason).partOf c) 3 (some (c, s.iaddr c))
      else s.passed c w reason := rfl

/-- Outside strict mode a skipped instruction is only logged. -/
theorem State.skipped_skip (s : State) {c : PCore} {w : IWord} {reason : Nat} (hr : reason < 256)
    (hs : s.on (coreBase c) F.SEQ_CTRL_STRICT = false) (hp : s.pc c < 8192) (hk : s.rd (coreBase c) F.SEQ_ILLPTR_NEXT < 32) :
    Skipped s (((s.countFetch c).advance c 1).skip c 0 w (s.iaddr c) reason) c w reason := by
  rw [State.skip_eq_passed, State.strict_passed s hk, hs]
  exact s.skipped_passed hr hp hk

/-- In strict mode a skipped instruction aborts its task with cause 3. -/
theorem State.taskAborted_skip (s : State) {c : PCore} {w : IWord} {reason : Nat}
    (hs : s.on (coreBase c) F.SEQ_CTRL_STRICT = true) (hk : s.rd (coreBase c) F.SEQ_ILLPTR_NEXT < 32) :
    TaskAborted s (((s.countFetch c).advance c 1).skip c 0 w (s.iaddr c) reason) (s.partOf c) 3 := by
  have aborted := (s.passed c w reason).taskAborted_abortTask (s.partOf c) (some (c, s.iaddr c)) true (show 3 < 16 by decide)
  rw [State.skip_eq_passed, State.strict_passed s hk, hs, if_pos rfl, s.partOf_passed hk]
  have cores := State.taskCores_congr (s.partOf_passed (w := w) (reason := reason) hk) (s.seqState_passed hk) (s.partOf c)
  intro k hmem running
  rw [← s.seqState_passed (w := w) (reason := reason) hk k] at running
  rw [← cores] at hmem ⊢
  exact aborted k hmem running

/-- An instruction that fails a check at fetch is skipped, whatever it would do. -/
theorem State.execSeq_skip {s : State} {c : PCore} {op : Nat} {w : IWord} (hready : s.seqReady c = true) (hw : s.fetch c = w)
    (hop : opcodeOf w = op) (hclass : classOf w = 0) (hcheck : fetchCheck w ≠ 0) (run : State → IWord → State) (held : IWord → Bool) :
    s.execSeq c op run held = ((s.countFetch c).advance c 1).skip c 0 w (s.iaddr c) (fetchCheck w) := by
  subst hw
  unfold State.execSeq
  dsimp only
  rw [if_neg (by simp [hready, hop, hclass]), if_pos hcheck]

/-- Every command of the S family executes its opcode through `execSeq`. -/
theorem exec_seqOps {c : PCore} {e : Instr × Nat} (h : e ∈ seqOps c) :
    ∃ run : State → IWord → State, ∀ s, exec e.1 s = .next (s.execSeq c e.2 run) := by
  simp only [seqOps, scalarOps, List.map_cons, List.map_nil, List.cons_append, List.nil_append, List.mem_cons, List.not_mem_nil, or_false] at h
  rcases h with rfl | rfl | rfl | rfl | rfl | rfl | rfl | rfl | rfl | rfl | rfl | rfl | rfl | rfl | rfl | rfl | rfl | rfl | rfl | rfl | rfl | rfl |
    rfl | rfl <;> exact ⟨_, fun _ => rfl⟩

/-! ### The checks at fetch -/

/-- The reasons of the checks at fetch are at most 0x11. -/
theorem fetchCheck_lt (w : IWord) : fetchCheck w < 256 := by
  unfold fetchCheck
  dsimp only
  repeat' split
  all_goals decide

/-- A branch, JAL or SWAPI whose target is above 8,191 fails the checks at fetch. -/
theorem fetchCheck_ne_zero_of_target {w : IWord} (hop : opcodeOf w = 0x0E ∨ opcodeOf w = 0x0F ∨ opcodeOf w = 0x16)
    (ht : 8191 < (immOf w).toNat) : fetchCheck w ≠ 0 := by
  have himm : fieldOf w 0 64 > 8191 := Nat.lt_of_lt_of_le ht (by rw [immOf, BitVec.toNat_ofNat]; exact Nat.mod_le _ _)
  unfold fetchCheck
  dsimp only
  rw [if_pos (⟨hop, himm⟩ : (opcodeOf w = 0x0E ∨ opcodeOf w = 0x0F ∨ opcodeOf w = 0x16) ∧ fieldOf w 0 64 > 8191)]
  repeat' split
  all_goals decide

/-! ### The instructions that are skipped as they run -/

theorem State.iaddr_countFetch (s : State) (c : PCore) : (s.countFetch c).iaddr c = s.iaddr c := by
  unfold State.iaddr State.bank State.pc
  rw [s.rd_countFetch_ne (by simp only [fkey, F.SEQ_STATUS_ACTIVE_BANK, F.SEQ_FETCH_COUNT]; omega),
    s.rd_countFetch_ne (by simp only [fkey, F.SEQ_STATUS_PC, F.SEQ_FETCH_COUNT]; omega)]

@[simp] theorem State.rs1_countFetch (s : State) (c : PCore) (w : IWord) : (s.countFetch c).rs1 c w = s.x c (rs1Of w) := s.x_countFetch c _

/-- JR to a target above 8,191 is skipped with reason 0x0F. -/
theorem exec_jr_skip {s : State} {c : PCore} {w : IWord} (h : s.Executes c 0x10 w) (ht : 8191 < (s.x c (rs1Of w)).toNat) :
    exec (.jr c) s = .next (((s.countFetch c).advance c 1).skip c 0 w (s.iaddr c) 0x0F) := by
  refine congrArg Host.Outcome.next ((State.execSeq_run h _).trans ?_)
  dsimp only
  rw [State.rs1_countFetch, if_pos ht, State.iaddr_countFetch]

/-- LD and ST at an offset that is misaligned or beyond the scratchpad are skipped with reason 0x13. -/
theorem exec_ldst_skip {s : State} {c : PCore} {w : IWord} {e : Instr × Nat} (he : e ∈ [(Instr.ld c, 0x11), (.st c, 0x12)])
    (h : s.Executes c e.2 w) (ha : dwordOk (s.x c (rs1Of w) + immOf w).toNat = false) :
    exec e.1 s = .next (((s.countFetch c).advance c 1).skip c 0 w (s.iaddr c) 0x13) := by
  simp only [List.mem_cons, List.not_mem_nil, or_false] at he
  rcases he with rfl | rfl <;>
  · refine congrArg Host.Outcome.next ((State.execSeq_run h _).trans ?_)
    dsimp only
    rw [State.rs1_countFetch, ha, if_pos (by decide), State.iaddr_countFetch]

/-- A fetch past the bank's last index aborts the task with cause 6 (R132). -/
theorem exec_fetchPastBankEnd_aborts {s : State} {c : PCore} (hstate : s.seqState c = 1) (hend : (s.core c).pastEnd = true)
    (hready : (s.core c).readyAt ≤ s.cycle) : ∃ t, exec (.fetchPastBankEnd c) s = .next t ∧ TaskAborted s t (s.partOf c) 6 :=
  ⟨_, congrArg Host.Outcome.next (if_pos ⟨hstate, hend, hready⟩), s.taskAborted_abortTask _ _ _ (by decide)⟩

/-- Settles O7: `execSeq_skip`, `exec_jr_skip` and `exec_ldst_skip` say which instructions are skipped; `skipped_skip` and `taskAborted_skip` say
what a skip leaves outside strict mode and in it. -/
theorem illegalIsSkipped : Obligations.IllegalIsSkipped := by
  unfold Obligations.IllegalIsSkipped
  refine ⟨fun w => fetchCheck_ne_zero_of_target, ?skipped, ?jr, fun c s => exec_fetchPastBankEnd_aborts, ?misaligned, ?strict⟩
  case skipped =>
    intro c s w e he hready hw hop hclass hcheck hs hp hk
    obtain ⟨run, hrun⟩ := exec_seqOps he
    exact ⟨_, (hrun s).trans (congrArg _ (State.execSeq_skip hready hw hop hclass hcheck run _)), s.skipped_skip (fetchCheck_lt w) hs hp hk⟩
  case jr =>
    intro c s w h ht hs hp hk
    exact ⟨_, exec_jr_skip h ht, s.skipped_skip (by decide) hs hp hk⟩
  case misaligned =>
    intro c s w e he h ha hs hp hk
    exact ⟨_, exec_ldst_skip he h ha, s.skipped_skip (by decide) hs hp hk⟩
  case strict =>
    intro c s w e he hready hw hop hclass hcheck hs hk
    obtain ⟨run, hrun⟩ := exec_seqOps he
    exact ⟨_, (hrun s).trans (congrArg _ (State.execSeq_skip hready hw hop hclass hcheck run _)), s.taskAborted_skip hs hk⟩

end Sys2Proof.Machine
end

section
/-!
SUPPORT. The seed of a partition and of its cores: what GO changes and leaves, of one core and of the cores that a doorbell starts, and what a
host write of `MSE_SEEDp` does (R123, R283, R351).
-/
namespace Sys2Proof.Machine

/-! ### Accesses that are answered -/

/-- An access of a function that reaches the core is done. -/
theorem State.asCore_of_reaches {s : State} {f : Func} {c : PCore} (h : s.Reaches f c) (kind : AccKind) (addr : Nat) (k : State → State) :
    s.asCore f c kind addr k = k s := by
  obtain ⟨ready, auth, answers⟩ := h
  simp [State.asCore, ready, auth, answers]

/-- An access of PF0 to a module-level block is done. -/
theorem State.asPF0_of_reaches {s : State} {f : Func} (h : s.PF0Reaches f) (addr : Nat) (k : State → State) : s.asPF0 f addr k = k s := by
  obtain ⟨ready, pf0⟩ := h
  simp [State.asPF0, ready, pf0]

/-! ### The seeds -/

/-- The seed of the partition that owns a core (R285). -/
def State.partSeed (s : State) (c : PCore) : Nat := s.rd mmemBase F.MSE_SEED_SEED (s.partOf c)

/-- A write in a core's slot leaves every partition's seed and every owner. -/
theorem State.partSeed_wr_core (s : State) (c d : PCore) (f : Fld) (v : Nat) (hf : f.off * 8 + f.lo < 0x800000) :
    (s.wr (coreBase d) f v).partSeed c = s.partSeed c := by
  have apart {b : Nat} (g : Fld) (j : Nat) (hb : 0xA00010000000 ≤ b) : (s.wr (coreBase d) f v).rd b g j = s.rd b g j :=
    State.rd_wr_ne _ _ (by unfold fkey coreBase; omega)
  unfold State.partSeed State.partOf
  rw [apart _ _ (by decide), apart _ _ (by decide)]

/-! ### GO of one core -/

/-- GO takes effect at a core: it is in no core reset and not zero-filled, and its sequencer is in state 0, 2 or 3 (R123). -/
def State.TakesGo (s : State) (c : PCore) : Prop :=
  s.inReset c = false ∧ (s.core c).fillEnd = none ∧ (s.seqState c = 0 ∨ s.seqState c = 2 ∨ s.seqState c = 3)

/-- The fields of a core's sequencer that a GO writes (R123, R283). -/
def goWrites (pc bank seed : Nat) : List (Fld × Nat × Nat) :=
  [(F.SEQ_STATUS_PC, 0, pc), (F.SEQ_STATUS_ACTIVE_BANK, 0, bank), (F.SEQ_STATUS_STATE, 0, 1), (F.SEQ_STATUS_BLOCK, 0, 0),
    (F.SEQ_RNGSEED_SEED, 0, seed)]

/-- The fields that one GO writes lie apart. -/
theorem goWrites_pairwise (b pc bank seed : Nat) :
    (goWrites pc bank seed).Pairwise fun e e' => fkey b e.1 e.2.1 ≠ fkey b e'.1 e'.2.1 := by
  simp [goWrites, fkey, F.SEQ_STATUS_PC, F.SEQ_STATUS_ACTIVE_BANK, F.SEQ_STATUS_STATE, F.SEQ_STATUS_BLOCK, F.SEQ_RNGSEED_SEED]
  omega

/-- They lie in the sequencer's page. -/
theorem goWrites_seq {pc bank seed : Nat} : ∀ e ∈ goWrites pc bank seed, e.1.off * 8 + e.1.lo + e.2.1 * e.1.step < 0x80000 := by
  simp [goWrites, F.SEQ_STATUS_PC, F.SEQ_STATUS_ACTIVE_BANK, F.SEQ_STATUS_STATE, F.SEQ_STATUS_BLOCK, F.SEQ_RNGSEED_SEED]

/-- The test that `State.go` makes. -/
theorem State.not_takesGo_iff (s : State) (c : PCore) : ¬s.TakesGo c ↔
    s.inReset c ∨ (s.core c).fillEnd.isSome ∨ ¬(s.seqState c = 0 ∨ s.seqState c = 2 ∨ s.seqState c = 3) := by
  unfold State.TakesGo
  rw [Classical.not_and_iff_not_or_not, Classical.not_and_iff_not_or_not, Bool.not_eq_false, ← ne_eq, ← Option.isSome_iff_ne_none]

/-- A GO that is discarded changes nothing. -/
theorem State.go_discarded {s : State} {c : PCore} (h : ¬s.TakesGo c) : s.go c = s := if_pos ((s.not_takesGo_iff c).mp h)

/-- A GO that takes effect writes the fields of `goWrites`, and no other. -/
theorem State.regs_go {s : State} {c : PCore} (h : s.TakesGo c) :
    (s.go c).regs = (s.wrAll (coreBase c)
      (goWrites (s.rd (coreBase c) F.SEQ_START_PC) (s.rd (coreBase c) F.SEQ_START_BANK) (s.partSeed c))).regs := by
  unfold State.go
  extract_lets st b s₁ s₂ s₃ s₄ s₅
  have bank : s₁.rd b F.SEQ_START_BANK = s.rd b F.SEQ_START_BANK :=
    State.rd_wr_ne _ _ (by simp only [fkey, F.SEQ_START_BANK, F.SEQ_STATUS_PC]; omega)
  have seed : s₃.partSeed c = s.partSeed c :=
    calc s₃.partSeed c
      _ = (s₂.wr b F.SEQ_STATUS_STATE 1).partSeed c := State.partSeed_wr_core _ c c F.SEQ_STATUS_BLOCK _ (by decide)
      _ = s₂.partSeed c := State.partSeed_wr_core _ c c F.SEQ_STATUS_STATE _ (by decide)
      _ = s₁.partSeed c := State.partSeed_wr_core _ c c F.SEQ_STATUS_ACTIVE_BANK _ (by decide)
      _ = s.partSeed c := State.partSeed_wr_core _ c c F.SEQ_STATUS_PC _ (by decide)
  rw [if_neg fun hs => (s.not_takesGo_iff c).mpr hs h, ← bank, ← seed]
  rfl

/-- What a field that a GO writes reads as afterwards. -/
theorem State.rd_go {s : State} {c : PCore} (h : s.TakesGo c) {f : Fld} {v : Nat}
    (hf : (f, 0, v) ∈ goWrites (s.rd (coreBase c) F.SEQ_START_PC) (s.rd (coreBase c) F.SEQ_START_BANK) (s.partSeed c)) :
    (s.go c).rd (coreBase c) f = v % 2 ^ f.w := by
  unfold State.rd
  rw [State.regs_go h]
  exact State.rd_wrAll_mem _ s (goWrites_pairwise _ _ _ _) hf

/-- A GO that takes effect copies the partition's seed (R283). -/
theorem State.rngSeed_go {s : State} {c : PCore} (h : s.TakesGo c) :
    (s.go c).rd (coreBase c) F.SEQ_RNGSEED_SEED = s.partSeed c % 2 ^ 64 := State.rd_go h (by simp [goWrites])

/-- GO of a core leaves every field outside its sequencer page. -/
theorem State.rd_go_ne (s : State) {d : PCore} {b : Nat} {f : Fld} {i : Nat} (h : OffSeq d (fkey b f i)) : (s.go d).rd b f i = s.rd b f i := by
  by_cases takes : s.TakesGo d
  · unfold State.rd
    rw [State.regs_go takes]
    refine State.rd_wrAll_ne _ s fun e he => ?_
    have inPage := goWrites_seq e he
    unfold OffSeq at h
    unfold fkey at h ⊢
    omega
  · rw [State.go_discarded takes]

/-- What a GO in cycle `n` changes of its core's record: fetching begins in the next cycle (R123). -/
def goRecord (n : Nat) (r : CoreRec) : CoreRec := { r with goCycle := n, readyAt := n + 1, pastEnd := false }

/-- A GO that takes effect changes its own core's record alone. -/
theorem State.cores_go {s : State} {c : PCore} (h : s.TakesGo c) : (s.go c).cores = vupd s.cores c (goRecord s.cycle) := by
  unfold State.go
  extract_lets
  rw [if_neg fun hs => (s.not_takesGo_iff c).mpr hs h]
  rfl

/-- GO of a core leaves every other core's record. -/
theorem State.core_go_ne (s : State) {c d : PCore} (h : c ≠ d) : (s.go d).core c = s.core c := by
  by_cases takes : s.TakesGo d
  · unfold State.core
    rw [State.cores_go takes]
    exact vupd_get_ne s.cores _ h
  · rw [State.go_discarded takes]

/-- GO of a core leaves every field of the module's pages. -/
theorem State.rd_go_module (s : State) (d : PCore) {b : Nat} (f : Fld) (i : Nat) (hb : 0xA00010000000 ≤ b) : (s.go d).rd b f i = s.rd b f i :=
  s.rd_go_ne (offSeq_module d f i hb)

@[simp] theorem State.partSeed_go (s : State) (c d : PCore) : (s.go d).partSeed c = s.partSeed c := by
  unfold State.partSeed State.partOf
  rw [s.rd_go_module d _ _ (by decide), s.rd_go_module d _ _ (by decide)]

@[simp] theorem State.inReset_go (s : State) (c d : PCore) : (s.go d).inReset c = s.inReset c := by
  unfold State.inReset State.powered State.rdBit
  rw [s.rd_go_module d _ _ (by decide), s.rd_go_module d _ _ (by decide)]

/-- GO of a core leaves every other core's sequencer fields. -/
theorem State.rd_go_core_ne (s : State) {c d : PCore} (h : c ≠ d) {f : Fld} {i : Nat} (hf : f.off * 8 + f.lo + i * f.step < 0x80000) :
    (s.go d).rd (coreBase c) f i = s.rd (coreBase c) f i := s.rd_go_ne (offSeq_core h.symm hf)

theorem State.takesGo_go_ne (s : State) {c d : PCore} (h : c ≠ d) : (s.go d).TakesGo c = s.TakesGo c := by
  unfold State.TakesGo State.seqState
  rw [s.inReset_go, s.core_go_ne h, s.rd_go_core_ne h (by decide)]

/-! ### GO of a partition's cores -/

/-- Starting cores, each once, has every one of them that takes GO copy its partition's seed. -/
theorem State.rngSeed_foldl_go {s : State} {c : PCore} {l : List PCore} (hl : l.Nodup) (hc : c ∈ l) (h : s.TakesGo c) :
    (l.foldl State.go s).rd (coreBase c) F.SEQ_RNGSEED_SEED = s.partSeed c % 2 ^ 64 := by
  obtain ⟨before, after, rfl⟩ := List.append_of_mem hc
  obtain ⟨-, hafter, hbefore⟩ := List.nodup_append.mp hl
  have notAfter : ∀ d ∈ after, c ≠ d := fun d hd e => (List.nodup_cons.mp hafter).1 (e ▸ hd)
  have notBefore : ∀ d ∈ before, c ≠ d := fun d hd e => hbefore d hd c List.mem_cons_self e.symm
  have takes : (before.foldl State.go s).TakesGo c :=
    (foldl_keeps_mem (State.TakesGo · c) State.go before (fun t d hd => t.takesGo_go_ne (notBefore d hd)) s).mpr h
  rw [List.foldl_append, List.foldl_cons]
  calc (after.foldl State.go ((before.foldl State.go s).go c)).rd (coreBase c) F.SEQ_RNGSEED_SEED
      = ((before.foldl State.go s).go c).rd (coreBase c) F.SEQ_RNGSEED_SEED :=
        foldl_keeps_mem (State.rd · (coreBase c) F.SEQ_RNGSEED_SEED) _ _ (fun t d hd => t.rd_go_core_ne (notAfter d hd) (by decide)) _
    _ = (before.foldl State.go s).partSeed c % 2 ^ 64 := State.rngSeed_go takes
    _ = s.partSeed c % 2 ^ 64 := by rw [foldl_keeps (State.partSeed · c) State.go (fun t d => t.partSeed_go c d)]

/-- A doorbell's GO has every ready core of its partition copy the seed (R283, R351). -/
theorem State.rngSeed_doorGo {s : State} {p : Part} {c : PCore} (he : s.enabled c = true) (hp : s.partOf c = p.val)
    (hs : s.seqState c = 0 ∨ s.seqState c = 3) (hr : s.inReset c = false) (hf : (s.core c).fillEnd = none) :
    (s.doorGo p).rd (coreBase c) F.SEQ_RNGSEED_SEED = s.rd mmemBase F.MSE_SEED_SEED p.val % 2 ^ 64 := by
  have takes : s.TakesGo c := ⟨hr, hf, hs.imp_right Or.inr⟩
  unfold State.doorGo
  dsimp only
  rw [State.rd_of_seqPart (State.seqPart_wr_db _ c p _ _ _) (by decide), ← hp]
  refine State.rngSeed_foldl_go (((List.nodup_finRange 64).filter _).filter _) ?_ takes
  simp [allCores, he, hp, hs, hr, hf]

/-- A doorbell with a COUNT of 0 that is taken, with GO set and no self-test pending, starts the partition's cores (R351). -/
theorem State.doorbell_go {s : State} {f : Func} {p : Part} {v : Nat} (ready : s.hostReady = true) (door : s.doorOk f p = true)
    (exist : s.exist p.val = true) (reset : s.partInReset p.val = false) (count : bits v 12 16 = 0) (go : v.testBit 28 = true)
    (tests : s.testsPending p.val = false) : s.doorbell f p v = s.doorGo p := by
  unfold State.doorbell
  cases s.physOf (bits v 0 6) <;> simp [ready, door, exist, reset, count, go, tests]

/-! ### A host write of `MSE_SEEDp` -/

/-- The register at the address of partition `p`'s seed (R285). -/
theorem modReg_mseSeed : ∀ p : Part, modReg (mmemBase + 0x300 + p.val * 8) = some (mmemBase, R.MSE_SEED, p.val) := by
  decide +kernel

/-- `MSE_SEED` has no effect of its own: its one field is written. -/
theorem State.modPut_mseSeed (s : State) (i v : Nat) :
    s.modPut mmemBase R.MSE_SEED i v = s.wr mmemBase F.MSE_SEED_SEED (bits v 0 64) i := by
  simp [State.modPut, State.writeReg, State.writeField, R.MSE_SEED, F.MSE_SEED_SEED, mmemBase, mirBase]

/-- A write of PF0 to a partition's seed writes it in any state (R283). -/
theorem State.regWrite_mseSeed {s : State} {f : Func} (h : s.PF0Reaches f) (p : Part) (v : Nat) :
    s.regWrite f (mmemBase + 0x300 + p.val * 8) 8 v = s.wr mmemBase F.MSE_SEED_SEED (bits v 0 64) p.val := by
  have width : widthOk R.MSE_SEED (mmemBase + 0x300 + p.val * 8) 8 = true := by
    unfold widthOk mmemBase; simp
  unfold State.regWrite State.modWrite
  rw [dif_neg (by unfold coreBase mmemBase; simp; omega), dif_neg (by unfold dbBase mmemBase; simp; omega),
    if_neg (by unfold errBase secBase licBase mmemBase; omega), State.asPF0_of_reaches h, modReg_mseSeed]
  dsimp only
  rw [if_pos width, State.modPut_mseSeed]

/-- Settles O57: `rngSeed_go` says what GO copies at one core, `rngSeed_doorGo` what a doorbell's copies at each; `regWrite_mseSeed` says that a
write of the seed writes nothing else. -/
theorem goCopiesSeed : Obligations.GoCopiesSeed := by
  unfold Obligations.GoCopiesSeed
  refine ⟨?go, ?doorbell, ?write⟩
  case go =>
    intro f c s reaches reset fill test state
    refine ⟨s.go c, congrArg Host.Outcome.next ?_, State.rngSeed_go ⟨reset, fill, state⟩⟩
    rw [State.asCore_of_reaches reaches, State.hostGo, if_neg (by simp [test])]
  case doorbell =>
    intro f p v s ready door exist reset count go tests
    refine ⟨s.doorGo p, congrArg Host.Outcome.next ?_, fun c he hp hs hr hf => State.rngSeed_doorGo he hp hs hr hf⟩
    rw [if_pos go, State.doorbell_go ready door exist reset count go tests]
  case write =>
    intro f p v s reaches
    refine ⟨_, congrArg Host.Outcome.next (State.regWrite_mseSeed reaches p v.toNat), ?_, fun c => ?_⟩
    · rw [State.rd_wr_same]
      simp [bits, F.MSE_SEED_SEED, Nat.mod_eq_of_lt v.isLt]
    · exact State.rd_of_seqPart (State.seqPart_wr_module _ _ _ _ _ (by decide)) (by decide)

end Sys2Proof.Machine
end

section
/-!
SUPPORT. What stopping the units of cores leaves outside them: the requests at the picots, the router with its slot tables and flits, and every
core's `SPD_RESETDROP`; and from it what an abort of a task leaves (R144, R371).
-/
namespace Sys2Proof.Machine

/-! ### What lies outside a core's units -/

/-- The requests at the picots, the router's slot tables and flits, and `SPD_RESETDROP` of every core. -/
def State.beyondUnits (s : State) : Vector (List MemReq) 20 × SMap Nat × List FlitAt × List DstFlit × (PCore → Nat) :=
  (s.memReqs, s.net.tables, s.net.flits, s.net.dst, fun d => s.rd (spdBase d) F.SPD_RESETDROP_COUNT)

/-- The bit address of a core's `SPD_RESETDROP`. -/
theorem fkey_resetDrop (c : PCore) : fkey (spdBase c) F.SPD_RESETDROP_COUNT 0 = (spdBase c + 0x20) * 8 := by
  simp only [fkey, F.SPD_RESETDROP_COUNT]; omega

/-- A write of another field than the cores' `SPD_RESETDROP` leaves it. -/
theorem State.beyondUnits_wr (s : State) {b : Nat} {f : Fld} (v : Nat) {i : Nat}
    (h : ∀ d : PCore, fkey (spdBase d) F.SPD_RESETDROP_COUNT 0 ≠ fkey b f i) : (s.wr b f v i).beyondUnits = s.beyondUnits := by
  unfold State.beyondUnits
  simp only [State.rd_wr_ne s v (h _), State.wr_net]
  rfl

/-- A change of a core's record leaves it. -/
@[simp] theorem State.beyondUnits_onCore (s : State) (c : PCore) (f : CoreRec → CoreRec) : (s.onCore c f).beyondUnits = s.beyondUnits := rfl

/-- Discarding flits that wait at their source leaves it. -/
@[simp] theorem State.beyondUnits_src (s : State) (l : List SrcFlit) :
    ({ s with net := { s.net with src := l } } : State).beyondUnits = s.beyondUnits := rfl

/-- A write in one of the module's pages leaves it. -/
theorem State.beyondUnits_wr_module (s : State) {b : Nat} (f : Fld) (v i : Nat) (hb : 0xA00010000000 ≤ b) :
    (s.wr b f v i).beyondUnits = s.beyondUnits :=
  s.beyondUnits_wr v fun d => by rw [fkey_resetDrop]; unfold fkey spdBase coreBase; omega

@[simp] theorem State.beyondUnits_wr_err (s : State) (f : Fld) (v i : Nat) : (s.wr errBase f v i).beyondUnits = s.beyondUnits :=
  s.beyondUnits_wr_module f v i (by decide)

@[simp] theorem State.beyondUnits_wr_cxl (s : State) (f : Fld) (v i : Nat) : (s.wr cxlBase f v i).beyondUnits = s.beyondUnits :=
  s.beyondUnits_wr_module f v i (by decide)

@[simp] theorem State.beyondUnits_wr_db (s : State) (p : Part) (f : Fld) (v i : Nat) : (s.wr (dbBase p) f v i).beyondUnits = s.beyondUnits :=
  s.beyondUnits_wr_module f v i (by unfold dbBase; omega)

@[simp] theorem State.beyondUnits_wr_rst (s : State) (f : Fld) (v i : Nat) : (s.wr rstBase f v i).beyondUnits = s.beyondUnits :=
  s.beyondUnits_wr_module f v i (by decide)

/-- Within a core's slot, a write at any bit offset but that of `SPD_RESETDROP` leaves it. -/
theorem State.beyondUnits_wr_slot (s : State) (c : PCore) (page : Nat) {b : Nat} {f : Fld} {v i : Nat} (hb : b = coreBase c + page)
    (hslot : page * 8 + (f.off * 8 + f.lo + i * f.step) < 0x800000)
    (hdrop : page * 8 + (f.off * 8 + f.lo + i * f.step) ≠ 0x20020 * 8) : (s.wr b f v i).beyondUnits = s.beyondUnits := by
  refine s.beyondUnits_wr v fun d => ?_
  rw [fkey_resetDrop, hb]
  unfold fkey spdBase coreBase
  omega

/-- The sequencer's page of a core. -/
theorem State.beyondUnits_wr_seq (s : State) (c : PCore) {f : Fld} {v i : Nat} (hf : f.off * 8 + f.lo + i * f.step < 0x80000) :
    (s.wr (coreBase c) f v i).beyondUnits = s.beyondUnits := s.beyondUnits_wr_slot c 0 (Nat.add_zero _).symm (by omega) (by omega)

/-- The pages of a core's engine: its own, its accumulator's and its drain unit's. -/
theorem State.beyondUnits_wr_engine (s : State) (c : PCore) (e : Eng) {b : Nat} {f : Fld} {v i : Nat}
    (hb : b = opeBase c e ∨ b = accBase c e ∨ b = drnBase c e) (hf : f.off * 8 + f.lo + i * f.step < 0x8000) :
    (s.wr b f v i).beyondUnits = s.beyondUnits := by
  have page : coreBase c ≤ b ∧ b + 0x1000 ≤ coreBase c + 0x20000 := by unfold opeBase accBase drnBase at hb; omega
  exact s.beyondUnits_wr_slot c (b - coreBase c) (by omega) (by omega) (by omega)

/-- The scratchpad's page of a core. -/
theorem State.beyondUnits_wr_spd (s : State) (c : PCore) {f : Fld} {v i : Nat} (hf : f.off * 8 + f.lo + i * f.step < 0x80000)
    (hdrop : f.off * 8 + f.lo + i * f.step ≠ 0x20 * 8) : (s.wr (spdBase c) f v i).beyondUnits = s.beyondUnits :=
  s.beyondUnits_wr_slot c 0x20000 rfl (by omega) (by omega)

/-- The blocks of a core's bobbins, and what serves them both. -/
theorem State.beyondUnits_wr_bobbins (s : State) (c : PCore) {b : Nat} {f : Fld} {v i : Nat}
    (hb : b = bobcBase c ∨ ∃ k : Bob, b = bobBase c k) (hf : f.off * 8 + f.lo + i * f.step < 0x80000) :
    (s.wr b f v i).beyondUnits = s.beyondUnits := by
  have page : coreBase c + 0x40000 ≤ b ∧ b ≤ coreBase c + 0x40400 := by
    rcases hb with rfl | ⟨k, rfl⟩
    · unfold bobcBase; omega
    · unfold bobBase; omega
  exact s.beyondUnits_wr_slot c (b - coreBase c) (by omega) (by omega) (by omega)

/-! ### Records and reports -/

@[simp] theorem State.beyondUnits_msix (s : State) (f : Func) (v : Nat) : (s.msix f v).beyondUnits = s.beyondUnits := by
  unfold State.msix
  dsimp only
  split
  · rfl
  · split
    · rfl
    · rfl

@[simp] theorem State.beyondUnits_quarBegin (s : State) (c : PCore) : (s.quarBegin c).beyondUnits = s.beyondUnits := by
  unfold State.quarBegin State.sat
  extract_lets
  split
  · rfl
  · rw [State.beyondUnits_wr_err]; rfl

@[simp] theorem State.beyondUnits_errCount (s : State) (cls : Nat) : (s.errCount cls).beyondUnits = s.beyondUnits := by
  unfold State.errCount State.sat
  split
  · dsimp only; split <;> simp
  · simp
  · simp
  · rfl

@[simp] theorem State.beyondUnits_logWrite (s : State) (r : ErrRec) : (s.logWrite r).beyondUnits = s.beyondUnits := by
  have words (t : State) (g : Nat → Nat) (n : Nat) :
      ((List.range 4).foldl (fun t i => t.wr errBase F.ERR_LOG_WORD (g i) (n * 4 + i)) t).beyondUnits = t.beyondUnits :=
    foldl_keeps State.beyondUnits _ (fun t i => t.beyondUnits_wr_err _ _ _) _ t
  unfold State.logWrite State.setOn
  dsimp only
  split <;> simp only [State.beyondUnits_wr_err, words]

@[simp] theorem State.beyondUnits_errLog (s : State) (r : ErrRec) : (s.errLog r).beyondUnits = s.beyondUnits := by
  have counted : ((s.logWrite r).errCount r.cls).beyondUnits = s.beyondUnits := by simp
  unfold State.errLog State.setOn
  dsimp only
  split
  · simp only [State.beyondUnits_wr_err]
    exact counted
  · exact counted

@[simp] theorem State.beyondUnits_cqVector (s : State) (p : Part) : (s.cqVector p).beyondUnits = s.beyondUnits := by
  unfold State.cqVector
  split
  · rfl
  · dsimp only; split <;> simp

@[simp] theorem State.beyondUnits_cqWrite (s : State) (p : Part) (r : CqRec) : (s.cqWrite p r).beyondUnits = s.beyondUnits := by
  unfold State.cqWrite State.setOn
  dsimp only
  split
  next => simp
  next => rw [State.beyondUnits_cqVector, State.beyondUnits_wr_db]; rfl

@[simp] theorem State.beyondUnits_cqPost (s : State) (p kind core value data : Nat) :
    (s.cqPost p kind core value data).beyondUnits = s.beyondUnits := by
  unfold State.cqPost State.sat
  dsimp only
  split
  · split
    · rfl
    · split
      · simp
      · split
        · rw [State.beyondUnits_wr_db]; rfl
        · rw [State.beyondUnits_wr_db]; rfl
  · rfl

@[simp] theorem State.beyondUnits_abortReport (s : State) (p : Nat) : (s.abortReport p).beyondUnits = s.beyondUnits := by
  unfold State.abortReport
  split
  · split
    · split
      · rw [State.beyondUnits_cqPost]; rfl
      · rfl
    · rfl
  · rfl

/-! ### Windows, rings and units that stop -/

@[simp] theorem State.beyondUnits_creditRefuse (s : State) (c : PCore) (m k : Nat) : (s.creditRefuse c m k).beyondUnits = s.beyondUnits := by
  have refused (t : State) (d : PCore) (v : Nat) : (t.wr (spdBase d) F.SPD_CREDIT_REFUSED v).beyondUnits = t.beyondUnits :=
    t.beyondUnits_wr_spd d (by decide) (by decide)
  unfold State.creditRefuse State.sat State.setOn
  dsimp only
  split
  · split
    next => rw [State.beyondUnits_wr_spd _ _ (by decide) (by decide), State.beyondUnits_wr_spd _ _ (by decide) (by decide), refused]
    next => exact refused _ _ _
  · exact refused _ _ _

theorem State.beyondUnits_closeWindow (s : State) (c : PCore) {w : Nat} (hw : w < 16) : (s.closeWindow c w).beyondUnits = s.beyondUnits := by
  have opened (t : State) (v : Nat) : (t.wr (spdBase c) F.SPD_WINOPEN_OPEN v).beyondUnits = t.beyondUnits :=
    t.beyondUnits_wr_spd c (by decide) (by decide)
  have draining (t : State) (v : Nat) : (t.wr (spdBase c) F.SPD_WINOPEN_DRAINING v).beyondUnits = t.beyondUnits :=
    t.beyondUnits_wr_spd c (by decide) (by decide)
  have depth (t : State) (v : Nat) : (t.wr (spdBase c) F.SPD_CREDIT_QDEPTH v).beyondUnits = t.beyondUnits :=
    t.beyondUnits_wr_spd c (by decide) (by decide)
  have pool (t : State) (v : Nat) : (t.wr (spdBase c) F.SPD_WIN_B_POOL v w).beyondUnits = t.beyondUnits :=
    t.beyondUnits_wr_spd c (by simp only [F.SPD_WIN_B_POOL]; omega) (by simp only [F.SPD_WIN_B_POOL]; omega)
  have gen (t : State) (v : Nat) : (t.wr (spdBase c) F.SPD_WIN_B_GEN v w).beyondUnits = t.beyondUnits :=
    t.beyondUnits_wr_spd c (by simp only [F.SPD_WIN_B_GEN]; omega) (by simp only [F.SPD_WIN_B_GEN]; omega)
  unfold State.closeWindow State.wrBit State.count
  dsimp only
  split
  · rfl
  · rw [foldl_keeps State.beyondUnits _ (fun t q => by simp), depth, State.beyondUnits_onCore]
    split <;> simp only [draining, pool, gen, opened]

@[simp] theorem State.beyondUnits_closeWindows (s : State) (c : PCore) : (s.closeWindows c).beyondUnits = s.beyondUnits :=
  foldl_keeps_mem State.beyondUnits _ _ (fun t _ hw => t.beyondUnits_closeWindow c (List.mem_range.mp hw)) s

@[simp] theorem State.beyondUnits_disableRings (s : State) (c : PCore) : (s.disableRings c).beyondUnits = s.beyondUnits := by
  unfold State.disableRings
  refine (State.beyondUnits_onCore _ _ _).trans (foldl_keeps_mem State.beyondUnits _ _ (fun t r hr => ?_) s)
  have hr := List.mem_range.mp hr
  have ring (t : State) (f : Fld) (v : Nat) (hf : f.off * 8 + f.lo < 0x10000) (hs : f.step ≤ 128) :
      (t.wr (bobcBase c) f v r).beyondUnits = t.beyondUnits :=
    t.beyondUnits_wr_bobbins c (.inl rfl) (by have := Nat.mul_le_mul (Nat.le_of_lt hr) hs; omega)
  rw [ring _ _ _ (by decide) (by decide), ring _ _ _ (by decide) (by decide), ring _ _ _ (by decide) (by decide),
    ring _ _ _ (by decide) (by decide)]

@[simp] theorem State.beyondUnits_stopEngine (s : State) (c : PCore) (e : Eng) : (s.stopEngine c e).beyondUnits = s.beyondUnits := by
  have engine (t : State) (f : Fld) (v : Nat) (hf : f.off * 8 + f.lo < 0x8000) : (t.wr (opeBase c e) f v).beyondUnits = t.beyondUnits :=
    t.beyondUnits_wr_engine c e (.inl rfl) (by omega)
  unfold State.stopEngine
  dsimp only
  rw [State.beyondUnits_onCore]
  split
  · rfl
  · rw [engine _ _ _ (by decide), apply_ite State.beyondUnits, engine _ _ _ (by decide), ite_self]

@[simp] theorem State.beyondUnits_stopDrain (s : State) (c : PCore) (e : Eng) : (s.stopDrain c e).beyondUnits = s.beyondUnits := by
  have drain (t : State) (f : Fld) (v : Nat) (hf : f.off * 8 + f.lo < 0x8000) : (t.wr (drnBase c e) f v).beyondUnits = t.beyondUnits :=
    t.beyondUnits_wr_engine c e (.inr (.inr rfl)) (by omega)
  unfold State.stopDrain State.setOn State.wrBit
  dsimp only
  rw [State.beyondUnits_onCore, drain _ _ _ (by decide),
    foldl_keeps State.beyondUnits _ (fun t k => t.beyondUnits_wr_engine c e (.inr (.inl rfl)) (by decide))]
  split
  · exact drain _ _ _ (by decide)
  · rfl

@[simp] theorem State.beyondUnits_stopBobbin (s : State) (c : PCore) (k : Bob) : (s.stopBobbin c k).beyondUnits = s.beyondUnits := by
  have bobbin (t : State) (f : Fld) (v : Nat) (hf : f.off * 8 + f.lo < 0x80000) : (t.wr (bobBase c k) f v).beyondUnits = t.beyondUnits :=
    t.beyondUnits_wr_bobbins c (.inr ⟨k, rfl⟩) (by omega)
  unfold State.stopBobbin
  dsimp only
  rw [State.beyondUnits_onCore, bobbin _ _ _ (by decide), bobbin _ _ _ (by decide), bobbin _ _ _ (by decide)]

/-! ### A task that aborts -/

@[simp] theorem State.beyondUnits_recordWaits (s : State) (c : PCore) : (s.recordWaits c).beyondUnits = s.beyondUnits := by
  have seq (t : State) (f : Fld) (v : Nat) (hf : f.off * 8 + f.lo < 0x80000) : (t.wr (coreBase c) f v).beyondUnits = t.beyondUnits :=
    t.beyondUnits_wr_seq c (by omega)
  have who (t : State) (ws : List Waiter) : (ws.foldl (fun t w =>
      if w.unit < 9 then t.wr (coreBase c) F.SEQ_ABORTFLAG_WHO w.num w.unit else t) t).beyondUnits = t.beyondUnits :=
    foldl_keeps State.beyondUnits _ (fun t w => by
      split
      · exact t.beyondUnits_wr_seq c (by simp only [F.SEQ_ABORTFLAG_WHO]; omega)
      · rfl) ws t
  have spd (t : State) (v : Nat) : (t.wr (spdBase c) F.SPD_ABORTKIND_KIND v).beyondUnits = t.beyondUnits :=
    t.beyondUnits_wr_spd c (by decide) (by decide)
  have bob (t : State) (v : Nat) : (t.wr (bobcBase c) F.BOB_ABORTKIND_KIND v).beyondUnits = t.beyondUnits :=
    t.beyondUnits_wr_bobbins c (.inl rfl) (by decide)
  unfold State.recordWaits
  dsimp only
  split
  · split
    · rw [seq _ F.SEQ_ABORT_IADDR _ (by decide), bob, spd, who, seq _ _ _ (by decide)]
    · rw [bob, spd, who, seq _ _ _ (by decide)]
  · rw [seq _ F.SEQ_ABORT_IADDR _ (by decide), bob, spd, who, seq _ _ _ (by decide)]

@[simp] theorem State.beyondUnits_abortRecord (s : State) (cause : Nat) (who : Option (PCore × Nat)) (c : PCore) :
    (s.abortRecord cause who c).beyondUnits = s.beyondUnits := by
  have caused : ((s.recordWaits c).wr (coreBase c) F.SEQ_ABORT_CAUSE cause).beyondUnits = s.beyondUnits := by
    rw [State.beyondUnits_wr_seq _ _ (by decide), State.beyondUnits_recordWaits]
  unfold State.abortRecord
  dsimp only
  split
  · split
    · rw [State.beyondUnits_wr_seq _ _ (by decide), caused]
    · exact caused
  · exact caused

@[simp] theorem State.beyondUnits_abortUnits (s : State) (c : PCore) : (s.abortUnits c).beyondUnits = s.beyondUnits := by
  unfold State.abortUnits
  dsimp only
  rw [State.beyondUnits_quarBegin, State.beyondUnits_disableRings, State.beyondUnits_closeWindows,
    foldl_keeps State.beyondUnits _ (fun t k => by simp), foldl_keeps State.beyondUnits _ (fun t k => by simp), State.beyondUnits_src,
    State.beyondUnits_onCore, State.beyondUnits_wr_seq _ _ (by decide), State.beyondUnits_wr_seq _ _ (by decide)]

/-- An abort of a task leaves what lies outside the cores' units. -/
@[simp] theorem State.beyondUnits_abortTask (s : State) (p cause : Nat) (who : Option (PCore × Nat)) (post : Bool) (silent : List PCore) :
    (s.abortTask p cause who post silent).beyondUnits = s.beyondUnits := by
  have stopped (cs : List PCore) : (cs.foldl (fun t c =>
      if silent.contains c then t.abortUnits c else t.abortCore cause who c) s).beyondUnits = s.beyondUnits :=
    foldl_keeps State.beyondUnits _ (fun t c => by unfold State.abortCore; split <;> simp) cs s
  unfold State.abortTask
  dsimp only
  split
  · rfl
  · rw [State.beyondUnits_abortReport, State.beyondUnits_msix, State.beyondUnits_errLog]
    split
    · exact stopped _
    · exact stopped _

end Sys2Proof.Machine
end

section
/-!
SUPPORT. A core reset: what it keeps at its request, whether or not a task aborts, and what it keeps at its end, where the registers of the core's
slot reset (R191, R370, R371, R381).
-/
namespace Sys2Proof.Machine

/-! ### The request -/

/-- What a core reset keeps at its request (R371). -/
def State.keptByReset (s : State) : (MemRec × (PCore → SMap Byte × Vector (SMap AccWord) 4 × SMap IWord)) ×
    (Vector (List MemReq) 20 × SMap Nat × List FlitAt × List DstFlit × (PCore → Nat)) :=
  (s.memories, s.beyondUnits)

/-- A change that keeps the memories, and what lies outside the cores' units, keeps both. -/
theorem State.keptByReset_congr {s t : State} (hm : t.memories = s.memories) (hb : t.beyondUnits = s.beyondUnits) :
    t.keptByReset = s.keptByReset := Prod.ext hm hb

@[simp] theorem State.keptByReset_wr_rst (s : State) (f : Fld) (v i : Nat) : (s.wr rstBase f v i).keptByReset = s.keptByReset :=
  State.keptByReset_congr rfl (s.beyondUnits_wr_rst f v i)

/-- A change of one core that keeps its memories. -/
theorem State.keptByReset_onCore (s : State) (c : PCore) (f : CoreRec → CoreRec)
    (h : ∀ r, ((f r).spad, (f r).acc, (f r).imem) = (r.spad, r.acc, r.imem)) : (s.onCore c f).keptByReset = s.keptByReset :=
  State.keptByReset_congr (s.memories_onCore c f h) rfl

/-- A core at the acceptance of its reset keeps its memories, and all that lies outside its units (R371). -/
@[simp] theorem State.keptByReset_coreResetStart (s : State) (c : PCore) : (s.coreResetStart c).keptByReset = s.keptByReset := by
  have drain (t : State) (e : Eng) : (t.stopDrain c e).keptByReset = t.keptByReset := State.keptByReset_congr (by simp) (by simp)
  have bobbin (t : State) (b : Bob) : (t.stopBobbin c b).keptByReset = t.keptByReset := State.keptByReset_congr (by simp) (by simp)
  have closed (t : State) : ((t.closeWindows c).disableRings c).keptByReset = t.keptByReset := State.keptByReset_congr (by simp) (by simp)
  have idle (t : State) (l : List SrcFlit) : ({ t with net := { t.net with src := l } } : State).keptByReset = t.keptByReset := rfl
  unfold State.coreResetStart
  dsimp only
  rw [closed, idle]
  refine (foldl_keeps State.keptByReset _ (fun t b => ?stopBobbin) _ _).trans
    ((foldl_keeps State.keptByReset _ (fun t e => ?stopDrain) _ _).trans ?mark)
  case stopBobbin => exact (State.keptByReset_onCore _ c _ (by intro r; rfl)).trans (bobbin t b)
  case stopDrain => exact (drain _ e).trans (State.keptByReset_onCore _ c _ (by intro r; rfl))
  case mark => exact (State.keptByReset_onCore _ c _ (by intro r; rfl)).trans (s.keptByReset_wr_rst _ _ _)

/-- So do the resets of some cores at once, whether or not they abort a task (R370, R371). -/
@[simp] theorem State.keptByReset_resetCores (s : State) (cs : List PCore) (abort : Bool) :
    (s.resetCores cs abort).keptByReset = s.keptByReset := by
  have aborted (t : State) (p : Nat) (silent : List PCore) : (t.abortTask p 7 none true silent).keptByReset = t.keptByReset :=
    State.keptByReset_congr (State.memories_abortTask _ _ _ _ _ _) (by simp)
  unfold State.resetCores
  dsimp only
  rw [foldl_keeps State.keptByReset _ fun t c => t.keptByReset_coreResetStart c]
  split
  · refine foldl_keeps State.keptByReset _ (fun t c => ?_) _ s
    split
    · exact aborted _ _ _
    · rfl
  · rfl

/-- Reporting ended requests changes `hostReset`, and RESULT and BUSY of `RST_STAT` alone. -/
theorem State.rstCheck_keeps {γ : Type} (g : State → γ) (hostReset : ∀ (t : State) l, g { t with hostReset := l } = g t)
    (result : ∀ (t : State) v, g (t.wr rstBase F.RST_STAT_RESULT v) = g t) (busy : ∀ (t : State) v, g (t.wr rstBase F.RST_STAT_BUSY v) = g t)
    (s : State) : g s.rstCheck = g s := by
  unfold State.rstCheck
  dsimp only
  split
  · rfl
  · rw [busy, hostReset]
    split
    · exact result _ _
    · rfl

@[simp] theorem State.keptByReset_rstCheck (s : State) : s.rstCheck.keptByReset = s.keptByReset :=
  State.rstCheck_keeps State.keptByReset (fun _ _ => rfl) (fun _ _ => by simp) (fun _ _ => by simp) s

@[simp] theorem State.keptByReset_rstReport (s : State) (scope target result reason : Nat) :
    (s.rstReport scope target result reason).keptByReset = s.keptByReset := by
  unfold State.rstReport
  dsimp only
  split <;> simp

@[simp] theorem State.keptByReset_rstAccept (s : State) (scope target : Nat) : (s.rstAccept scope target).keptByReset = s.keptByReset := by
  unfold State.rstAccept
  rw [State.keptByReset_wr_rst, State.keptByReset_rstReport]
  rfl

/-- A request for the reset of a core or a cluster keeps it, whatever becomes of the request. -/
theorem State.keptByReset_rstRequest (s : State) {scope : Nat} (target : Nat) (h : scope ≠ 2) :
    (s.rstRequest scope target).keptByReset = s.keptByReset := by
  unfold State.rstRequest State.sat
  dsimp only
  rw [if_neg h]
  split
  · rfl
  · split
    · simp
    · split
      · simp
      · split
        · simp
        · simp

/-- A host write of a register of the reset page. -/
theorem State.keptByReset_writeReg_rst (s : State) (r : RegDef) (i v : Nat) : (s.writeReg rstBase r i v).keptByReset = s.keptByReset := by
  refine foldl_keeps State.keptByReset _ (fun t f => ?_) _ s
  unfold State.writeField
  cases f.acc with
  | rw | w1c | w1s => simp
  | rwl => dsimp only; rw [apply_ite State.keptByReset, State.keptByReset_wr_rst, ite_self]
  | ro | wo | rc => rfl

/-- The word that asks for a core's reset has GO set and SCOPE 0 (R381). -/
theorem rstWord_core : ∀ c : PCore, (rstWord 0 c.val).testBit 8 = true ∧ bits (rstWord 0 c.val) 0 2 = 0 := by decide

/-- The host's request for a core's reset keeps it. -/
theorem State.keptByReset_rstCmd_core (s : State) (c : PCore) : (s.rstCmd (rstWord 0 c.val)).keptByReset = s.keptByReset := by
  obtain ⟨go, scope⟩ := rstWord_core c
  unfold State.rstCmd
  dsimp only
  rw [go, scope, if_neg (by decide), if_neg (by decide), State.keptByReset_rstRequest _ _ (by decide), State.keptByReset_writeReg_rst]

/-! ### The end -/

/-- A key that is not taken out reads as before. -/
theorem get_wipe_of_not {ν : Type} (d : ν) {p : Nat → Bool} {k : Nat} (h : p k = false) (m : SMap ν) :
    SMap.get d (SMap.wipe p m) k = SMap.get d m k := by
  induction m with
  | nil => rfl
  | cons e m ih =>
    obtain ⟨a, v⟩ := e
    unfold SMap.wipe at *
    by_cases hk : k = a
    · subst hk; simp [SMap.get, h]
    · cases ha : p a <;> simp [SMap.get, ha, hk, ih]

/-- A field that is kept reads as before a range of registers is reset. -/
theorem State.rd_resetRange_kept (s : State) (lo hi : Nat) {keep : Nat → Bool} {b : Nat} {f : Fld} {i : Nat} (h : keep (fkey b f i) = true) :
    (s.resetRange lo hi keep).rd b f i = s.rd b f i := by
  unfold State.rd State.resetRange
  dsimp only
  rw [get_wipe_of_not 0 (by simp [h])]

/-- A field of a core's scratchpad page that is among the kept ones reads as before the slot's reset. -/
theorem State.rd_slotReset_kept (s : State) {c : PCore} {f : Fld} {i : Nat} (h : fkey (spdBase c) f i ∈ keptKeys c) :
    (s.slotReset c).rd (spdBase c) f i = s.rd (spdBase c) f i := by
  unfold State.slotReset
  refine (foldl_keeps (State.rd · (spdBase c) f i) _ (fun t x => ?_) _ _).trans
    (s.rd_resetRange_kept _ _ (List.contains_iff_mem.mpr h))
  split
  · refine State.rd_wr_ne _ _ ?_
    simp only [fkey, F.OPE_STATUS_STATE, spdBase, opeBase]
    omega
  · rfl

/-- The slot's reset changes registers alone. -/
theorem State.slotReset_keeps {γ : Type} (g : State → γ) (regs : ∀ (t : State) r, g { t with regs := r } = g t) (s : State) (c : PCore) :
    g (s.slotReset c) = g s := by
  unfold State.slotReset
  refine (foldl_keeps g _ (fun t x => ?_) _ _).trans (regs _ _)
  split
  · exact regs _ _
  · rfl

/-- The requests at the picots that a core's reset orphans keep their partition, operation and address (R371). -/
theorem State.memReqs_orphan (s : State) (c : PCore) (k : Stack) :
    (s.orphan c).memReqs[k].map (fun r => (r.part, r.op, r.addr)) = s.memReqs[k].map (fun r => (r.part, r.op, r.addr)) := by
  unfold State.orphan
  simp only [Fin.getElem_fin, Vector.getElem_map, List.map_map]
  refine List.map_congr_left fun r _ => ?_
  dsimp only [Function.comp_apply]
  split
  · rfl
  · rfl

/-- The end of a core's reset up to its sequencer's state: what remains of its requests is orphaned, and its registers have had their reset. -/
def State.slotAtEnd (s : State) (c : PCore) : State := if (s.core c).regsDone then s.orphan c else (s.orphan c).slotReset c

theorem State.slotAtEnd_keeps {γ : Type} (g : State → γ) (regs : ∀ (t : State) r, g { t with regs := r } = g t) (s : State) (c : PCore) :
    g (s.slotAtEnd c) = g (s.orphan c) := by
  unfold State.slotAtEnd
  split
  · rfl
  · exact State.slotReset_keeps g regs _ c

theorem State.rd_slotAtEnd_kept (s : State) {c : PCore} {f : Fld} {i : Nat} (h : fkey (spdBase c) f i ∈ keptKeys c) :
    (s.slotAtEnd c).rd (spdBase c) f i = s.rd (spdBase c) f i := by
  unfold State.slotAtEnd
  split
  · rfl
  · exact (s.orphan c).rd_slotReset_kept h

/-- What a core reset's end does where no zero-fill follows: beyond `slotAtEnd` it writes the sequencer's state and the core's bit of
`RST_CORESTAT`, and changes the core's record but not its memories. -/
theorem State.coreResetEnd_eq {s : State} {c : PCore} (h : (s.core c).wantFill = false) : ∃ state f,
    s.coreResetEnd c = (((s.slotAtEnd c).wr (coreBase c) F.SEQ_STATUS_STATE state).onCore c f).wrBit rstBase F.RST_CORESTAT_INRESET c.val
        false ∧
      (f (s.core c)).spad = (s.core c).spad ∧ (f (s.core c)).acc = (s.core c).acc ∧ (f (s.core c)).imem = (s.core c).imem := by
  have core : (s.slotAtEnd c).core c = s.core c := State.slotAtEnd_keeps (State.core · c) (fun _ _ => rfl) s c
  unfold State.coreResetEnd
  extract_lets s₁ s₂ s₃ fresh freshBob s₄ s₅
  have noFill : (s₄.core c).fillEnd = none := by
    have before : s₃.core c = s.core c := core
    simp only [s₄, State.core_onCore, before, h, Bool.false_eq_true, if_false]
  have ended : s₅ = s₄ := if_neg (by simp [noFill])
  exact ⟨_, _, congrArg (·.wrBit rstBase F.RST_CORESTAT_INRESET c.val false) ended, rfl, rfl, rfl⟩

/-- The end of a core's reset, the host's requests that end with it among it: where no zero-fill follows, a part `g` of the state is as its
requests' orphaning leaves it, if no register and no core's record changes it. -/
theorem State.coreResetOver_keeps {γ : Type} (g : State → γ) (regs : ∀ (t : State) r, g { t with regs := r } = g t)
    (cores : ∀ (t : State) r, g { t with cores := r } = g t) (hostReset : ∀ (t : State) l, g { t with hostReset := l } = g t)
    {s : State} {c : PCore} (h : (s.core c).wantFill = false) : g (s.coreResetEnd c).rstCheck = g (s.orphan c) := by
  obtain ⟨state, f, eq, -⟩ := State.coreResetEnd_eq h
  rw [State.rstCheck_keeps g hostReset (fun _ _ => regs _ _) (fun _ _ => regs _ _), eq]
  calc g ((((s.slotAtEnd c).wr (coreBase c) F.SEQ_STATUS_STATE state).onCore c f).wrBit rstBase F.RST_CORESTAT_INRESET c.val false)
    _ = g (((s.slotAtEnd c).wr (coreBase c) F.SEQ_STATUS_STATE state).onCore c f) := regs _ _
    _ = g ((s.slotAtEnd c).wr (coreBase c) F.SEQ_STATUS_STATE state) := cores _ _
    _ = g (s.slotAtEnd c) := regs _ _
    _ = g (s.orphan c) := State.slotAtEnd_keeps g regs s c

/-- Reporting ended requests leaves every register field but RESULT and BUSY of `RST_STAT`. -/
theorem State.rd_rstCheck_ne (s : State) {b : Nat} {f : Fld} {i : Nat} (hr : fkey b f i ≠ fkey rstBase F.RST_STAT_RESULT 0)
    (hb : fkey b f i ≠ fkey rstBase F.RST_STAT_BUSY 0) : s.rstCheck.rd b f i = s.rd b f i :=
  State.rstCheck_keeps (State.rd · b f i) (fun _ _ => rfl) (fun _ _ => State.rd_wr_ne _ _ hr) (fun _ _ => State.rd_wr_ne _ _ hb) s

/-- A field of the scratchpad's page that is kept reads as before the end of the core's reset. -/
theorem State.rd_coreResetOver_kept {s : State} {c : PCore} (hw : (s.core c).wantFill = false) {f : Fld} {i : Nat}
    (h : fkey (spdBase c) f i ∈ keptKeys c) (hf : f.off * 8 + f.lo + i * f.step < 0x80000) :
    (s.coreResetEnd c).rstCheck.rd (spdBase c) f i = s.rd (spdBase c) f i := by
  have page : (spdBase c) * 8 ≤ fkey (spdBase c) f i ∧ fkey (spdBase c) f i < rstBase * 8 := by
    unfold fkey spdBase coreBase rstBase; omega
  have apart (g : Fld) (j : Nat) : fkey (spdBase c) f i ≠ fkey rstBase g j := by
    have : rstBase * 8 ≤ fkey rstBase g j := by unfold fkey; omega
    omega
  obtain ⟨state, r, eq, -⟩ := State.coreResetEnd_eq hw
  rw [State.rd_rstCheck_ne _ (apart _ _) (apart _ _), eq, State.wrBit, State.rd_wr_ne _ _ (apart _ _), State.rd_onCore, State.rd_wr_ne,
    State.rd_slotAtEnd_kept s h]
  rw [show fkey (coreBase c) F.SEQ_STATUS_STATE 0 = (coreBase c + 0x10) * 8 + 0 + 0 * 0 from rfl]
  unfold spdBase at page ⊢
  omega

/-- The core keeps its memories. -/
theorem State.core_coreResetOver {s : State} {c : PCore} (h : (s.core c).wantFill = false) :
    ((s.coreResetEnd c).rstCheck.core c).spad = (s.core c).spad ∧ ((s.coreResetEnd c).rstCheck.core c).acc = (s.core c).acc ∧
      ((s.coreResetEnd c).rstCheck.core c).imem = (s.core c).imem := by
  obtain ⟨state, f, eq, memories⟩ := State.coreResetEnd_eq h
  have core : (s.coreResetEnd c).rstCheck.core c = f (s.core c) := by
    rw [State.rstCheck_keeps (State.core · c) (fun _ _ => rfl) (fun _ _ => rfl) (fun _ _ => rfl), eq, State.wrBit, State.core_wr,
      State.core_onCore, State.core_wr]
    exact congrArg f (State.slotAtEnd_keeps (State.core · c) (fun _ _ => rfl) s c)
  rwa [core]

theorem bit_putBit_false (w i : Nat) : bit (putBit w i false) i = false := by
  unfold bit putBit
  cases h : w.testBit i <;> simp [h]

/-- The core is in reset no longer. -/
theorem State.resetting_coreResetOver {s : State} {c : PCore} (h : (s.core c).wantFill = false) :
    (s.coreResetEnd c).rstCheck.resetting c = false := by
  obtain ⟨state, f, eq, -⟩ := State.coreResetEnd_eq h
  unfold State.resetting State.rdBit
  rw [State.rd_rstCheck_ne _ (by decide) (by decide), eq, State.wrBit, State.rd_wr_same]
  refine (Nat.testBit_mod_two_pow _ _ _).trans ?_
  rw [← bit, bit_putBit_false, Bool.and_false]

/-- The end of a core's reset comes once its time is over, its folds are complete, and no request of its bobbins to local HBM is left (R370). -/
theorem exec_coreResetComplete {s : State} {c : PCore} {e : Nat} (hend : (s.core c).resetEnd = some e) (htime : e ≤ s.cycle)
    (hreset : s.resetting c = true) (hfold : ∀ i : Eng, (s.eng c i).issued = []) (hlocal : s.localHeld c = false) :
    exec (.coreResetComplete c) s = .next (s.coreResetEnd c).rstCheck := by
  have folded : (s.core c).engines.toList.all (fun e => e.issued.isEmpty) = true := by
    refine List.all_eq_true.mpr fun r hr => ?_
    obtain ⟨i, hi, rfl⟩ := List.mem_iff_getElem.mp hr
    exact List.isEmpty_iff.mpr (hfold ⟨i, by simpa using hi⟩)
  refine congrArg Host.Outcome.next ?_
  rw [hend]
  dsimp only
  rw [if_pos (by simp [hreset, htime, folded, hlocal])]

/-- The window generations and `SPD_RESETDROP` are among the fields that a core reset keeps. -/
theorem gen_mem_keptKeys (c : PCore) {w : Nat} (hw : w < 16) : fkey (spdBase c) F.SPD_WIN_B_GEN w ∈ keptKeys c :=
  List.mem_append_left _ (List.mem_append_left _ (List.mem_map_of_mem (List.mem_range.mpr hw)))

theorem resetDrop_mem_keptKeys (c : PCore) : fkey (spdBase c) F.SPD_RESETDROP_COUNT 0 ∈ keptKeys c :=
  List.mem_append_left _ (List.mem_append_right _ List.mem_cons_self)

/-- Settles O58: `keptByReset_rstCmd_core` says what the request keeps; the lemmas on `(s.coreResetEnd c).rstCheck` say what the end keeps. -/
theorem coreResetKeeps : Obligations.CoreResetKeeps := by
  unfold Obligations.CoreResetKeeps
  refine ⟨?request, ?complete⟩
  case request =>
    intro f c s reaches
    have kept := s.keptByReset_rstCmd_core c
    refine ⟨s.rstCmd (rstWord 0 c.val), congrArg Host.Outcome.next (State.asPF0_of_reaches reaches rstBase _), ?_⟩
    simp only [State.keptByReset, State.memories, State.beyondUnits, Prod.mk.injEq] at kept
    obtain ⟨⟨mem, cores⟩, memReqs, tables, flits, dst, resetDrop⟩ := kept
    refine ⟨mem, memReqs, tables, flits, dst, fun d => ?_⟩
    obtain ⟨spad, acc, imem⟩ : _ ∧ _ ∧ _ := by simpa only [Prod.mk.injEq] using congrFun cores d
    exact ⟨spad, acc, imem, congrFun resetDrop d⟩
  case complete =>
    intro c s e hend htime hreset hfold hlocal hfill
    obtain ⟨spad, acc, imem⟩ := State.core_coreResetOver hfill
    have net := State.coreResetOver_keeps State.net (fun _ _ => rfl) (fun _ _ => rfl) (fun _ _ => rfl) hfill
    have mem := State.coreResetOver_keeps State.mem (fun _ _ => rfl) (fun _ _ => rfl) (fun _ _ => rfl) hfill
    have memReqs := State.coreResetOver_keeps State.memReqs (fun _ _ => rfl) (fun _ _ => rfl) (fun _ _ => rfl) hfill
    refine ⟨_, exec_coreResetComplete hend htime hreset hfold hlocal, State.resetting_coreResetOver hfill, spad, acc, imem, fun w hw => ?_,
      State.rd_coreResetOver_kept hfill (resetDrop_mem_keptKeys c) (by decide), net, mem, fun k => ?_⟩
    · exact State.rd_coreResetOver_kept hfill (gen_mem_keptKeys c hw) (by simp only [F.SPD_WIN_B_GEN]; omega)
    · rw [memReqs, State.memReqs_orphan]

end Sys2Proof.Machine
end
